-- ==== Sys2Proof/Word.lean ====
section
/-! DEFINITION. Words of the Valris YVL-9408: the widths the spec gives its data (00 R2, 03 R34, 07 R108). -/

namespace Sys2Proof

/-- A byte, the smallest addressable unit (00 R2). -/
abbrev Byte := BitVec 8
/-- A 32-bit instruction word (03 R34). -/
abbrev W32 := BitVec 32
/-- A 64-bit scalar register or address (07 R108). -/
abbrev W64 := BitVec 64
/-- A register number in a five-bit operand field (03 R42). -/
abbrev Reg := BitVec 5
/-- The 256 data bits of a vector register (08 R134). -/
abbrev W256 := BitVec 256

end Sys2Proof
end

