-- ==== Sys2Proof/Config.lean ====
section
/-! DEFINITION. What the spec leaves open: opaque functions without a body, so that no proof can see a value of them.
Each is applied to the step's number or to `State.freeCtr`, so that every use may differ (notes/assumptions/1.md). -/

namespace Sys2Proof.Config

/-- Core cycles beyond one tick that pass before the step with this number: the spec fixes no schedule of steps (07 R118, 28 R442). -/
opaque cyclesTaken : Nat → Nat
/-- A free 64-bit value. -/
opaque freeWord : Nat → BitVec 64
/-- A free choice among `n` candidates is this value modulo `n`: which member of a CONT group forms an address (13 R242),
which line is evicted (09 R166), where a gang is placed (02 R17). -/
opaque freeNat : Nat → Nat
/-- A free choice between two permitted behaviours. -/
opaque freeBool : Nat → Bool
/-- Modulo 6, the rounding mode in force while `RMODE.MODE` holds 6 or 7: no write leaves such a value there, but an object that was edited
and resealed may, and the spec names no mode for it (06 Table 5). -/
opaque openMode : Nat → Nat

end Sys2Proof.Config
end

