-- ==== Sys2Proof/Syntax.lean ====
section
/-! DEFINITION. The instructions and machine events of the Valris YVL-9408, one constructor for each row of
spec/opcode_table.json. Rows 0 to 217 are the instructions of 03 Table 5; their operands are the fields that 03 Table 2
gives them, already read in the coding of the class (03 R40 to R42). Rows 218 to 329 are the indivisible steps of the
machine's other agents (95_what_each_step_holds.md); they have no encoding, and their operands say which message, unit
or outside value the step takes. -/

namespace Sys2Proof

/-- Coding I of 03 Table 3: an integer width. -/
inductive ISz where
  | b | h | w | d
  deriving DecidableEq, Repr

/-- Coding I as AMO takes it: only `w` and `d` (10 R188). -/
inductive ASz where
  | w | d
  deriving DecidableEq, Repr

/-- Coding F of 03 Table 3: an IEEE format. -/
inductive FFmt where
  | f16 | bf16 | f32 | f64
  deriving DecidableEq, Repr

/-- Coding V of 03 Table 3: a vector element. -/
inductive VFmt where
  | i8 | i16 | i32 | i64 | bf16 | f16 | f32 | f64
  deriving DecidableEq, Repr

/-- Coding M of 03 Table 3: a matrix element. -/
inductive MFmt where
  | t8 | t8b | t6b | i8b | i8 | bf16 | f16
  deriving DecidableEq, Repr

/-- The coding that `Q` selects in VCVT and VMEM (03 R39): V when 0, M when 1. -/
inductive VM where
  | v (f : VFmt) | m (f : MFmt)
  deriving DecidableEq, Repr

/-- Coding C of 03 Table 3: a branch condition. -/
inductive Cond where
  | eq | ne | lt | ge | ltu | geu
  deriving DecidableEq, Repr

/-- Coding CR of 03 Table 3: the width of `crand`. -/
inductive CrSz where
  | w | d | f32
  deriving DecidableEq, Repr

/-- `RM` in a class that rounds (03 Table 4): the thread's mode, or one named mode. -/
inductive Rm where
  | thread | rne | rtz | rdn | rup | rmm | rsc
  deriving DecidableEq, Repr

/-- A memory order: `ORD`, and `Q` = 1 with `ORD` = 0b11 for `seq` (03 R39, Table 4). -/
inductive MemOrd where
  | weak | acq | rel | ar | seq
  deriving DecidableEq, Repr

/-- A scope (03 Table 4). -/
inductive Scope where
  | th | core | g | cl | mod | sys
  deriving DecidableEq, Repr

/-- An immediate of an operation with a 64-bit form (`IMM16`) and a 96-bit form (`IMM32`, with `IMM16` zero). -/
inductive ImmA where
  | i16 (v : BitVec 16) | i32 (v : BitVec 32)
  deriving DecidableEq, Repr

/-- The immediate of `li`, in its three lengths (07 R123). -/
inductive ImmL where
  | i16 (v : BitVec 16) | i32 (v : BitVec 32) | i64 (v : BitVec 64)
  deriving DecidableEq, Repr

/-- The length of a `nop` in bits (03 R34, 07 R133). -/
inductive NopLen where
  | l64 | l96 | l128
  deriving DecidableEq, Repr

/-- The base of `vld` and `vst` (10 R197): register mode with a 15-bit or 32-bit displacement, or a stream pointer,
advanced after the access when `post` holds. -/
inductive VBase where
  | reg (a : Reg) (disp : BitVec 15) | regLong (a : Reg) (disp : BitVec 32) | ptr (p : BitVec 3) (post : Bool)
  deriving DecidableEq, Repr

/-- What a host snoop of one line of the CXL agent asks for (24 R406, Table 5; CXL.cache). -/
inductive Snoop where
  | share | invalidate
  deriving DecidableEq, Repr

/-- What consumes a word with an uncorrected error (14 R252): a thread's access or a feed core's (precisely), an engine's, a forward of a
rotation block (22 R386), a write of a save (20 R365); or nothing does, and a thread set is told later. -/
inductive Consumer where
  | thread (core t : Nat) | feed (core : Nat) (storer : Bool) | engine (job : Nat) | forward (ring : Nat) | save (gang : Nat)
  | later (core t : Nat)
  deriving DecidableEq, Repr

/-- A host's read of HBM (24 R402): its length, and whether the line stays in the host's cache, exclusively or not. -/
structure HostRead where
  n    : Nat
  hold : Option Bool
  deriving DecidableEq, Repr

/-- A host's write of HBM (24 R402): its bytes, and whether the host writes into its own cache. -/
structure HostWrite where
  bytes  : List (BitVec 8)
  cached : Bool
  deriving DecidableEq, Repr

/-- A flit of a link port (22 R377): a header doubleword, fourteen payload doublewords and a CRC doubleword. -/
structure Flit where
  hdr     : W64
  payload : List W64
  crc     : W64
  deriving DecidableEq, Repr

/-- One entry of the domain table as firmware writes it (13 R247), with the domain's other settings. -/
structure DomainCfg where
  valid    : Bool
  root     : W64
  tvec     : W64
  key      : List Byte
  ceiling  : Nat
  sealRight : Bool
  saveAreas : List W64
  deriving DecidableEq, Repr

/-- The settings a firmware image carries (26 R427, Table 1 step 6). -/
structure FwConfig where
  domains   : List DomainCfg
  owners    : List (Nat × Nat)
  rings     : List W64
  localMap  : Bool
  quantum   : Nat
  watchdog  : Nat
  threshold : Nat
  powerCap  : Nat
  version   : W32
  deriving DecidableEq, Repr

/-- A firmware image as step 1 of bring-up sees it: whether its signature verifies, and what it configures (26 R426). -/
structure Image where
  valid : Bool
  cfg   : FwConfig
  deriving DecidableEq, Repr

/-- What the self-tests and trainings of one bring-up find (26 R426, Table 1): the units that fail, and the SRAM
arrays by their numbers (26 R430). -/
structure BringUp where
  arrays   : List Nat
  cores    : List Nat
  clusters : List Nat
  hbmFail  : List Nat
  ports    : List Nat
  deriving DecidableEq, Repr

/-- The instructions and machine events (spec/opcode_table.json). -/
inductive Instr where
  /-- R122. Integer add of x[A] and x[B] at width n, sign-extended into x[D]. -/
  | add (sz : ISz) (d : Reg) (a : Reg) (b : Reg)
  /-- R122. Integer subtract at width n, sign-extended into x[D]. -/
  | sub (sz : ISz) (d : Reg) (a : Reg) (b : Reg)
  /-- R122. Bitwise AND of two scalar registers. -/
  | and (sz : ISz) (d : Reg) (a : Reg) (b : Reg)
  /-- R122. Bitwise OR of two scalar registers. -/
  | or (sz : ISz) (d : Reg) (a : Reg) (b : Reg)
  /-- R122. Bitwise XOR of two scalar registers. -/
  | xor (sz : ISz) (d : Reg) (a : Reg) (b : Reg)
  /-- R122. x[A] AND NOT x[B]. -/
  | andn (sz : ISz) (d : Reg) (a : Reg) (b : Reg)
  /-- R122. Shift left by x[B] mod n. -/
  | shl (sz : ISz) (d : Reg) (a : Reg) (b : Reg)
  /-- R122. Logical shift right by x[B] mod n. -/
  | shr (sz : ISz) (d : Reg) (a : Reg) (b : Reg)
  /-- R122. Arithmetic shift right by x[B] mod n. -/
  | sra (sz : ISz) (d : Reg) (a : Reg) (b : Reg)
  /-- R122. Rotate left within n bits. -/
  | rol (sz : ISz) (d : Reg) (a : Reg) (b : Reg)
  /-- R122. Rotate right within n bits. -/
  | ror (sz : ISz) (d : Reg) (a : Reg) (b : Reg)
  /-- R122. Signed minimum. -/
  | min (sz : ISz) (d : Reg) (a : Reg) (b : Reg)
  /-- R122. Signed maximum. -/
  | max (sz : ISz) (d : Reg) (a : Reg) (b : Reg)
  /-- R122. Unsigned minimum. -/
  | minu (sz : ISz) (d : Reg) (a : Reg) (b : Reg)
  /-- R122. Unsigned maximum. -/
  | maxu (sz : ISz) (d : Reg) (a : Reg) (b : Reg)
  /-- R122. Signed set-less-than. -/
  | slt (sz : ISz) (d : Reg) (a : Reg) (b : Reg)
  /-- R122. Unsigned set-less-than. -/
  | sltu (sz : ISz) (d : Reg) (a : Reg) (b : Reg)
  /-- R122. Set to 1 when the operands are equal. -/
  | seq (sz : ISz) (d : Reg) (a : Reg) (b : Reg)
  /-- R122. Select x[A] when x[C] is nonzero, otherwise x[B]. -/
  | sel (sz : ISz) (d : Reg) (a : Reg) (b : Reg) (c : Reg)
  /-- R123. Add an immediate. -/
  | addi (sz : ISz) (d : Reg) (a : Reg) (imm : ImmA)
  /-- R123. AND with an immediate. -/
  | andi (sz : ISz) (d : Reg) (a : Reg) (imm : ImmA)
  /-- R123. OR with an immediate. -/
  | ori (sz : ISz) (d : Reg) (a : Reg) (imm : ImmA)
  /-- R123. XOR with an immediate. -/
  | xori (sz : ISz) (d : Reg) (a : Reg) (imm : ImmA)
  /-- R123. Shift left by an immediate count. -/
  | shli (sz : ISz) (d : Reg) (a : Reg) (s : BitVec 6)
  /-- R123. Logical shift right by an immediate count. -/
  | shri (sz : ISz) (d : Reg) (a : Reg) (s : BitVec 6)
  /-- R123. Arithmetic shift right by an immediate count. -/
  | srai (sz : ISz) (d : Reg) (a : Reg) (s : BitVec 6)
  /-- R123. Load an immediate into x[D]. -/
  | li (sz : ISz) (d : Reg) (imm : ImmL)
  /-- R123. Write the instruction's PC plus an immediate into x[D]. -/
  | pcadd (d : Reg) (imm : ImmA)
  /-- R124. Low half of the product. -/
  | mul (sz : ISz) (d : Reg) (a : Reg) (b : Reg)
  /-- R124. High half of the signed product. -/
  | mulh (sz : ISz) (d : Reg) (a : Reg) (b : Reg)
  /-- R124. High half of the unsigned product. -/
  | mulhu (sz : ISz) (d : Reg) (a : Reg) (b : Reg)
  /-- R124. High half of the signed-by-unsigned product. -/
  | mulhsu (sz : ISz) (d : Reg) (a : Reg) (b : Reg)
  /-- R124. Signed division toward zero on the core's divider. -/
  | div (sz : ISz) (d : Reg) (a : Reg) (b : Reg)
  /-- R124. Unsigned division. -/
  | divu (sz : ISz) (d : Reg) (a : Reg) (b : Reg)
  /-- R124. Signed remainder, with the sign of the dividend. -/
  | rem (sz : ISz) (d : Reg) (a : Reg) (b : Reg)
  /-- R124. Unsigned remainder. -/
  | remu (sz : ISz) (d : Reg) (a : Reg) (b : Reg)
  /-- R124. Multiply and add, modulo 2^n. -/
  | madd (sz : ISz) (d : Reg) (a : Reg) (b : Reg) (c : Reg)
  /-- R125. Count leading zero bits. -/
  | clz (sz : ISz) (d : Reg) (a : Reg)
  /-- R125. Count trailing zero bits. -/
  | ctz (sz : ISz) (d : Reg) (a : Reg)
  /-- R125. Count one bits. -/
  | popc (sz : ISz) (d : Reg) (a : Reg)
  /-- R125. Extract a bit field, sign-extended. -/
  | bfx (sz : ISz) (d : Reg) (a : Reg) (pos : BitVec 6) (len : BitVec 7)
  /-- R125. Extract a bit field, zero-extended. -/
  | bfxu (sz : ISz) (d : Reg) (a : Reg) (pos : BitVec 6) (len : BitVec 7)
  /-- R125. Insert a bit field into x[B]. -/
  | bfi (sz : ISz) (d : Reg) (a : Reg) (b : Reg) (pos : BitVec 6) (len : BitVec 7)
  /-- R125. Reverse the bytes within n bits. -/
  | bswap (sz : ISz) (d : Reg) (a : Reg)
  /-- R125. Reverse the bits within n bits. -/
  | brev (sz : ISz) (d : Reg) (a : Reg)
  /-- R125. Sign-extend n bits to 64. -/
  | sext (sz : ISz) (d : Reg) (a : Reg)
  /-- R125. Zero-extend n bits to 64. -/
  | zext (sz : ISz) (d : Reg) (a : Reg)
  /-- R144. Scalar IEEE add. -/
  | fadd (fmt : FFmt) (rm : Rm) (d : Reg) (a : Reg) (b : Reg)
  /-- R144. Scalar IEEE subtract. -/
  | fsub (fmt : FFmt) (rm : Rm) (d : Reg) (a : Reg) (b : Reg)
  /-- R144. Scalar IEEE multiply. -/
  | fmul (fmt : FFmt) (rm : Rm) (d : Reg) (a : Reg) (b : Reg)
  /-- R144. Scalar fused multiply-add, rounded once. -/
  | fma (fmt : FFmt) (rm : Rm) (d : Reg) (a : Reg) (b : Reg) (c : Reg)
  /-- R144. Scalar negated fused multiply-add. -/
  | fnma (fmt : FFmt) (rm : Rm) (d : Reg) (a : Reg) (b : Reg) (c : Reg)
  /-- R145. Scalar IEEE divide on the scalar FP divider. -/
  | fdiv (fmt : FFmt) (rm : Rm) (d : Reg) (a : Reg) (b : Reg)
  /-- R145. Scalar IEEE square root. -/
  | fsqrt (fmt : FFmt) (rm : Rm) (d : Reg) (a : Reg)
  /-- R144. Scalar minimum under R87. -/
  | fmin (fmt : FFmt) (d : Reg) (a : Reg) (b : Reg)
  /-- R144. Scalar maximum under R87. -/
  | fmax (fmt : FFmt) (d : Reg) (a : Reg) (b : Reg)
  /-- R145. Replace the sign of x[A] by copy, negation or XOR. -/
  | fsgn (fmt : FFmt) (d : Reg) (a : Reg) (b : Reg) (mode : BitVec 2)
  /-- R145. Compare two scalar FP values under a condition. -/
  | fcmp (fmt : FFmt) (d : Reg) (a : Reg) (b : Reg) (mode : BitVec 2)
  /-- R145. Write a one-hot class mask of x[A]. -/
  | fclass (fmt : FFmt) (d : Reg) (a : Reg)
  /-- R146. Convert to an IEEE format from a source type. -/
  | fcvt (fmt : FFmt) (rm : Rm) (d : Reg) (a : Reg) (src : BitVec 3)
  /-- R146. Convert from an IEEE format to an integer type. -/
  | fcvtInt (fmt : FFmt) (rm : Rm) (d : Reg) (a : Reg) (dst : BitVec 3)
  /-- R147. Move the low bits of a format without conversion. -/
  | fmv (fmt : FFmt) (d : Reg) (a : Reg)
  /-- R126. Conditional PC-relative branch. -/
  | br (cond : Cond) (a : Reg) (b : Reg) (imm : ImmA)
  /-- R126. PC-relative jump; on a feed core jmp . drains the journal and stops the feed core. -/
  | jmp (imm : ImmA)
  /-- R126. Jump to a register plus offset. -/
  | jmpr (a : Reg) (imm : BitVec 16)
  /-- R112. PC-relative call that marks registers dead and writes x1. -/
  | call (imm : ImmA)
  /-- R112. Register-indirect call that marks registers dead and writes x1. -/
  | callr (a : Reg) (imm : BitVec 16)
  /-- R112. Return to x1 and mark the RET registers dead. -/
  | ret
  /-- R128. Read a control register. -/
  | ctlRd (d : Reg) (num : BitVec 12)
  /-- R128. Write a control register through its map, with its side effects. -/
  | ctlWr (a : Reg) (num : BitVec 12)
  /-- R128. Atomically OR x[A] into a control register. -/
  | ctlSet (a : Reg) (num : BitVec 12)
  /-- R128. Atomically clear the bits of x[A] in a control register. -/
  | ctlClr (a : Reg) (num : BitVec 12)
  /-- R131. Give up the next issue cycle to another ready thread set. -/
  | yield
  /-- R132. Write the core id and thread set number. -/
  | tid (d : Reg)
  /-- R133. Advance the PC and do nothing else. -/
  | nop (len : NopLen)
  /-- R268. Raise SYSTRAP with the immediate in TVAL. -/
  | trap (imm : BitVec 16)
  /-- R268. Return from a handler; free or retry a refused entry and restart a stopped feed core. -/
  | eret
  /-- R268. Drain as fence.rel.mod, then hold the thread and notify the supervisor. -/
  | halt
  /-- R419. Raise BRK with the immediate in TVAL. -/
  | brk (imm : BitVec 16)
  /-- R420. Drop the core's fetch blocks in a range and empty the loop buffers. -/
  | icinv (a : Reg) (b : Reg)
  /-- R420. Copy code into the loader's or storer's instruction store. -/
  | icinvFeed (a : Reg) (b : Reg) (c : Reg) (storer : Bool)
  /-- R189. Load n bits at base plus displacement, sign-extended. -/
  | ld (sz : ISz) (ord : MemOrd) (scope : Scope) (reuse : BitVec 3) (d : Reg) (a : Reg) (imm : ImmA)
  /-- R189. Load n bits at base plus scaled index plus displacement. -/
  | ldx (sz : ISz) (ord : MemOrd) (scope : Scope) (reuse : BitVec 3) (d : Reg) (a : Reg) (b : Reg) (imm : ImmA)
  /-- R191. Store the low n bits of x[B] at base plus displacement. -/
  | st (sz : ISz) (ord : MemOrd) (scope : Scope) (a : Reg) (b : Reg) (imm : ImmA)
  /-- R191. Store at base plus scaled index plus displacement. -/
  | stx (sz : ISz) (ord : MemOrd) (scope : Scope) (a : Reg) (b : Reg) (c : Reg) (imm : ImmA)
  /-- R195. Atomic add, returning the old value. -/
  | amoAdd (sz : ASz) (ord : MemOrd) (scope : Scope) (d : Reg) (a : Reg) (b : Reg)
  /-- R195. Atomic AND. -/
  | amoAnd (sz : ASz) (ord : MemOrd) (scope : Scope) (d : Reg) (a : Reg) (b : Reg)
  /-- R195. Atomic OR. -/
  | amoOr (sz : ASz) (ord : MemOrd) (scope : Scope) (d : Reg) (a : Reg) (b : Reg)
  /-- R195. Atomic XOR. -/
  | amoXor (sz : ASz) (ord : MemOrd) (scope : Scope) (d : Reg) (a : Reg) (b : Reg)
  /-- R195. Atomic signed minimum. -/
  | amoMin (sz : ASz) (ord : MemOrd) (scope : Scope) (d : Reg) (a : Reg) (b : Reg)
  /-- R195. Atomic signed maximum. -/
  | amoMax (sz : ASz) (ord : MemOrd) (scope : Scope) (d : Reg) (a : Reg) (b : Reg)
  /-- R195. Atomic unsigned minimum. -/
  | amoMinu (sz : ASz) (ord : MemOrd) (scope : Scope) (d : Reg) (a : Reg) (b : Reg)
  /-- R195. Atomic unsigned maximum. -/
  | amoMaxu (sz : ASz) (ord : MemOrd) (scope : Scope) (d : Reg) (a : Reg) (b : Reg)
  /-- R195. Atomic swap. -/
  | amoSwap (sz : ASz) (ord : MemOrd) (scope : Scope) (d : Reg) (a : Reg) (b : Reg)
  /-- R195. Atomic compare-and-swap. -/
  | amoCas (sz : ASz) (ord : MemOrd) (scope : Scope) (d : Reg) (a : Reg) (b : Reg) (c : Reg)
  /-- R201. Release, acquire, acq_rel or seq fence at a scope. -/
  | fence (ord : MemOrd) (scope : Scope)
  /-- R202. Invalidate V words of the cache portion in a virtual range. -/
  | inval (a : Reg) (b : Reg)
  /-- R202. Send G words of a range home and wait for acknowledgements. -/
  | wb (a : Reg) (b : Reg)
  /-- R203. Prefetch a global tracked line; never faults. -/
  | pf (a : Reg) (imm : BitVec 16)
  /-- R204. Shoot down translations within a scope and wait for every acknowledgement. -/
  | tlbInv (scope : Scope) (a : Reg) (b : Reg)
  /-- R229. Read a scratchpad word's tag without the action table. -/
  | tagLd (d : Reg) (a : Reg) (imm : BitVec 16)
  /-- R229. Write a scratchpad word's tag, waking waiters when it changes. -/
  | tagSt (a : Reg) (b : Reg) (imm : BitVec 16)
  /-- R229. Read a word's data and tag in one step. -/
  | tagLdw (d : Reg) (a : Reg) (c : Reg) (imm : BitVec 16)
  /-- R230. Set the tags of a run of words. -/
  | tagFill (a : Reg) (b : Reg) (tag : BitVec 4)
  /-- R231. Write one shadow action-table entry. -/
  | actWr (a : Reg) (b : Reg)
  /-- R231. Load the whole shadow action table from a 1 KiB image. -/
  | actWrImg (a : Reg)
  /-- R232. Read an entry of the active table. -/
  | actRd (d : Reg) (a : Reg)
  /-- R232. Read an entry of the shadow table. -/
  | actRdSh (d : Reg) (a : Reg)
  /-- R226. Exchange the active and shadow tables at the next free bank-cycle boundary. -/
  | actSwap
  /-- R162. Set a stream pointer. -/
  | spSet (d : Reg) (a : Reg) (imm : ImmA)
  /-- R162. Read a stream pointer. -/
  | spRd (d : Reg) (a : Reg)
  /-- R148. Lane-wise integer add. -/
  | vadd (sz : ISz) (pr : Bool) (d : Reg) (a : Reg) (b : Reg)
  /-- R148. Lane-wise integer subtract. -/
  | vsub (sz : ISz) (pr : Bool) (d : Reg) (a : Reg) (b : Reg)
  /-- R148. Lane-wise integer multiply, low half. -/
  | vmul (sz : ISz) (pr : Bool) (d : Reg) (a : Reg) (b : Reg)
  /-- R148. Lane-wise signed multiply, high half. -/
  | vmulh (sz : ISz) (pr : Bool) (d : Reg) (a : Reg) (b : Reg)
  /-- R148. Lane-wise signed minimum. -/
  | vmin (sz : ISz) (pr : Bool) (d : Reg) (a : Reg) (b : Reg)
  /-- R148. Lane-wise signed maximum. -/
  | vmax (sz : ISz) (pr : Bool) (d : Reg) (a : Reg) (b : Reg)
  /-- R148. Lane-wise absolute value. -/
  | vabs (sz : ISz) (pr : Bool) (d : Reg) (a : Reg)
  /-- R148. Lane-wise negation. -/
  | vneg (sz : ISz) (pr : Bool) (d : Reg) (a : Reg)
  /-- R149. Lane-wise AND with no tag check. -/
  | vand (sz : ISz) (pr : Bool) (d : Reg) (a : Reg) (b : Reg)
  /-- R149. Lane-wise OR with no tag check. -/
  | vor (sz : ISz) (pr : Bool) (d : Reg) (a : Reg) (b : Reg)
  /-- R149. Lane-wise XOR with no tag check. -/
  | vxor (sz : ISz) (pr : Bool) (d : Reg) (a : Reg) (b : Reg)
  /-- R148. Lane-wise shift left. -/
  | vshl (sz : ISz) (pr : Bool) (d : Reg) (a : Reg) (b : Reg)
  /-- R148. Lane-wise logical shift right. -/
  | vshr (sz : ISz) (pr : Bool) (d : Reg) (a : Reg) (b : Reg)
  /-- R148. Lane-wise arithmetic shift right. -/
  | vsra (sz : ISz) (pr : Bool) (d : Reg) (a : Reg) (b : Reg)
  /-- R148. Lane-wise saturating add. -/
  | vsadd (sz : ISz) (pr : Bool) (d : Reg) (a : Reg) (b : Reg)
  /-- R148. Lane-wise saturating subtract. -/
  | vssub (sz : ISz) (pr : Bool) (d : Reg) (a : Reg) (b : Reg)
  /-- R150. Lane-wise IEEE add. -/
  | vfadd (fmt : FFmt) (pr : Bool) (rm : Rm) (d : Reg) (a : Reg) (b : Reg)
  /-- R150. Lane-wise IEEE subtract. -/
  | vfsub (fmt : FFmt) (pr : Bool) (rm : Rm) (d : Reg) (a : Reg) (b : Reg)
  /-- R150. Lane-wise IEEE multiply. -/
  | vfmul (fmt : FFmt) (pr : Bool) (rm : Rm) (d : Reg) (a : Reg) (b : Reg)
  /-- R150. Lane-wise fused multiply-add. -/
  | vfma (fmt : FFmt) (pr : Bool) (rm : Rm) (d : Reg) (a : Reg) (b : Reg) (c : Reg)
  /-- R150. Lane-wise negated fused multiply-add. -/
  | vfnma (fmt : FFmt) (pr : Bool) (rm : Rm) (d : Reg) (a : Reg) (b : Reg) (c : Reg)
  /-- R150. Lane-wise IEEE minimum. -/
  | vfmin (fmt : FFmt) (pr : Bool) (d : Reg) (a : Reg) (b : Reg)
  /-- R150. Lane-wise IEEE maximum. -/
  | vfmax (fmt : FFmt) (pr : Bool) (d : Reg) (a : Reg) (b : Reg)
  /-- R150. Lane-wise IEEE divide. -/
  | vfdiv (fmt : FFmt) (pr : Bool) (rm : Rm) (d : Reg) (a : Reg) (b : Reg)
  /-- R150. Lane-wise compare giving all-ones or all-zeros lanes. -/
  | vfcmp (fmt : FFmt) (pr : Bool) (d : Reg) (a : Reg) (b : Reg) (mode : BitVec 2)
  /-- R152. Convert vector lanes to the format of SZ. -/
  | vcvt (fmt : VM) (rm : Rm) (d : Reg) (a : Reg) (e0 : BitVec 5)
  /-- R153. Convert to a block-scaled format, choosing a scale per block. -/
  | vcvtBlk (fmt : MFmt) (rm : Rm) (d : Reg) (a : Reg) (e0 : BitVec 5) (h : BitVec 4) (he : Bool)
  /-- R154. Narrow and clamp two vectors into one. -/
  | vpack (fmt : VFmt) (d : Reg) (a : Reg) (b : Reg) (u : Bool)
  /-- R154. Widen half of a vector. -/
  | vunpack (fmt : VFmt) (d : Reg) (a : Reg) (hi : Bool) (z : Bool)
  /-- R198. Load one register of contiguous data, with scales for block formats. -/
  | vld (fmt : VM) (ord : MemOrd) (scope : Scope) (reuse : BitVec 3) (d : Reg) (base : VBase) (c : Reg)
  /-- R198. Store one register of contiguous data. -/
  | vst (fmt : VM) (ord : MemOrd) (scope : Scope) (b : Reg) (base : VBase) (c : Reg)
  /-- R199. Gather lanes from indexed addresses. -/
  | vldg (fmt : VM) (ord : MemOrd) (scope : Scope) (reuse : BitVec 3) (d : Reg) (a : Reg) (b : Reg) (long : Bool)
  /-- R199. Scatter lanes to indexed addresses. -/
  | vsts (fmt : VM) (ord : MemOrd) (scope : Scope) (a : Reg) (b : Reg) (c : Reg) (long : Bool)
  /-- R155. Permute lanes of two vectors by an index vector. -/
  | vperm (sz : ISz) (d : Reg) (a : Reg) (b : Reg) (c : Reg)
  /-- R155. Select lanes by a mask vector. -/
  | vsel (sz : ISz) (d : Reg) (a : Reg) (b : Reg) (c : Reg)
  /-- R155. Interleave half of two vectors. -/
  | vmerge (sz : ISz) (d : Reg) (a : Reg) (b : Reg) (hf : Bool)
  /-- R155. Slide the concatenation of two vectors. -/
  | vslide (sz : ISz) (d : Reg) (a : Reg) (b : Reg) (s : BitVec 6)
  /-- R155. Broadcast a scalar into every lane with a given tag. -/
  | vbcast (sz : ISz) (d : Reg) (a : Reg) (tag : BitVec 4)
  /-- R155. Extract one lane into a scalar register. -/
  | vext (sz : ISz) (d : Reg) (a : Reg) (k : BitVec 5)
  /-- R155. Insert a scalar into one lane. -/
  | vins (sz : ISz) (d : Reg) (a : Reg) (k : BitVec 5) (tag : BitVec 4)
  /-- R156. Add-reduce a vector in the fixed tree. -/
  | vredAdd (fmt : VFmt) (rm : Rm) (d : Reg) (a : Reg)
  /-- R156. Max-reduce a vector. -/
  | vredMax (fmt : VFmt) (d : Reg) (a : Reg)
  /-- R156. Min-reduce a vector. -/
  | vredMin (fmt : VFmt) (d : Reg) (a : Reg)
  /-- R157. Lane-wise 2^x on FP32. -/
  | vexp2V (rm : Rm) (d : Reg) (a : Reg)
  /-- R157. Lane-wise reciprocal on FP32. -/
  | vrcpV (rm : Rm) (d : Reg) (a : Reg)
  /-- R157. Lane-wise reciprocal square root on FP32. -/
  | vrsqrtV (rm : Rm) (d : Reg) (a : Reg)
  /-- R157. Lane-wise log2 on FP32. -/
  | vlog2V (rm : Rm) (d : Reg) (a : Reg)
  /-- R159. Fill vector lanes from the counter generator. -/
  | crandV (sz : CrSz) (d : Reg) (a : Reg) (b : Reg)
  /-- R157. Scalar 2^x on FP32. -/
  | vexp2S (rm : Rm) (d : Reg) (a : Reg)
  /-- R157. Scalar reciprocal on FP32. -/
  | vrcpS (rm : Rm) (d : Reg) (a : Reg)
  /-- R157. Scalar reciprocal square root on FP32. -/
  | vrsqrtS (rm : Rm) (d : Reg) (a : Reg)
  /-- R157. Scalar log2 on FP32. -/
  | vlog2S (rm : Rm) (d : Reg) (a : Reg)
  /-- R159. Scalar counter-generator value. -/
  | crandS (d : Reg) (a : Reg) (b : Reg)
  /-- R161. Decrement a count and branch back while it exceeds 1. -/
  | vloop (a : Reg) (imm : BitVec 16)
  /-- R291. Load a tile row by row, with scales for block formats. -/
  | tld (fmt : MFmt) (reuse : BitVec 3) (d : Reg) (a : Reg) (b : Reg) (c : Reg) (imm : ImmA)
  /-- R291. Store a tile row by row. -/
  | tst (fmt : MFmt) (d : Reg) (a : Reg) (b : Reg) (c : Reg) (imm : ImmA)
  /-- R292. Zero a tile and set its format. -/
  | tzero (fmt : MFmt) (d : Reg)
  /-- R292. Convert a tile to another format. -/
  | tcvt (fmt : MFmt) (rm : Rm) (d : Reg) (a : Reg) (h : BitVec 4) (he : Bool)
  /-- R292. Copy a tile with its sidecar and shape. -/
  | tmov (fmt : MFmt) (d : Reg) (a : Reg)
  /-- R282. Gang-issued matrix multiply-accumulate. -/
  | mma (fmt : MFmt) (d : Reg) (a : Reg) (b : Reg) (k : BitVec 7)
  /-- R282. Gang-issued matrix operation under the cell microprogram. -/
  | mmaCp (fmt : MFmt) (d : Reg) (a : Reg) (b : Reg) (k : BitVec 7)
  /-- R286. Load the cell microprogram buffer. -/
  | cpLd (nops : BitVec 2) (join : BitVec 2) (prog : BitVec 64)
  /-- R288. Read an accumulator row into two vector registers. -/
  | accRd (d : Reg) (a : Reg) (row : BitVec 6)
  /-- R288. Write an accumulator row from two vector registers. -/
  | accWr (d : Reg) (a : Reg) (row : BitVec 6)
  /-- R288. Zero an accumulator. -/
  | accZero (d : Reg)
  /-- R289. Gang-issued rendezvous returning gang size, index and group 0's core id. -/
  | gang (d : Reg)
  /-- R347. Count the entries of a queue register. -/
  | qCnt (d : Reg) (a : Reg)
  /-- R347. Wait for and read the head of a queue register. -/
  | qPeek (d : Reg) (a : Reg)
  /-- R347. Wait for, read and remove the head of a queue register. -/
  | qPeekPop (d : Reg) (a : Reg)
  /-- R347. Discard every entry of a queue register. -/
  | qFlush (a : Reg)
  /-- R344. Install a field layout. -/
  | hdrLay (a : Reg)
  /-- R345. Pack registers into one word by a layout. -/
  | hdrPack (d : Reg) (a : Reg) (n : BitVec 4)
  /-- R345. Unpack a word into registers by a layout. -/
  | hdrUnpack (s : Bool) (d : Reg) (a : Reg) (n : BitVec 4)
  /-- R338. Deposit a value into a queue register, waiting while it is full. -/
  | sendQueue (d : Reg) (b : Reg)
  /-- R338. Send up to 8 words to a core's mailbox ring and wait for the acknowledgement. -/
  | sendMailbox (ord : MemOrd) (scope : Scope) (a : Reg) (b : Reg) (nw : BitVec 5)
  /-- R338. Check a job card, release, and send it to an engine until accepted. -/
  | sendEngine (a : Reg) (b : Reg)
  /-- R342. Wait for and take the head message of the highest non-empty ring in a mask. -/
  | mbxTake (ord : MemOrd) (scope : Scope) (d : Reg) (a : Reg) (mask : BitVec 4)
  /-- R340. Read the counts of the four rings. -/
  | mbxCnt (d : Reg)
  /-- R340. Install a ring descriptor, discarding its messages. -/
  | mbxCntCfg (d : Reg) (a : Reg) (r : BitVec 2)
  /-- R319. OR a mask into an event quarter and re-evaluate waiters. -/
  | evSet (ord : MemOrd) (scope : Scope) (a : Reg) (q : BitVec 2) (rc : Bool) (b : Reg)
  /-- R319. Clear mask bits in an event quarter. -/
  | evClr (ord : MemOrd) (scope : Scope) (a : Reg) (q : BitVec 2) (rc : Bool) (b : Reg)
  /-- R319. Wait until all mask bits of a quarter are set. -/
  | evWait (ord : MemOrd) (scope : Scope) (d : Reg) (a : Reg) (q : BitVec 2) (rc : Bool) (b : Reg)
  /-- R319. Read the mask bits of an event quarter. -/
  | evTest (ord : MemOrd) (scope : Scope) (d : Reg) (a : Reg) (q : BitVec 2) (rc : Bool) (b : Reg)
  /-- R336. Initialise a barrier object. -/
  | barInit (ord : MemOrd) (scope : Scope) (a : Reg) (b : Reg)
  /-- R336. Count one arrival, completing the phase when nothing remains. -/
  | barArrive (ord : MemOrd) (scope : Scope) (d : Reg) (a : Reg)
  /-- R336. Add expected bytes to a barrier's PEND. -/
  | barExpect (a : Reg) (b : Reg)
  /-- R336. Wait until the barrier's phase differs from a given value. -/
  | barWait (ord : MemOrd) (scope : Scope) (d : Reg) (a : Reg) (b : Reg)
  /-- R302. Read, release and post a launch record, waiting for the hub's answer. -/
  | taskPost (d : Reg) (a : Reg)
  /-- R322. Drain as fence.rel.mod, then end the thread. -/
  | taskExit
  /-- R323. Offer the gang's cores back to the hub. -/
  | taskYield
  /-- R321. Read one field of WID. -/
  | taskWid (d : Reg) (k : BitVec 3)
  /-- R321. Read the post answer, gang number or core id. -/
  | taskSelf (d : Reg) (sel : BitVec 2)
  /-- R368. Suspend the issuing gang into named continuation objects. -/
  | coSuspend (d : Reg) (a : Reg) (b : Reg)
  /-- R369. Check and claim a gang's objects and post their resume. -/
  | coResume (d : Reg) (a : Reg) (b : Reg)
  /-- R371. Reseal a continuation object for its address. -/
  | coSeal (a : Reg)
  /-- R371. Change a LIVE object to DISCARDED. -/
  | coDiscard (a : Reg)
  /-- R372. Read an object's state or the group's size bound. -/
  | coStat (d : Reg) (a : Reg) (sel : Bool)
  /-- R389. Open a rotation session with a slot buffer. -/
  | rotOpen (d : Reg) (a : Reg) (b : Reg) (c : Reg)
  /-- R390. Inject the member's own block into slot 0. -/
  | rotPut (a : Reg) (b : Reg)
  /-- R391. Wait for and take the block of the cursor's step. -/
  | rotTake (d : Reg) (a : Reg) (c : Reg)
  /-- R392. Mark the cursor's step consumed. -/
  | rotDone (a : Reg) (b : Reg)
  /-- R393. End a rotation session after its forwards are acknowledged. -/
  | rotClose (a : Reg)
  /-- R413. Start a thread counter on an event. -/
  | ctrStart (a : Reg) (n : BitVec 3)
  /-- R413. Stop a counter and store its record. -/
  | ctrStop (d : Reg) (a : Reg) (n : BitVec 3)
  /-- R413. Read a counter's value, start tick or control word. -/
  | ctrRd (d : Reg) (n : BitVec 3) (sel : BitVec 2)
  /-- R413. Write a sample record of PC and counters into the trace. -/
  | sample (a : Reg)
  /-- R413. Write a mark record into the trace. -/
  | mark (a : Reg) (imm : BitVec 16)
  /-- Event, R426. A module reset starts bring-up by the Skoesk controller. -/
  | moduleReset (b : BringUp)
  /-- Event, R399. The host port trains as PCI Express and negotiates CXL. -/
  | hostPortTraining (rate : BitVec 8) (width : BitVec 8) (cxl : Bool)
  /-- Event, R431. Mailbox command 0x0010 reads and verifies a firmware image. -/
  | stageImage (img : Image)
  /-- Event, R428. Mailbox command 0x00FF resets the module. -/
  | moduleResetCommand (b : BringUp)
  /-- Event, R4. A write to a BAR register with no behaviour of its own sets its field by its access code. -/
  | registerWrite (off : Nat) (size : Nat) (val : BitVec 64)
  /-- Event, R401. A BAR 0 access of wrong size or alignment completes with no effect. -/
  | bar0InvalidAccess (off : Nat) (size : Nat) (write : Bool)
  /-- Event, R403. A write of VEC posts the record at ADDR in the doorbell's domain. -/
  | doorbellPost (dom : Nat) (vec : Nat)
  /-- Event, R402. A host read of HBM is served by the home as a load request. -/
  | bar2Read (pa : Nat) (read : HostRead)
  /-- Event, R402. A host write of HBM is performed at the home after revoking registration. -/
  | bar2Write (pa : Nat) (write : HostWrite)
  /-- Event, R406. A host snoop reaches the CXL agent's copy of a host-window line. -/
  | hostSnoop (line : Nat) (kind : Snoop)
  /-- Event, R105. Supervisor firmware clears FLAGUNION bits by W1C write. -/
  | flagunionClear (cluster : Nat) (mask : BitVec 64)
  /-- Event, R252. An uncorrected memory error raises ECC; a corrected one is counted for the array that holds it. -/
  | eccError (pa : Nat) (corrected : Option Nat) (by_ : Consumer)
  /-- Event, R382. A block data flit lands in a granted slot, making it FULL when complete. -/
  | blockFlit (port : Nat) (flit : Flit)
  /-- Event, R383. A slot grant from downstream is received. -/
  | slotGrant (port : Nat) (flit : Flit)
  /-- Event, R382. A forward acknowledgement frees a CONSUMED slot and grants it upstream. -/
  | forwardAck (port : Nat) (flit : Flit)
  /-- Event, R386. A neighbour's open flit is received and compared with the session. -/
  | openFlit (port : Nat) (flit : Flit)
  /-- Event, R386. A break flit breaks the session at the member. -/
  | breakFlit (port : Nat) (flit : Flit)
  /-- Event, R378. A retry request makes the sender resend flits from the named SEQ. -/
  | retryRequest (port : Nat) (flit : Flit)
  /-- Event, R378. A received flit whose CRC fails, or whose SEQ is not the next expected, is dropped and a retry request naming the expected SEQ is sent. -/
  | flitCrcFailure (port : Nat) (flit : Flit)
  /-- Event, R319. Supervisor firmware sets or clears event bits of a cluster, re-evaluating the quarter's waiters when it sets bits. -/
  | firmwareEventSet (cluster : Nat) (q : Nat) (mask : BitVec 64) (set : Bool)
  /-- Event, R180. A core or cluster is power-gated or returned to power, which declares a gated core dead and changes what friezes include. -/
  | powerGating (unit : Nat) (on : Bool)
  /-- Event, R433. At least once per millisecond firmware refreshes the present draw in capability entry 0x0007 under the SEQ protocol of R432. -/
  | presentDrawRefresh (w : BitVec 32)
  /-- Event, R430. Mailbox command 0x0001 returns the next failure-log record. -/
  | readFailureLog
  /-- Event, R431. Mailbox command 0x0011 writes the verified image over the old one. -/
  | commitImage
  /-- Event, R434. Mailbox command 0x0020 sets a policy item. -/
  | setPolicy
  /-- Event, R435. Mailbox command 0x0040 fences a unit. -/
  | fenceUnit
  /-- Event, R429. Debug command 0x0030 reads a trace-unit register. -/
  | readTraceRegister
  /-- Event, R429. Debug command 0x0031 writes a trace-unit register through its map. -/
  | writeTraceRegister
  /-- Event, R429. Debug command 0x0032 claims a launch and sets the maquette period. -/
  | claimLaunch
  /-- Event, R429. Debug command 0x0033 releases a claim and resumes halted groups. -/
  | releaseClaim
  /-- Event, R423. Debug command 0x0034 halts a group whole at an instruction boundary. -/
  | haltGroup
  /-- Event, R429. Debug command 0x0035 resumes a group or steps n instructions. -/
  | resumeOrStep
  /-- Event, R429. Debug command 0x0036 reads an item of a halted group's state. -/
  | readState
  /-- Event, R429. Debug command 0x0037 writes an item of a halted group's state. -/
  | writeState
  /-- Event, R429. Debug command 0x0038 sets one of a core's four watchpoints. -/
  | setWatchpoint
  /-- Event, R422. Debug command 0x0039 restores a maquette and replays to an earlier instruction. -/
  | reverseStep
  /-- Event, R424. Debug command 0x003A schedules a module stop at a named tick. -/
  | stopAtTickCommand
  /-- Event, R429. Debug command 0x003B reads a registration-table entry. -/
  | readRegistrationEntry
  /-- Event, R425. Debug command 0x003C reads a module counter. -/
  | readModuleCounter
  /-- Event, R429. Debug command 0x003D reads a scratchpad word and tag. -/
  | readScratchpadWord
  /-- Event, R429. Debug command 0x003E writes a scratchpad word and tag. -/
  | writeScratchpadWord
  /-- Event, R429. Debug command 0x003F returns the oldest debug event record. -/
  | readDebugEvent
  /-- Event, R302. A posted record arrives at the home hub, which checks, accepts or refuses it and answers. -/
  | recordAccept
  /-- Event, R305. Every 4 ticks the hub samples readiness, admits records and tries placements. -/
  | hubCycle
  /-- Event, R308. After 64 pass-overs the hub reserves a span for the head gang. -/
  | headReservation
  /-- Event, R32. A gang's quantum expires while a same-level gang waits, so it is time-sliced. -/
  | quantumExpiry
  /-- Event, R317. A group retires nothing for the watchdog period and is held. -/
  | hubWatchdog
  /-- Event, R311. A gang's retirement reaches the home hub. -/
  | gangRetirementReport
  /-- Event, R311. After the last gang retires the hub ORs SET into the event quarter and frees the slot. -/
  | completionSet
  /-- Event, R312. A lost gang or faulting image copy fails the launch. -/
  | launchFailure
  /-- Event, R319. An ev.wait that found the wait entries full re-presents every 16 ticks. -/
  | evWaitRepresent
  /-- Event, R313. A victim hub receives a thief's REQ and lends a range with an OFFER. -/
  | stealReq
  /-- Event, R313. A thief receives an OFFER and sends ACK or NAK or drops it. -/
  | stealOffer
  /-- Event, R313. The victim receives an ACK and transfers the range or answers LATE. -/
  | stealAck
  /-- Event, R313. The victim receives a NAK and reclaims the range. -/
  | stealNak
  /-- Event, R313. The thief receives CONFIRM and may place the range. -/
  | stealConfirm
  /-- Event, R313. The victim receives PLACED and forgets that gang. -/
  | stealPlaced
  /-- Event, R313. The thief receives LATE and discards the range. -/
  | stealLate
  /-- Event, R313. The lending deadline passes with no ACK and the victim reclaims the range. -/
  | stealDeadline
  /-- Event, R314. A hub is reset or power-gated and raises its incarnation. -/
  | hubReset
  /-- Event, R314. A hub receives a reset hub's new incarnation and reclaims unplaced lent gangs. -/
  | incarnationAnnouncement
  /-- Event, R315. The supervisor tells a thief its victim died; the thief keeps the range. -/
  | victimDeathNotice
  /-- Event, R359. At the agreed tick the gang stops at instruction boundaries and its save begins. -/
  | agreedTick
  /-- Event, R361. Once loads, journal and scratchpad jobs are drained the save writes body, header and LIVE. -/
  | saveBodyWrite
  /-- Event, R422. Every P microseconds the hub saves a claimed launch as a maquette. -/
  | maquette
  /-- Event, R168. A load request at the home is answered or forwarded to the owner. -/
  | homeLoadRequest
  /-- Event, R168. The owner receives a forwarded load and replies with the word. -/
  | forwardedLoad
  /-- Event, R190. A load's value arrives and binds x[D], filling the cache portion. -/
  | loadReply
  /-- Event, R169. A registration at the home revokes the earlier owner or waits for a table entry. -/
  | homeRegistration
  /-- Event, R170. An owner core handles a revoke and replies with data or none. -/
  | revoke
  /-- Event, R166. An owner core handles a forced write-back request. -/
  | forcedWriteBackAtOwner
  /-- Event, R169. Revoked or written-back data reaches the home, which records the new owner and acknowledges. -/
  | ownerDataArrival
  /-- Event, R166. A registration acknowledgement turns a P word G and frees its journal entry. -/
  | registrationAck
  /-- Event, R167. The home's value for a narrow-store registration is merged under the core's bytes. -/
  | mergeData
  /-- Event, R172. An AMO is performed indivisibly at the home after revoking registration. -/
  | homeAmo
  /-- Event, R182. An untracked or empty-cache store is written at the home and acknowledged. -/
  | untrackedStoreAtHome
  /-- Event, R185. A far-window access is checked and stepped at the target core's bank. -/
  | farAccess
  /-- Event, R193. A journal entry's acknowledgement returns and frees it. -/
  | journalAck
  /-- Event, R194. A refusal marks a journal entry refused with its reason. -/
  | storeRefusal
  /-- Event, R254. A pending asynchronous cause is taken at the next boundary with INH 0. -/
  | asyncTrapEntry
  /-- Event, R180. A core's watchdog expires and the supervisor declares it dead. -/
  | coreWatchdogExpiry
  /-- Event, R180. Every home marks the dead core's entries LOST before its incarnation is raised. -/
  | coreDeathDeclaration
  /-- Event, R251. A shootdown reaches a translation cache, which drops entries, drains and acknowledges. -/
  | tlbShootdownRequest
  /-- Event, R251. A shootdown acknowledgement returns to the issuing tlb.inv. -/
  | tlbShootdownAck
  /-- Event, R224. In the bank cycle after a tag change or WAKE the word's waiters are re-stepped in park order. -/
  | waiterReevaluation
  /-- Event, R222. A requester that found the bank's wait queue full re-presents every 8 cycles. -/
  | waitQueueRetry
  /-- Event, R226. At the first bank-cycle boundary with no window open the tables swap and waiters re-evaluate. -/
  | actSwapBoundary
  /-- Event, R105. The cluster OR tree sets FLAGUNION bits within 64 ticks of a flag being set. -/
  | flagunionSet
  /-- Event, R279. The row latch starts a gang-issued operation when every member has issued it. -/
  | gangOpStart
  /-- Event, R284. A matrix operation retires on every member when its accumulator is written. -/
  | matrixRetire
  /-- Event, R330. A job card is accepted once the inbox and checker have room. -/
  | jobAccept
  /-- Event, R324. An engine starts a job when its checker edges have completed. -/
  | jobStart
  /-- Event, R328. An engine performs one unit of a job and subtracts it from the barrier. -/
  | engineUnit
  /-- Event, R329. The nth REDUCE card of a key arrives and the set is combined and written. -/
  | reduceSetComplete
  /-- Event, R331. A job completes after its last unit and barrier step. -/
  | jobComplete
  /-- Event, R332. A job fails at a unit and performs its final barrier step. -/
  | jobFail
  /-- Event, R331. An engine's reply word is deposited into a queue register once it has room. -/
  | replyDeposit
  /-- Event, R341. A mailbox message is checked and written at a ring's tail, then acknowledged. -/
  | mailboxDeposit
  /-- Event, R336. A waiting bar.wait re-observes its barrier at least every 64 ticks. -/
  | barWaitPoll
  /-- Event, R415. At each multiple of PERIOD every core latches run states and the unit writes a frieze. -/
  | samplingPulse
  /-- Event, R424. At the named tick every clock domain stops for scan-out. -/
  | stopAtTick
  /-- Event, R436. A die junction reaching 110 C stops the module. -/
  | thermalTrip
  /-- Event, R436. Draw above the cap or a current limit withholds issue cycles. -/
  | powerThrottle
  /-- Event, R378. A link port goes down and breaks its rings. -/
  | portDown
  /-- Event, R384. The collective engine forwards a CONSUMED block once it holds a grant. -/
  | forwardStart
  /-- Event, R390. The engine's copy of the own block into slot 0 completes and the slot becomes FULL. -/
  | putCopyComplete
  /-- Event, R386. Firmware tears a ring down, breaking its session. -/
  | ringTeardown
  /-- Event, R378. Firmware retrains a link port that is down, bringing it back into service. -/
  | portRetraining
  /-- Event, R261. Firmware releases a thread held by a machine-class delivery, halt or watchdog so that it runs again at its held address. -/
  | releaseHeldThread
  /-- Event, R431. The module loses power, interrupting any firmware commit in progress and leaving an image that fails step 1. -/
  | powerLoss
  /-- Event, R202. The home's acknowledgement of a write-back reaches the core, ending the wait of a wb or a SPLIT raise. -/
  | writeBackAck
  /-- Event, R196. The reply of an AMO performed at the home or at a far bank reaches the requesting thread, writing x[D] and letting the AMO retire. -/
  | amoReply
  deriving DecidableEq, Repr

end Sys2Proof
end

