-- ==== Sys2Proof/WellFormed.lean ====
section
/-! DEFINITION. Which instructions the spec's own field rules allow (03 R39 to R47 and the descriptions of the classes):
every condition of order 5 of 03 Table 6 that the instruction's bits alone decide. Conditions that the group's allotment,
the thread's mode or a register's value decide are checked by the machine (Machine/Fetch.lean and the meanings).
For a machine event with outside data, that the units it names exist (01 R8, R10). -/

namespace Sys2Proof

/-- The width n of coding I, in bits. -/
def ISz.bitsN : ISz → Nat
  | .b => 8 | .h => 16 | .w => 32 | .d => 64

/-- A block-scaled matrix element (06 R93). -/
def MFmt.isBlock : MFmt → Bool
  | .t8b | .t6b | .i8b => true
  | .t8 | .i8 | .bf16 | .f16 => false

/-- A block-scaled element of coding V or M. -/
def VM.isBlock : VM → Bool
  | .v _ => false
  | .m f => f.isBlock

/-- The element widths that `vldg` and `vsts` take: 16, 32 or 64 bits (10 R197). -/
def VM.gatherable : VM → Bool
  | .v .i8 => false
  | .v _ => true
  | .m .bf16 | .m .f16 => true
  | .m _ => false

/-- A weak access has `SCOPE` zero (10 R188). -/
def scopeOk (o : MemOrd) (s : Scope) : Bool :=
  match o with
  | .weak => s == .th
  | _ => true

/-- The orders of a load (10 R188, Table 2). -/
def MemOrd.load : MemOrd → Bool
  | .weak | .acq | .seq => true
  | .rel | .ar => false

/-- The orders of a store (10 R188, Table 2). -/
def MemOrd.store : MemOrd → Bool
  | .weak | .rel | .seq => true
  | .acq | .ar => false

/-- Weak or acquire (10 Table 5, 17 R318, 18 R336, R342). -/
def MemOrd.weakAcq : MemOrd → Bool
  | .weak | .acq => true
  | _ => false

/-- Weak or release (10 Table 5, 17 R318, 18 R336, R338). -/
def MemOrd.weakRel : MemOrd → Bool
  | .weak | .rel => true
  | _ => false

/-- The scopes of a non-weak event instruction (17 R318). -/
def evScopeOk (o : MemOrd) (s : Scope) (rc : Bool) : Bool :=
  match o, s with
  | .weak, .th => true
  | .weak, _ => false
  | _, .mod | _, .sys => true
  | _, .g | _, .cl => !rc
  | _, _ => false

/-- The rates at which the host port trains, in whole GT/s (24 R399: 128 and the lower ones that PCI Express defines). -/
def linkRate (n : Nat) : Bool := [128, 64, 32, 16, 8, 5, 2].contains n
/-- The widths at which the host port trains (24 R399: 16 and the lower ones that PCI Express defines). -/
def linkWidth (n : Nat) : Bool := [16, 8, 4, 2, 1].contains n

/-- An even register number (08 R142, 16 R288). -/
def even (r : Reg) : Bool := r.toNat % 2 == 0

/-- Every operand of a pair form is even (08 R142). -/
def pairOk (pr : Bool) (rs : List Reg) : Bool := !pr || rs.all even

/-- The tags that `vbcast` and `vins` may write, with their element width (08 R155). DESIGN CHOICE: RAW, to which 06 Table 4 gives no element
width, may be written at every width (notes/assumptions/32.md). Unsafe: hardware may refuse it. -/
def tagFits (tag : BitVec 4) (sz : ISz) : Bool :=
  match tag.toNat with
  | 0 => true
  | 1 | 5 => sz == .b
  | 2 | 8 | 9 => sz == .h
  | 3 | 10 => sz == .w
  | 4 | 11 => sz == .d
  | _ => false

/-- A control-register number of 03 Table 6a that a core may name (R46, R47). -/
def ctlExists (n : Nat) : Bool :=
  n ≤ 0x006 || (0x008 ≤ n && n ≤ 0x014) || (0x018 ≤ n && n ≤ 0x02D) || (0x040 ≤ n && n ≤ 0x043)

/-- A control register that is RO in both modes (03 Table 6a). -/
def ctlReadOnly (n : Nat) : Bool :=
  (0x010 ≤ n && n ≤ 0x014) || n == 0x02C

/-- A control register that only kernel mode may access (03 Table 6a). -/
def ctlKernel (n : Nat) : Bool := n == 0x021 || (0x040 ≤ n && n ≤ 0x043)

/-- A microprogram operation of `cp.ld` (16 R286, Table 3): the reserved byte is zero and `FN` is 0 to 5. -/
def cpOpOk (w : BitVec 16) : Bool := w.toNat / 256 == 0 && w.toNat / 32 % 8 < 6

/-- The extension of `cp.ld` (16 R286): operations 0 to `NOPS` are legal and the others are zero. -/
def cpOk (nops join : BitVec 2) (prog : BitVec 64) : Bool :=
  join != 3#2 &&
  [0, 1, 2, 3].all fun m =>
    let w := prog.extractLsb' (16 * m) 16
    if m ≤ nops.toNat then cpOpOk w else w == 0#16

/-- `RM` of a conversion to a format that does not round in the sense of 08 R143 must be zero. -/
def MFmt.rmOk : MFmt → Rm → Bool
  | .t8, r | .t8b, r | .t6b, r => r == .thread
  | _, _ => true

/-- Headroom and its explicit bit (08 R153, 16 R292): used with a block-scaled format only, and h is zero unless explicit. -/
def headOk (blk : Bool) (h : BitVec 4) (he : Bool) : Bool := if blk then he || h == 0#4 else h == 0#4 && !he

/-- A scale operand is named by block-scaled forms only (10 R197, 16 R290). -/
def scaleOk (blk : Bool) (c : Reg) : Bool := blk || c == 0#5

/-- Tile registers are `t0` to `t7`, accumulators `a0` to `a3`, queue registers `q0` to `q7` (03 Table 4a). -/
def isTile (r : Reg) : Bool := r.toNat < 8
/-- An accumulator number (03 Table 4a). -/
def isAcc (r : Reg) : Bool := r.toNat < 4
/-- A queue-register number (03 Table 4a). -/
def isQueue (r : Reg) : Bool := r.toNat < 8

/-- An integer vector element, whose reductions do not round (08 R156). -/
def VFmt.isInt : VFmt → Bool
  | .i8 | .i16 | .i32 | .i64 => true
  | _ => false

/-- The instruction satisfies every condition that its own bits decide (03 R39 to R47). -/
def Instr.wf (i : Instr) : Bool :=
  match i with
  | .shli sz _ _ s | .shri sz _ _ s | .srai sz _ _ s => s.toNat < sz.bitsN
  | .bfx sz _ _ pos len | .bfxu sz _ _ pos len | .bfi sz _ _ _ pos len =>
      1 ≤ len.toNat && pos.toNat + len.toNat ≤ sz.bitsN
  | .bswap sz _ _ => sz != .b
  | .fsgn _ _ _ _ mode => mode != 3#2
  | .fcvtInt _ _ _ _ dst => 4 ≤ dst.toNat
  | .ctlRd _ n => ctlExists n.toNat
  | .ctlWr _ n | .ctlSet _ n | .ctlClr _ n => ctlExists n.toNat && !ctlReadOnly n.toNat
  | .ld _ o s _ _ _ _ | .ldx _ o s _ _ _ _ _ => o.load && scopeOk o s
  | .st _ o s _ _ _ | .stx _ o s _ _ _ _ => o.store && scopeOk o s
  | .amoAdd _ o s _ _ _ | .amoAnd _ o s _ _ _ | .amoOr _ o s _ _ _ | .amoXor _ o s _ _ _
  | .amoMin _ o s _ _ _ | .amoMax _ o s _ _ _ | .amoMinu _ o s _ _ _ | .amoMaxu _ o s _ _ _
  | .amoSwap _ o s _ _ _ | .amoCas _ o s _ _ _ _ => scopeOk o s
  | .fence o _ => o != .weak
  | .tlbInv s _ _ => s == .core || s == .cl || s == .mod
  | .spSet d _ _ => isTile d
  | .spRd _ a => isTile a
  | .vadd _ pr d a b | .vsub _ pr d a b | .vmul _ pr d a b | .vmulh _ pr d a b | .vmin _ pr d a b | .vmax _ pr d a b
  | .vand _ pr d a b | .vor _ pr d a b | .vxor _ pr d a b | .vshl _ pr d a b | .vshr _ pr d a b | .vsra _ pr d a b
  | .vsadd _ pr d a b | .vssub _ pr d a b => pairOk pr [d, a, b]
  | .vabs _ pr d a | .vneg _ pr d a => pairOk pr [d, a]
  | .vfadd _ pr _ d a b | .vfsub _ pr _ d a b | .vfmul _ pr _ d a b | .vfdiv _ pr _ d a b
  | .vfmin _ pr d a b | .vfmax _ pr d a b | .vfcmp _ pr d a b _ => pairOk pr [d, a, b]
  | .vfma _ pr _ d a b c | .vfnma _ pr _ d a b c => pairOk pr [d, a, b, c]
  | .vcvt f rm _ _ _ => !f.isBlock && (f != .m .t8 || rm == .thread)
  | .vcvtBlk f rm _ _ _ h he => f.isBlock && f.rmOk rm && headOk true h he
  | .vpack f _ _ _ _ => f == .i8 || f == .i16 || f == .i32
  | .vunpack f _ _ _ _ => f == .i16 || f == .i32 || f == .i64
  | .vld f o s _ _ _ c => o.weakAcq && scopeOk o s && scaleOk f.isBlock c
  | .vst f o s _ _ c => o.weakRel && scopeOk o s && scaleOk f.isBlock c
  | .vldg f o s _ _ _ _ _ => f.gatherable && o.weakAcq && scopeOk o s
  | .vsts f o s _ _ _ _ => f.gatherable && o.weakRel && scopeOk o s
  | .vslide sz _ _ _ s => s.toNat ≤ 256 / sz.bitsN
  | .vbcast sz _ _ tag => tagFits tag sz
  | .vext sz _ _ k => k.toNat < 256 / sz.bitsN
  | .vins sz _ _ k tag => k.toNat < 256 / sz.bitsN && tagFits tag sz
  | .vredAdd f rm _ _ => !f.isInt || rm == .thread
  | .vloop a disp => a != 0#5 && (-64 ≤ disp.toInt && disp.toInt ≤ -2)
  | .tld f _ d _ _ c _ | .tst f d _ _ c _ => isTile d && scaleOk f.isBlock c
  | .tzero _ d => isTile d
  | .tcvt f rm d a h he => isTile d && isTile a && f.rmOk rm && headOk f.isBlock h he
  | .tmov _ d a => isTile d && isTile a
  | .mma _ d a b k | .mmaCp _ d a b k => isAcc d && isTile a && isTile b && 1 ≤ k.toNat && k.toNat ≤ 64
  | .cpLd nops join prog => cpOk nops join prog
  | .accRd d a _ => even d && isAcc a
  | .accWr d a _ => isAcc d && even a
  | .accZero d => isAcc d
  | .qCnt _ a | .qPeek _ a | .qPeekPop _ a | .qFlush a => isQueue a
  | .sendQueue d _ => isQueue d
  | .sendMailbox o s _ _ nw => o.weakRel && scopeOk o s && 1 ≤ nw.toNat && nw.toNat ≤ 8
  | .mbxTake o s _ _ mask => o.weakAcq && scopeOk o s && mask != 0#4
  | .evSet o s _ _ rc b | .evClr o s _ _ rc b => o.weakRel && evScopeOk o s rc && (rc || b == 0#5)
  | .evWait o s _ _ _ rc b | .evTest o s _ _ _ rc b => o.weakAcq && evScopeOk o s rc && (rc || b == 0#5)
  | .barInit o s _ _ | .barArrive o s _ _ => o.weakRel && scopeOk o s
  | .barWait o s _ _ _ => o.weakAcq && scopeOk o s
  | .taskWid _ k => k.toNat ≤ 5
  | .taskSelf _ w => w.toNat ≤ 2
  | .ctrRd _ _ w => w != 3#2
  | .flagunionClear c _ => c < 64
  | .firmwareEventSet c q _ _ => c < 64 && q < 4
  | .blockFlit p f | .slotGrant p f | .forwardAck p f | .openFlit p f | .breakFlit p f | .retryRequest p f
  | .flitCrcFailure p f => p < 24 && f.payload.length == 14
  | .doorbellPost dom vec => dom < 16 && vec < 256
  | .hostPortTraining rate width _ => linkRate rate.toNat && linkWidth width.toNat
  | _ => true

end Sys2Proof
end

