-- ==== Sys2Proof/Decode.lean ====
section
/-! DEFINITION. Decoding and encoding (03): the common fields of the first 64 bits, the codings of `SZ`, `SCOPE`, `ORD`
and `RM`, the opcode map, and the causes of 03 Table 6 that an instruction's bits decide. The encoder writes the fields of
a well-formed instruction; the decoder accepts exactly the words whose unused and reserved bits are the zeros the encoder
writes (R39), but for `nop`, which ignores `IMM16` and everything above bit 63 (R133). -/

namespace Sys2Proof

/-- The fields of 03 Table 2, and everything above bit 63 as `ext` (Table 1). -/
structure Fields where
  len   : BitVec 2
  cls   : BitVec 6
  op    : BitVec 6
  sz    : BitVec 3
  q     : BitVec 1
  d     : Reg
  a     : Reg
  b     : Reg
  c     : Reg
  scope : BitVec 3
  ord   : BitVec 2
  rm    : BitVec 3
  zz    : BitVec 2
  imm16 : BitVec 16
  ext   : BitVec 64
  deriving DecidableEq, Repr

/-- The 64-bit form of an operation with every other field zero. -/
def opFields (cls op : BitVec 6) : Fields :=
  { len := 1#2, cls := cls, op := op, sz := 0#3, q := 0#1, d := 0#5, a := 0#5, b := 0#5, c := 0#5, scope := 0#3,
    ord := 0#2, rm := 0#3, zz := 0#2, imm16 := 0#16, ext := 0#64 }

/-- The instruction's bits from its fields (03 Table 2). -/
def Fields.word (f : Fields) : BitVec 128 :=
  f.ext ++ f.imm16 ++ f.zz ++ f.rm ++ f.ord ++ f.scope ++ f.c ++ f.b ++ f.a ++ f.d ++ f.q ++ f.sz ++ f.op ++ f.cls ++ f.len

/-- The fields of an instruction's bits (03 Table 2). -/
def Fields.ofWord (w : BitVec 128) : Fields :=
  { len := w.extractLsb' 0 2, cls := w.extractLsb' 2 6, op := w.extractLsb' 8 6, sz := w.extractLsb' 14 3,
    q := w.extractLsb' 17 1, d := w.extractLsb' 18 5, a := w.extractLsb' 23 5, b := w.extractLsb' 28 5,
    c := w.extractLsb' 33 5, scope := w.extractLsb' 38 3, ord := w.extractLsb' 41 2, rm := w.extractLsb' 43 3,
    zz := w.extractLsb' 46 2, imm16 := w.extractLsb' 48 16, ext := w.extractLsb' 64 64 }

/-- One bit from a truth value. -/
def bit (p : Bool) : BitVec 1 := if p then 1#1 else 0#1

/-! The codings of `SZ` (03 Table 3). -/

/-- Coding I. -/
def ISz.bits : ISz → BitVec 3
  | .b => 0 | .h => 1 | .w => 2 | .d => 3
/-- Coding I, read. -/
def ISz.ofBits (x : BitVec 3) : Option ISz :=
  match x.toNat with
  | 0 => some .b | 1 => some .h | 2 => some .w | 3 => some .d | _ => none
/-- Coding I as AMO takes it. -/
def ASz.bits : ASz → BitVec 3
  | .w => 2 | .d => 3
/-- Coding I as AMO takes it, read. -/
def ASz.ofBits (x : BitVec 3) : Option ASz :=
  match x.toNat with
  | 2 => some .w | 3 => some .d | _ => none
/-- Coding F. -/
def FFmt.bits : FFmt → BitVec 3
  | .f16 => 0 | .bf16 => 1 | .f32 => 2 | .f64 => 3
/-- Coding F, read. -/
def FFmt.ofBits (x : BitVec 3) : Option FFmt :=
  match x.toNat with
  | 0 => some .f16 | 1 => some .bf16 | 2 => some .f32 | 3 => some .f64 | _ => none
/-- Coding V. -/
def VFmt.bits : VFmt → BitVec 3
  | .i8 => 0 | .i16 => 1 | .i32 => 2 | .i64 => 3 | .bf16 => 4 | .f16 => 5 | .f32 => 6 | .f64 => 7
/-- Coding V, read. -/
def VFmt.ofBits (x : BitVec 3) : Option VFmt :=
  match x.toNat with
  | 0 => some .i8 | 1 => some .i16 | 2 => some .i32 | 3 => some .i64 | 4 => some .bf16 | 5 => some .f16
  | 6 => some .f32 | 7 => some .f64 | _ => none
/-- Coding M. -/
def MFmt.bits : MFmt → BitVec 3
  | .t8 => 0 | .t8b => 1 | .t6b => 2 | .i8b => 3 | .i8 => 4 | .bf16 => 5 | .f16 => 6
/-- Coding M, read. -/
def MFmt.ofBits (x : BitVec 3) : Option MFmt :=
  match x.toNat with
  | 0 => some .t8 | 1 => some .t8b | 2 => some .t6b | 3 => some .i8b | 4 => some .i8 | 5 => some .bf16
  | 6 => some .f16 | _ => none
/-- The `SZ` of coding V or M. -/
def VM.bits : VM → BitVec 3
  | .v f => f.bits
  | .m f => f.bits
/-- The `Q` that selects the coding. -/
def VM.q : VM → BitVec 1
  | .v _ => 0#1
  | .m _ => 1#1
/-- Coding V or M, read. -/
def VM.ofBits (q : BitVec 1) (x : BitVec 3) : Option VM :=
  if q == 0#1 then (VFmt.ofBits x).map .v else (MFmt.ofBits x).map .m
/-- Coding C. -/
def Cond.bits : Cond → BitVec 3
  | .eq => 0 | .ne => 1 | .lt => 2 | .ge => 3 | .ltu => 4 | .geu => 5
/-- Coding C, read. -/
def Cond.ofBits (x : BitVec 3) : Option Cond :=
  match x.toNat with
  | 0 => some .eq | 1 => some .ne | 2 => some .lt | 3 => some .ge | 4 => some .ltu | 5 => some .geu | _ => none
/-- Coding CR. -/
def CrSz.bits : CrSz → BitVec 3
  | .w => 0 | .d => 1 | .f32 => 2
/-- Coding CR, read. -/
def CrSz.ofBits (x : BitVec 3) : Option CrSz :=
  match x.toNat with
  | 0 => some .w | 1 => some .d | 2 => some .f32 | _ => none

/-! Qualifiers (03 Table 4). -/

/-- `RM` in a class that rounds. -/
def Rm.bits : Rm → BitVec 3
  | .thread => 0 | .rne => 1 | .rtz => 2 | .rdn => 3 | .rup => 4 | .rmm => 5 | .rsc => 6
/-- `RM` in a class that rounds, read. -/
def Rm.ofBits (x : BitVec 3) : Option Rm :=
  match x.toNat with
  | 0 => some .thread | 1 => some .rne | 2 => some .rtz | 3 => some .rdn | 4 => some .rup | 5 => some .rmm
  | 6 => some .rsc | _ => none
/-- `ORD`. -/
def MemOrd.bits : MemOrd → BitVec 2
  | .weak => 0 | .acq => 1 | .rel => 2 | .ar => 3 | .seq => 3
/-- `Q` beside `ORD` where `seq` exists (03 R39). -/
def MemOrd.q : MemOrd → BitVec 1
  | .seq => 1#1
  | _ => 0#1
/-- `ORD` where `Q` has no part in it. -/
def MemOrd.ofBits2 (x : BitVec 2) : MemOrd :=
  match x.toNat with
  | 0 => .weak | 1 => .acq | 2 => .rel | _ => .ar
/-- `ORD` with `Q`: `Q` = 1 is legal with 0b11 only (03 R39). -/
def MemOrd.ofBits (q : BitVec 1) (x : BitVec 2) : Option MemOrd :=
  if q == 0#1 then some (MemOrd.ofBits2 x) else if x == 3#2 then some .seq else none
/-- `SCOPE`. -/
def Scope.bits : Scope → BitVec 3
  | .th => 0 | .core => 1 | .g => 2 | .cl => 3 | .mod => 4 | .sys => 5
/-- `SCOPE`, read. -/
def Scope.ofBits (x : BitVec 3) : Option Scope :=
  match x.toNat with
  | 0 => some .th | 1 => some .core | 2 => some .g | 3 => some .cl | 4 => some .mod | 5 => some .sys | _ => none

/-! Immediates and lengths (03 Table 1, 07 R123, 10 R189, R197). -/

/-- The length code of a form with `IMM16` or `IMM32`. -/
def ImmA.len : ImmA → BitVec 2
  | .i16 _ => 1 | .i32 _ => 2
/-- `IMM16` of such a form. -/
def ImmA.imm16 : ImmA → BitVec 16
  | .i16 v => v | .i32 _ => 0
/-- The bits above 63 of such a form. -/
def ImmA.ext : ImmA → BitVec 64
  | .i16 _ => 0 | .i32 v => v.setWidth 64
/-- Such a form, read. -/
def ImmA.ofFields (len : BitVec 2) (imm16 : BitVec 16) (ext : BitVec 64) : Option ImmA :=
  match len.toNat with
  | 1 => some (.i16 imm16) | 2 => some (.i32 (ext.setWidth 32)) | _ => none
/-- The length code of `li`. -/
def ImmL.len : ImmL → BitVec 2
  | .i16 _ => 1 | .i32 _ => 2 | .i64 _ => 3
/-- `IMM16` of `li`. -/
def ImmL.imm16 : ImmL → BitVec 16
  | .i16 v => v | _ => 0
/-- The bits above 63 of `li`. -/
def ImmL.ext : ImmL → BitVec 64
  | .i16 _ => 0 | .i32 v => v.setWidth 64 | .i64 v => v
/-- The immediate of `li`, read. -/
def ImmL.ofFields (len : BitVec 2) (imm16 : BitVec 16) (ext : BitVec 64) : Option ImmL :=
  match len.toNat with
  | 1 => some (.i16 imm16) | 2 => some (.i32 (ext.setWidth 32)) | 3 => some (.i64 ext) | _ => none
/-- The length code of a `nop`. -/
def NopLen.bits : NopLen → BitVec 2
  | .l64 => 1 | .l96 => 2 | .l128 => 3
/-- The length of a `nop`, read. -/
def NopLen.ofBits (x : BitVec 2) : Option NopLen :=
  match x.toNat with
  | 1 => some .l64 | 2 => some .l96 | 3 => some .l128 | _ => none
/-- The length code of a vector access. -/
def VBase.len : VBase → BitVec 2
  | .regLong _ _ => 2 | _ => 1
/-- Field `A` of a vector access: a scalar register, or a pointer with its post-increment bit (03 Table 4a). -/
def VBase.a : VBase → Reg
  | .reg a _ | .regLong a _ => a
  | .ptr p post => (0#1 ++ bit post) ++ p
/-- `IMM16` of a vector access: bit 15 selects pointer mode. -/
def VBase.imm16 : VBase → BitVec 16
  | .reg _ disp => 0#1 ++ disp
  | .regLong _ _ => 0
  | .ptr _ _ => 0x8000#16
/-- The bits above 63 of a vector access. -/
def VBase.ext : VBase → BitVec 64
  | .regLong _ disp => disp.setWidth 64
  | _ => 0
/-- The base of a vector access, read. -/
def VBase.ofFields (len : BitVec 2) (a : Reg) (imm16 : BitVec 16) (ext : BitVec 64) : Option VBase :=
  match len.toNat with
  | 1 => if imm16.extractLsb' 15 1 == 1#1 then some (.ptr (a.extractLsb' 0 3) (a.extractLsb' 3 1 == 1#1))
         else some (.reg a (imm16.extractLsb' 0 15))
  | 2 => some (.regLong a (ext.setWidth 32))
  | _ => none

/-! The encoder. -/

/-- The fields of an instruction, from the opcode map (03 Table 5) and the class descriptions; an event has none. DESIGN CHOICE: `vldg` and
`vsts` have no displacement in their address (10 R199), though 10 R197 lists them with the register mode that has one, so `IMM16[14:0]` and the
96-bit form's `IMM32` are unused in them and 0, and another value raises ILL_FIELD (03 R39; notes/assumptions/32.md). Unsafe: hardware may ignore
these bits. -/
def encodeFields (i : Instr) : Option Fields :=
  match i with
  | .add sz d a b => some { opFields 0x01 0x00 with sz := sz.bits, d := d, a := a, b := b }
  | .sub sz d a b => some { opFields 0x01 0x01 with sz := sz.bits, d := d, a := a, b := b }
  | .and sz d a b => some { opFields 0x01 0x02 with sz := sz.bits, d := d, a := a, b := b }
  | .or sz d a b => some { opFields 0x01 0x03 with sz := sz.bits, d := d, a := a, b := b }
  | .xor sz d a b => some { opFields 0x01 0x04 with sz := sz.bits, d := d, a := a, b := b }
  | .andn sz d a b => some { opFields 0x01 0x05 with sz := sz.bits, d := d, a := a, b := b }
  | .shl sz d a b => some { opFields 0x01 0x06 with sz := sz.bits, d := d, a := a, b := b }
  | .shr sz d a b => some { opFields 0x01 0x07 with sz := sz.bits, d := d, a := a, b := b }
  | .sra sz d a b => some { opFields 0x01 0x08 with sz := sz.bits, d := d, a := a, b := b }
  | .rol sz d a b => some { opFields 0x01 0x09 with sz := sz.bits, d := d, a := a, b := b }
  | .ror sz d a b => some { opFields 0x01 0x0A with sz := sz.bits, d := d, a := a, b := b }
  | .min sz d a b => some { opFields 0x01 0x0B with sz := sz.bits, d := d, a := a, b := b }
  | .max sz d a b => some { opFields 0x01 0x0C with sz := sz.bits, d := d, a := a, b := b }
  | .minu sz d a b => some { opFields 0x01 0x0D with sz := sz.bits, d := d, a := a, b := b }
  | .maxu sz d a b => some { opFields 0x01 0x0E with sz := sz.bits, d := d, a := a, b := b }
  | .slt sz d a b => some { opFields 0x01 0x0F with sz := sz.bits, d := d, a := a, b := b }
  | .sltu sz d a b => some { opFields 0x01 0x10 with sz := sz.bits, d := d, a := a, b := b }
  | .seq sz d a b => some { opFields 0x01 0x11 with sz := sz.bits, d := d, a := a, b := b }
  | .sel sz d a b c => some { opFields 0x01 0x12 with sz := sz.bits, d := d, a := a, b := b, c := c }
  | .addi sz d a imm => some { opFields 0x02 0x00 with sz := sz.bits, d := d, a := a, len := imm.len, imm16 := imm.imm16, ext := imm.ext }
  | .andi sz d a imm => some { opFields 0x02 0x01 with sz := sz.bits, d := d, a := a, len := imm.len, imm16 := imm.imm16, ext := imm.ext }
  | .ori sz d a imm => some { opFields 0x02 0x02 with sz := sz.bits, d := d, a := a, len := imm.len, imm16 := imm.imm16, ext := imm.ext }
  | .xori sz d a imm => some { opFields 0x02 0x03 with sz := sz.bits, d := d, a := a, len := imm.len, imm16 := imm.imm16, ext := imm.ext }
  | .shli sz d a s => some { opFields 0x02 0x04 with sz := sz.bits, d := d, a := a, imm16 := 0#10 ++ s }
  | .shri sz d a s => some { opFields 0x02 0x05 with sz := sz.bits, d := d, a := a, imm16 := 0#10 ++ s }
  | .srai sz d a s => some { opFields 0x02 0x06 with sz := sz.bits, d := d, a := a, imm16 := 0#10 ++ s }
  | .li sz d imm => some { opFields 0x02 0x07 with sz := sz.bits, d := d, len := imm.len, imm16 := imm.imm16, ext := imm.ext }
  | .pcadd d imm => some { opFields 0x02 0x08 with d := d, len := imm.len, imm16 := imm.imm16, ext := imm.ext, sz := 3#3 }
  | .mul sz d a b => some { opFields 0x03 0x00 with sz := sz.bits, d := d, a := a, b := b }
  | .mulh sz d a b => some { opFields 0x03 0x01 with sz := sz.bits, d := d, a := a, b := b }
  | .mulhu sz d a b => some { opFields 0x03 0x02 with sz := sz.bits, d := d, a := a, b := b }
  | .mulhsu sz d a b => some { opFields 0x03 0x03 with sz := sz.bits, d := d, a := a, b := b }
  | .div sz d a b => some { opFields 0x03 0x04 with sz := sz.bits, d := d, a := a, b := b }
  | .divu sz d a b => some { opFields 0x03 0x05 with sz := sz.bits, d := d, a := a, b := b }
  | .rem sz d a b => some { opFields 0x03 0x06 with sz := sz.bits, d := d, a := a, b := b }
  | .remu sz d a b => some { opFields 0x03 0x07 with sz := sz.bits, d := d, a := a, b := b }
  | .madd sz d a b c => some { opFields 0x03 0x08 with sz := sz.bits, d := d, a := a, b := b, c := c }
  | .clz sz d a => some { opFields 0x04 0x00 with sz := sz.bits, d := d, a := a }
  | .ctz sz d a => some { opFields 0x04 0x01 with sz := sz.bits, d := d, a := a }
  | .popc sz d a => some { opFields 0x04 0x02 with sz := sz.bits, d := d, a := a }
  | .bfx sz d a pos len => some { opFields 0x04 0x03 with sz := sz.bits, d := d, a := a, imm16 := 0#3 ++ len ++ pos }
  | .bfxu sz d a pos len => some { opFields 0x04 0x04 with sz := sz.bits, d := d, a := a, imm16 := 0#3 ++ len ++ pos }
  | .bfi sz d a b pos len => some { opFields 0x04 0x05 with sz := sz.bits, d := d, a := a, b := b, imm16 := 0#3 ++ len ++ pos }
  | .bswap sz d a => some { opFields 0x04 0x06 with sz := sz.bits, d := d, a := a }
  | .brev sz d a => some { opFields 0x04 0x07 with sz := sz.bits, d := d, a := a }
  | .sext sz d a => some { opFields 0x04 0x08 with sz := sz.bits, d := d, a := a }
  | .zext sz d a => some { opFields 0x04 0x09 with sz := sz.bits, d := d, a := a }
  | .fadd fmt rm d a b => some { opFields 0x05 0x00 with sz := fmt.bits, rm := rm.bits, d := d, a := a, b := b }
  | .fsub fmt rm d a b => some { opFields 0x05 0x01 with sz := fmt.bits, rm := rm.bits, d := d, a := a, b := b }
  | .fmul fmt rm d a b => some { opFields 0x05 0x02 with sz := fmt.bits, rm := rm.bits, d := d, a := a, b := b }
  | .fma fmt rm d a b c => some { opFields 0x05 0x03 with sz := fmt.bits, rm := rm.bits, d := d, a := a, b := b, c := c }
  | .fnma fmt rm d a b c => some { opFields 0x05 0x04 with sz := fmt.bits, rm := rm.bits, d := d, a := a, b := b, c := c }
  | .fdiv fmt rm d a b => some { opFields 0x05 0x05 with sz := fmt.bits, rm := rm.bits, d := d, a := a, b := b }
  | .fsqrt fmt rm d a => some { opFields 0x05 0x06 with sz := fmt.bits, rm := rm.bits, d := d, a := a }
  | .fmin fmt d a b => some { opFields 0x05 0x07 with sz := fmt.bits, d := d, a := a, b := b }
  | .fmax fmt d a b => some { opFields 0x05 0x08 with sz := fmt.bits, d := d, a := a, b := b }
  | .fsgn fmt d a b mode => some { opFields 0x05 0x09 with sz := fmt.bits, d := d, a := a, b := b, imm16 := 0#14 ++ mode }
  | .fcmp fmt d a b mode => some { opFields 0x05 0x0A with sz := fmt.bits, d := d, a := a, b := b, imm16 := 0#14 ++ mode }
  | .fclass fmt d a => some { opFields 0x05 0x0B with sz := fmt.bits, d := d, a := a }
  | .fcvt fmt rm d a src => some { opFields 0x06 0x00 with sz := fmt.bits, rm := rm.bits, d := d, a := a, imm16 := 0#13 ++ src }
  | .fcvtInt fmt rm d a dst => some { opFields 0x06 0x00 with sz := fmt.bits, rm := rm.bits, d := d, a := a, q := 1#1, imm16 := 0#13 ++ dst }
  | .fmv fmt d a => some { opFields 0x06 0x01 with sz := fmt.bits, d := d, a := a }
  | .br cond a b imm => some { opFields 0x07 0x00 with sz := cond.bits, a := a, b := b, len := imm.len, imm16 := imm.imm16, ext := imm.ext }
  | .jmp imm => some { opFields 0x07 0x01 with len := imm.len, imm16 := imm.imm16, ext := imm.ext }
  | .jmpr a imm => some { opFields 0x07 0x02 with a := a, imm16 := imm }
  | .call imm => some { opFields 0x07 0x03 with len := imm.len, imm16 := imm.imm16, ext := imm.ext }
  | .callr a imm => some { opFields 0x07 0x04 with a := a, imm16 := imm }
  | .ret => some (opFields 0x07 0x05)
  | .ctlRd d num => some { opFields 0x08 0x00 with d := d, imm16 := 0#4 ++ num }
  | .ctlWr a num => some { opFields 0x08 0x01 with a := a, imm16 := 0#4 ++ num }
  | .ctlSet a num => some { opFields 0x08 0x02 with a := a, imm16 := 0#4 ++ num }
  | .ctlClr a num => some { opFields 0x08 0x03 with a := a, imm16 := 0#4 ++ num }
  | .yield => some (opFields 0x08 0x04)
  | .tid d => some { opFields 0x08 0x05 with d := d }
  | .nop len => some { opFields 0x09 0x00 with len := len.bits }
  | .trap imm => some { opFields 0x09 0x01 with imm16 := imm }
  | .eret => some (opFields 0x09 0x02)
  | .halt => some (opFields 0x09 0x03)
  | .brk imm => some { opFields 0x09 0x04 with imm16 := imm }
  | .icinv a b => some { opFields 0x09 0x05 with a := a, b := b }
  | .icinvFeed a b c storer => some { opFields 0x09 0x05 with a := a, b := b, c := c, imm16 := 0#14 ++ if storer then 2#2 else 1#2 }
  | .ld sz ord scope reuse d a imm => some { opFields 0x0A 0x00 with sz := sz.bits, ord := ord.bits, q := ord.q, scope := scope.bits, rm := reuse, d := d, a := a, len := imm.len, imm16 := imm.imm16, ext := imm.ext }
  | .ldx sz ord scope reuse d a b imm => some { opFields 0x0A 0x01 with sz := sz.bits, ord := ord.bits, q := ord.q, scope := scope.bits, rm := reuse, d := d, a := a, b := b, len := imm.len, imm16 := imm.imm16, ext := imm.ext }
  | .st sz ord scope a b imm => some { opFields 0x0B 0x00 with sz := sz.bits, ord := ord.bits, q := ord.q, scope := scope.bits, a := a, b := b, len := imm.len, imm16 := imm.imm16, ext := imm.ext }
  | .stx sz ord scope a b c imm => some { opFields 0x0B 0x01 with sz := sz.bits, ord := ord.bits, q := ord.q, scope := scope.bits, a := a, b := b, c := c, len := imm.len, imm16 := imm.imm16, ext := imm.ext }
  | .amoAdd sz ord scope d a b => some { opFields 0x0C 0x00 with sz := sz.bits, ord := ord.bits, q := ord.q, scope := scope.bits, d := d, a := a, b := b }
  | .amoAnd sz ord scope d a b => some { opFields 0x0C 0x01 with sz := sz.bits, ord := ord.bits, q := ord.q, scope := scope.bits, d := d, a := a, b := b }
  | .amoOr sz ord scope d a b => some { opFields 0x0C 0x02 with sz := sz.bits, ord := ord.bits, q := ord.q, scope := scope.bits, d := d, a := a, b := b }
  | .amoXor sz ord scope d a b => some { opFields 0x0C 0x03 with sz := sz.bits, ord := ord.bits, q := ord.q, scope := scope.bits, d := d, a := a, b := b }
  | .amoMin sz ord scope d a b => some { opFields 0x0C 0x04 with sz := sz.bits, ord := ord.bits, q := ord.q, scope := scope.bits, d := d, a := a, b := b }
  | .amoMax sz ord scope d a b => some { opFields 0x0C 0x05 with sz := sz.bits, ord := ord.bits, q := ord.q, scope := scope.bits, d := d, a := a, b := b }
  | .amoMinu sz ord scope d a b => some { opFields 0x0C 0x06 with sz := sz.bits, ord := ord.bits, q := ord.q, scope := scope.bits, d := d, a := a, b := b }
  | .amoMaxu sz ord scope d a b => some { opFields 0x0C 0x07 with sz := sz.bits, ord := ord.bits, q := ord.q, scope := scope.bits, d := d, a := a, b := b }
  | .amoSwap sz ord scope d a b => some { opFields 0x0C 0x08 with sz := sz.bits, ord := ord.bits, q := ord.q, scope := scope.bits, d := d, a := a, b := b }
  | .amoCas sz ord scope d a b c => some { opFields 0x0C 0x09 with sz := sz.bits, ord := ord.bits, q := ord.q, scope := scope.bits, d := d, a := a, b := b, c := c }
  | .fence ord scope => some { opFields 0x0D 0x00 with ord := ord.bits, q := ord.q, scope := scope.bits }
  | .inval a b => some { opFields 0x0D 0x01 with a := a, b := b }
  | .wb a b => some { opFields 0x0D 0x02 with a := a, b := b }
  | .pf a imm => some { opFields 0x0D 0x03 with a := a, imm16 := imm }
  | .tlbInv scope a b => some { opFields 0x0D 0x04 with scope := scope.bits, a := a, b := b }
  | .tagLd d a imm => some { opFields 0x0E 0x00 with d := d, a := a, imm16 := imm }
  | .tagSt a b imm => some { opFields 0x0E 0x01 with a := a, b := b, imm16 := imm }
  | .tagLdw d a c imm => some { opFields 0x0E 0x02 with d := d, a := a, c := c, imm16 := imm }
  | .tagFill a b tag => some { opFields 0x0E 0x03 with a := a, b := b, imm16 := 0#12 ++ tag }
  | .actWr a b => some { opFields 0x0E 0x04 with a := a, b := b }
  | .actWrImg a => some { opFields 0x0E 0x04 with a := a, q := 1#1 }
  | .actRd d a => some { opFields 0x0E 0x05 with d := d, a := a }
  | .actRdSh d a => some { opFields 0x0E 0x05 with d := d, a := a, q := 1#1 }
  | .actSwap => some (opFields 0x0E 0x06)
  | .spSet d a imm => some { opFields 0x0F 0x00 with d := d, a := a, len := imm.len, imm16 := imm.imm16, ext := imm.ext }
  | .spRd d a => some { opFields 0x0F 0x01 with d := d, a := a }
  | .vadd sz pr d a b => some { opFields 0x10 0x00 with sz := sz.bits, q := bit pr, d := d, a := a, b := b }
  | .vsub sz pr d a b => some { opFields 0x10 0x01 with sz := sz.bits, q := bit pr, d := d, a := a, b := b }
  | .vmul sz pr d a b => some { opFields 0x10 0x02 with sz := sz.bits, q := bit pr, d := d, a := a, b := b }
  | .vmulh sz pr d a b => some { opFields 0x10 0x03 with sz := sz.bits, q := bit pr, d := d, a := a, b := b }
  | .vmin sz pr d a b => some { opFields 0x10 0x04 with sz := sz.bits, q := bit pr, d := d, a := a, b := b }
  | .vmax sz pr d a b => some { opFields 0x10 0x05 with sz := sz.bits, q := bit pr, d := d, a := a, b := b }
  | .vabs sz pr d a => some { opFields 0x10 0x06 with sz := sz.bits, q := bit pr, d := d, a := a }
  | .vneg sz pr d a => some { opFields 0x10 0x07 with sz := sz.bits, q := bit pr, d := d, a := a }
  | .vand sz pr d a b => some { opFields 0x10 0x08 with sz := sz.bits, q := bit pr, d := d, a := a, b := b }
  | .vor sz pr d a b => some { opFields 0x10 0x09 with sz := sz.bits, q := bit pr, d := d, a := a, b := b }
  | .vxor sz pr d a b => some { opFields 0x10 0x0A with sz := sz.bits, q := bit pr, d := d, a := a, b := b }
  | .vshl sz pr d a b => some { opFields 0x10 0x0B with sz := sz.bits, q := bit pr, d := d, a := a, b := b }
  | .vshr sz pr d a b => some { opFields 0x10 0x0C with sz := sz.bits, q := bit pr, d := d, a := a, b := b }
  | .vsra sz pr d a b => some { opFields 0x10 0x0D with sz := sz.bits, q := bit pr, d := d, a := a, b := b }
  | .vsadd sz pr d a b => some { opFields 0x10 0x0E with sz := sz.bits, q := bit pr, d := d, a := a, b := b }
  | .vssub sz pr d a b => some { opFields 0x10 0x0F with sz := sz.bits, q := bit pr, d := d, a := a, b := b }
  | .vfadd fmt pr rm d a b => some { opFields 0x11 0x00 with sz := fmt.bits, q := bit pr, rm := rm.bits, d := d, a := a, b := b }
  | .vfsub fmt pr rm d a b => some { opFields 0x11 0x01 with sz := fmt.bits, q := bit pr, rm := rm.bits, d := d, a := a, b := b }
  | .vfmul fmt pr rm d a b => some { opFields 0x11 0x02 with sz := fmt.bits, q := bit pr, rm := rm.bits, d := d, a := a, b := b }
  | .vfma fmt pr rm d a b c => some { opFields 0x11 0x03 with sz := fmt.bits, q := bit pr, rm := rm.bits, d := d, a := a, b := b, c := c }
  | .vfnma fmt pr rm d a b c => some { opFields 0x11 0x04 with sz := fmt.bits, q := bit pr, rm := rm.bits, d := d, a := a, b := b, c := c }
  | .vfmin fmt pr d a b => some { opFields 0x11 0x05 with sz := fmt.bits, q := bit pr, d := d, a := a, b := b }
  | .vfmax fmt pr d a b => some { opFields 0x11 0x06 with sz := fmt.bits, q := bit pr, d := d, a := a, b := b }
  | .vfdiv fmt pr rm d a b => some { opFields 0x11 0x07 with sz := fmt.bits, q := bit pr, rm := rm.bits, d := d, a := a, b := b }
  | .vfcmp fmt pr d a b mode => some { opFields 0x11 0x08 with sz := fmt.bits, q := bit pr, d := d, a := a, b := b, imm16 := 0#14 ++ mode }
  | .vcvt fmt rm d a e0 => some { opFields 0x12 0x00 with sz := fmt.bits, q := fmt.q, rm := rm.bits, d := d, a := a, imm16 := 0#11 ++ e0 }
  | .vcvtBlk fmt rm d a e0 h he => some { opFields 0x12 0x01 with sz := fmt.bits, rm := rm.bits, d := d, a := a, q := 1#1, imm16 := 0#3 ++ bit he ++ h ++ 0#3 ++ e0 }
  | .vpack fmt d a b u => some { opFields 0x12 0x02 with sz := fmt.bits, d := d, a := a, b := b, imm16 := 0#15 ++ bit u }
  | .vunpack fmt d a hi z => some { opFields 0x12 0x03 with sz := fmt.bits, d := d, a := a, imm16 := 0#14 ++ bit z ++ bit hi }
  | .vld fmt ord scope reuse d base c => some { opFields 0x13 0x00 with sz := fmt.bits, q := fmt.q, ord := ord.bits, scope := scope.bits, rm := reuse, d := d, len := base.len, a := base.a, imm16 := base.imm16, ext := base.ext, c := c }
  | .vst fmt ord scope b base c => some { opFields 0x13 0x01 with sz := fmt.bits, q := fmt.q, ord := ord.bits, scope := scope.bits, b := b, len := base.len, a := base.a, imm16 := base.imm16, ext := base.ext, c := c }
  | .vldg fmt ord scope reuse d a b long => some { opFields 0x13 0x02 with sz := fmt.bits, q := fmt.q, ord := ord.bits, scope := scope.bits, rm := reuse, d := d, a := a, b := b, len := if long then 2#2 else 1#2 }
  | .vsts fmt ord scope a b c long => some { opFields 0x13 0x03 with sz := fmt.bits, q := fmt.q, ord := ord.bits, scope := scope.bits, a := a, b := b, c := c, len := if long then 2#2 else 1#2 }
  | .vperm sz d a b c => some { opFields 0x14 0x00 with sz := sz.bits, d := d, a := a, b := b, c := c }
  | .vsel sz d a b c => some { opFields 0x14 0x01 with sz := sz.bits, d := d, a := a, b := b, c := c }
  | .vmerge sz d a b hf => some { opFields 0x14 0x02 with sz := sz.bits, d := d, a := a, b := b, imm16 := 0#15 ++ bit hf }
  | .vslide sz d a b s => some { opFields 0x14 0x03 with sz := sz.bits, d := d, a := a, b := b, imm16 := 0#10 ++ s }
  | .vbcast sz d a tag => some { opFields 0x14 0x04 with sz := sz.bits, d := d, a := a, imm16 := 0#4 ++ tag ++ 0#8 }
  | .vext sz d a k => some { opFields 0x14 0x05 with sz := sz.bits, d := d, a := a, imm16 := 0#11 ++ k }
  | .vins sz d a k tag => some { opFields 0x14 0x06 with sz := sz.bits, d := d, a := a, imm16 := 0#4 ++ tag ++ 0#3 ++ k }
  | .vredAdd fmt rm d a => some { opFields 0x15 0x00 with sz := fmt.bits, rm := rm.bits, d := d, a := a }
  | .vredMax fmt d a => some { opFields 0x15 0x01 with sz := fmt.bits, d := d, a := a }
  | .vredMin fmt d a => some { opFields 0x15 0x02 with sz := fmt.bits, d := d, a := a }
  | .vexp2V rm d a => some { opFields 0x16 0x00 with rm := rm.bits, d := d, a := a, sz := 2#3 }
  | .vrcpV rm d a => some { opFields 0x16 0x01 with rm := rm.bits, d := d, a := a, sz := 2#3 }
  | .vrsqrtV rm d a => some { opFields 0x16 0x02 with rm := rm.bits, d := d, a := a, sz := 2#3 }
  | .vlog2V rm d a => some { opFields 0x16 0x03 with rm := rm.bits, d := d, a := a, sz := 2#3 }
  | .crandV sz d a b => some { opFields 0x16 0x04 with sz := sz.bits, d := d, a := a, b := b }
  | .vexp2S rm d a => some { opFields 0x16 0x08 with rm := rm.bits, d := d, a := a, sz := 2#3 }
  | .vrcpS rm d a => some { opFields 0x16 0x09 with rm := rm.bits, d := d, a := a, sz := 2#3 }
  | .vrsqrtS rm d a => some { opFields 0x16 0x0A with rm := rm.bits, d := d, a := a, sz := 2#3 }
  | .vlog2S rm d a => some { opFields 0x16 0x0B with rm := rm.bits, d := d, a := a, sz := 2#3 }
  | .crandS d a b => some { opFields 0x16 0x0C with d := d, a := a, b := b }
  | .vloop a imm => some { opFields 0x17 0x00 with a := a, imm16 := imm }
  | .tld fmt reuse d a b c imm => some { opFields 0x18 0x00 with sz := fmt.bits, rm := reuse, d := d, a := a, b := b, c := c, len := imm.len, imm16 := imm.imm16, ext := imm.ext }
  | .tst fmt d a b c imm => some { opFields 0x18 0x01 with sz := fmt.bits, d := d, a := a, b := b, c := c, len := imm.len, imm16 := imm.imm16, ext := imm.ext }
  | .tzero fmt d => some { opFields 0x18 0x02 with sz := fmt.bits, d := d }
  | .tcvt fmt rm d a h he => some { opFields 0x18 0x03 with sz := fmt.bits, rm := rm.bits, d := d, a := a, imm16 := 0#3 ++ bit he ++ h ++ 0#8 }
  | .tmov fmt d a => some { opFields 0x18 0x04 with sz := fmt.bits, d := d, a := a }
  | .mma fmt d a b k => some { opFields 0x19 0x00 with sz := fmt.bits, d := d, a := a, b := b, imm16 := 0#9 ++ k }
  | .mmaCp fmt d a b k => some { opFields 0x19 0x01 with sz := fmt.bits, d := d, a := a, b := b, imm16 := 0#9 ++ k }
  | .cpLd nops join prog => some { opFields 0x19 0x02 with ext := prog, len := 3#2, imm16 := 0#12 ++ join ++ nops }
  | .accRd d a row => some { opFields 0x19 0x03 with d := d, a := a, imm16 := 0#10 ++ row }
  | .accWr d a row => some { opFields 0x19 0x04 with d := d, a := a, imm16 := 0#10 ++ row }
  | .accZero d => some { opFields 0x19 0x05 with d := d }
  | .gang d => some { opFields 0x19 0x06 with d := d }
  | .qCnt d a => some { opFields 0x1A 0x00 with d := d, a := a }
  | .qPeek d a => some { opFields 0x1A 0x01 with d := d, a := a }
  | .qPeekPop d a => some { opFields 0x1A 0x01 with d := d, a := a, q := 1#1 }
  | .qFlush a => some { opFields 0x1A 0x02 with a := a }
  | .hdrLay a => some { opFields 0x1B 0x00 with a := a }
  | .hdrPack d a n => some { opFields 0x1B 0x01 with d := d, a := a, imm16 := 0#12 ++ n }
  | .hdrUnpack s d a n => some { opFields 0x1B 0x02 with q := bit s, d := d, a := a, imm16 := 0#12 ++ n }
  | .sendQueue d b => some { opFields 0x1B 0x03 with d := d, b := b }
  | .sendMailbox ord scope a b nw => some { opFields 0x1B 0x03 with ord := ord.bits, scope := scope.bits, a := a, b := b, imm16 := 0#9 ++ nw ++ 1#2 }
  | .sendEngine a b => some { opFields 0x1B 0x03 with a := a, b := b, imm16 := 0x42#16 }
  | .mbxTake ord scope d a mask => some { opFields 0x1B 0x04 with ord := ord.bits, scope := scope.bits, d := d, a := a, imm16 := 0#12 ++ mask }
  | .mbxCnt d => some { opFields 0x1B 0x05 with d := d }
  | .mbxCntCfg d a r => some { opFields 0x1B 0x05 with d := d, a := a, q := 1#1, imm16 := 0#14 ++ r }
  | .evSet ord scope a q rc b => some { opFields 0x1C 0x00 with ord := ord.bits, scope := scope.bits, a := a, b := b, imm16 := 0#7 ++ bit rc ++ 0#6 ++ q }
  | .evClr ord scope a q rc b => some { opFields 0x1C 0x01 with ord := ord.bits, scope := scope.bits, a := a, b := b, imm16 := 0#7 ++ bit rc ++ 0#6 ++ q }
  | .evWait ord scope d a q rc b => some { opFields 0x1C 0x02 with ord := ord.bits, scope := scope.bits, d := d, a := a, b := b, imm16 := 0#7 ++ bit rc ++ 0#6 ++ q }
  | .evTest ord scope d a q rc b => some { opFields 0x1C 0x03 with ord := ord.bits, scope := scope.bits, d := d, a := a, b := b, imm16 := 0#7 ++ bit rc ++ 0#6 ++ q }
  | .barInit ord scope a b => some { opFields 0x1C 0x08 with ord := ord.bits, scope := scope.bits, a := a, b := b }
  | .barArrive ord scope d a => some { opFields 0x1C 0x09 with ord := ord.bits, scope := scope.bits, d := d, a := a }
  | .barExpect a b => some { opFields 0x1C 0x0A with a := a, b := b }
  | .barWait ord scope d a b => some { opFields 0x1C 0x0B with ord := ord.bits, scope := scope.bits, d := d, a := a, b := b }
  | .taskPost d a => some { opFields 0x1D 0x00 with d := d, a := a }
  | .taskExit => some (opFields 0x1D 0x01)
  | .taskYield => some (opFields 0x1D 0x02)
  | .taskWid d k => some { opFields 0x1D 0x03 with d := d, imm16 := 0#13 ++ k }
  | .taskSelf d sel => some { opFields 0x1D 0x04 with d := d, imm16 := 0#14 ++ sel }
  | .coSuspend d a b => some { opFields 0x1E 0x00 with d := d, a := a, b := b }
  | .coResume d a b => some { opFields 0x1E 0x01 with d := d, a := a, b := b }
  | .coSeal a => some { opFields 0x1E 0x02 with a := a }
  | .coDiscard a => some { opFields 0x1E 0x03 with a := a }
  | .coStat d a sel => some { opFields 0x1E 0x04 with d := d, a := a, imm16 := 0#15 ++ bit sel }
  | .rotOpen d a b c => some { opFields 0x1F 0x00 with d := d, a := a, b := b, c := c }
  | .rotPut a b => some { opFields 0x1F 0x01 with a := a, b := b }
  | .rotTake d a c => some { opFields 0x1F 0x02 with d := d, a := a, c := c }
  | .rotDone a b => some { opFields 0x1F 0x03 with a := a, b := b }
  | .rotClose a => some { opFields 0x1F 0x04 with a := a }
  | .ctrStart a n => some { opFields 0x20 0x00 with a := a, imm16 := 0#13 ++ n }
  | .ctrStop d a n => some { opFields 0x20 0x01 with d := d, a := a, imm16 := 0#13 ++ n }
  | .ctrRd d n sel => some { opFields 0x20 0x02 with d := d, imm16 := 0#11 ++ sel ++ n }
  | .sample a => some { opFields 0x20 0x03 with a := a }
  | .mark a imm => some { opFields 0x20 0x04 with a := a, imm16 := imm }
  | .moduleReset _
  | .hostPortTraining _ _ _
  | .stageImage _
  | .moduleResetCommand _
  | .registerWrite _ _ _
  | .bar0InvalidAccess _ _ _
  | .doorbellPost _ _
  | .bar2Read _ _
  | .bar2Write _ _
  | .hostSnoop _ _
  | .flagunionClear _ _
  | .eccError _ _ _
  | .blockFlit _ _
  | .slotGrant _ _
  | .forwardAck _ _
  | .openFlit _ _
  | .breakFlit _ _
  | .retryRequest _ _
  | .flitCrcFailure _ _
  | .firmwareEventSet _ _ _ _
  | .powerGating _ _
  | .presentDrawRefresh _
  | .readFailureLog
  | .commitImage
  | .setPolicy
  | .fenceUnit
  | .readTraceRegister
  | .writeTraceRegister
  | .claimLaunch
  | .releaseClaim
  | .haltGroup
  | .resumeOrStep
  | .readState
  | .writeState
  | .setWatchpoint
  | .reverseStep
  | .stopAtTickCommand
  | .readRegistrationEntry
  | .readModuleCounter
  | .readScratchpadWord
  | .writeScratchpadWord
  | .readDebugEvent
  | .recordAccept
  | .hubCycle
  | .headReservation
  | .quantumExpiry
  | .hubWatchdog
  | .gangRetirementReport
  | .completionSet
  | .launchFailure
  | .evWaitRepresent
  | .stealReq
  | .stealOffer
  | .stealAck
  | .stealNak
  | .stealConfirm
  | .stealPlaced
  | .stealLate
  | .stealDeadline
  | .hubReset
  | .incarnationAnnouncement
  | .victimDeathNotice
  | .agreedTick
  | .saveBodyWrite
  | .maquette
  | .homeLoadRequest
  | .forwardedLoad
  | .loadReply
  | .homeRegistration
  | .revoke
  | .forcedWriteBackAtOwner
  | .ownerDataArrival
  | .registrationAck
  | .mergeData
  | .homeAmo
  | .untrackedStoreAtHome
  | .farAccess
  | .journalAck
  | .storeRefusal
  | .asyncTrapEntry
  | .coreWatchdogExpiry
  | .coreDeathDeclaration
  | .tlbShootdownRequest
  | .tlbShootdownAck
  | .waiterReevaluation
  | .waitQueueRetry
  | .actSwapBoundary
  | .flagunionSet
  | .gangOpStart
  | .matrixRetire
  | .jobAccept
  | .jobStart
  | .engineUnit
  | .reduceSetComplete
  | .jobComplete
  | .jobFail
  | .replyDeposit
  | .mailboxDeposit
  | .barWaitPoll
  | .samplingPulse
  | .stopAtTick
  | .thermalTrip
  | .powerThrottle
  | .portDown
  | .forwardStart
  | .putCopyComplete
  | .ringTeardown
  | .portRetraining
  | .releaseHeldThread
  | .powerLoss
  | .writeBackAck
  | .amoReply => none

/-- The bits of an instruction, with zeros above its length. -/
def encode (i : Instr) : Option (BitVec 128) := (encodeFields i).map Fields.word

/-- Bits [63:0] of an instruction: what `TVAL` holds for a decode cause or FORMAT (03 R49, 14 R252). -/
def lowBits (i : Instr) : W64 :=
  match encode i with
  | some w => w.setWidth 64
  | none => 0

/-- The length in bytes that a length code names (03 Table 1); 0 for the code 0b00. -/
def lenBytes (code : BitVec 2) : Nat :=
  match code.toNat with
  | 1 => 8 | 2 => 12 | 3 => 16 | _ => 0

/-- The length of an instruction in bytes (03 R34). -/
def Instr.size (i : Instr) : Nat :=
  match encodeFields i with
  | some f => lenBytes f.len
  | none => 0

/-! The opcode map. -/

/-- One operation of 03 Table 5: its lengths, whether it is in the feed subset, and whether it is kernel-only. -/
structure OpRow where
  cls    : Nat
  op     : Nat
  l64    : Bool
  l96    : Bool
  l128   : Bool
  feed   : Bool
  kernel : Bool
  deriving DecidableEq, Repr

/-- Class 0x01 of 03 Table 5. -/
def rowsIalu : List OpRow := [
  ⟨0x01, 0x00, true, false, false, true, false⟩,
  ⟨0x01, 0x01, true, false, false, true, false⟩,
  ⟨0x01, 0x02, true, false, false, true, false⟩,
  ⟨0x01, 0x03, true, false, false, true, false⟩,
  ⟨0x01, 0x04, true, false, false, true, false⟩,
  ⟨0x01, 0x05, true, false, false, true, false⟩,
  ⟨0x01, 0x06, true, false, false, true, false⟩,
  ⟨0x01, 0x07, true, false, false, true, false⟩,
  ⟨0x01, 0x08, true, false, false, true, false⟩,
  ⟨0x01, 0x09, true, false, false, true, false⟩,
  ⟨0x01, 0x0A, true, false, false, true, false⟩,
  ⟨0x01, 0x0B, true, false, false, true, false⟩,
  ⟨0x01, 0x0C, true, false, false, true, false⟩,
  ⟨0x01, 0x0D, true, false, false, true, false⟩,
  ⟨0x01, 0x0E, true, false, false, true, false⟩,
  ⟨0x01, 0x0F, true, false, false, true, false⟩,
  ⟨0x01, 0x10, true, false, false, true, false⟩,
  ⟨0x01, 0x11, true, false, false, true, false⟩,
  ⟨0x01, 0x12, true, false, false, true, false⟩]

/-- Class 0x02 of 03 Table 5. -/
def rowsIalui : List OpRow := [
  ⟨0x02, 0x00, true, true, false, true, false⟩,
  ⟨0x02, 0x01, true, true, false, true, false⟩,
  ⟨0x02, 0x02, true, true, false, true, false⟩,
  ⟨0x02, 0x03, true, true, false, true, false⟩,
  ⟨0x02, 0x04, true, false, false, true, false⟩,
  ⟨0x02, 0x05, true, false, false, true, false⟩,
  ⟨0x02, 0x06, true, false, false, true, false⟩,
  ⟨0x02, 0x07, true, true, true, true, false⟩,
  ⟨0x02, 0x08, true, true, false, true, false⟩]

/-- Class 0x03 of 03 Table 5. -/
def rowsImul : List OpRow := [
  ⟨0x03, 0x00, true, false, false, true, false⟩,
  ⟨0x03, 0x01, true, false, false, true, false⟩,
  ⟨0x03, 0x02, true, false, false, true, false⟩,
  ⟨0x03, 0x03, true, false, false, true, false⟩,
  ⟨0x03, 0x04, true, false, false, true, false⟩,
  ⟨0x03, 0x05, true, false, false, true, false⟩,
  ⟨0x03, 0x06, true, false, false, true, false⟩,
  ⟨0x03, 0x07, true, false, false, true, false⟩,
  ⟨0x03, 0x08, true, false, false, true, false⟩]

/-- Class 0x04 of 03 Table 5. -/
def rowsBitf : List OpRow := [
  ⟨0x04, 0x00, true, false, false, true, false⟩,
  ⟨0x04, 0x01, true, false, false, true, false⟩,
  ⟨0x04, 0x02, true, false, false, true, false⟩,
  ⟨0x04, 0x03, true, false, false, true, false⟩,
  ⟨0x04, 0x04, true, false, false, true, false⟩,
  ⟨0x04, 0x05, true, false, false, true, false⟩,
  ⟨0x04, 0x06, true, false, false, true, false⟩,
  ⟨0x04, 0x07, true, false, false, true, false⟩,
  ⟨0x04, 0x08, true, false, false, true, false⟩,
  ⟨0x04, 0x09, true, false, false, true, false⟩]

/-- Class 0x05 of 03 Table 5. -/
def rowsFalu : List OpRow := [
  ⟨0x05, 0x00, true, false, false, false, false⟩,
  ⟨0x05, 0x01, true, false, false, false, false⟩,
  ⟨0x05, 0x02, true, false, false, false, false⟩,
  ⟨0x05, 0x03, true, false, false, false, false⟩,
  ⟨0x05, 0x04, true, false, false, false, false⟩,
  ⟨0x05, 0x05, true, false, false, false, false⟩,
  ⟨0x05, 0x06, true, false, false, false, false⟩,
  ⟨0x05, 0x07, true, false, false, false, false⟩,
  ⟨0x05, 0x08, true, false, false, false, false⟩,
  ⟨0x05, 0x09, true, false, false, false, false⟩,
  ⟨0x05, 0x0A, true, false, false, false, false⟩,
  ⟨0x05, 0x0B, true, false, false, false, false⟩]

/-- Class 0x06 of 03 Table 5. -/
def rowsFcvt : List OpRow := [
  ⟨0x06, 0x00, true, false, false, false, false⟩,
  ⟨0x06, 0x01, true, false, false, false, false⟩]

/-- Class 0x07 of 03 Table 5. -/
def rowsBr : List OpRow := [
  ⟨0x07, 0x00, true, true, false, true, false⟩,
  ⟨0x07, 0x01, true, true, false, true, false⟩,
  ⟨0x07, 0x02, true, false, false, true, false⟩,
  ⟨0x07, 0x03, true, true, false, true, false⟩,
  ⟨0x07, 0x04, true, false, false, true, false⟩,
  ⟨0x07, 0x05, true, false, false, true, false⟩]

/-- Class 0x08 of 03 Table 5. -/
def rowsCtl : List OpRow := [
  ⟨0x08, 0x00, true, false, false, false, false⟩,
  ⟨0x08, 0x01, true, false, false, false, false⟩,
  ⟨0x08, 0x02, true, false, false, false, false⟩,
  ⟨0x08, 0x03, true, false, false, false, false⟩,
  ⟨0x08, 0x04, true, false, false, false, false⟩,
  ⟨0x08, 0x05, true, false, false, false, false⟩]

/-- Class 0x09 of 03 Table 5. -/
def rowsSys : List OpRow := [
  ⟨0x09, 0x00, true, true, true, true, false⟩,
  ⟨0x09, 0x01, true, false, false, false, false⟩,
  ⟨0x09, 0x02, true, false, false, false, true⟩,
  ⟨0x09, 0x03, true, false, false, false, true⟩,
  ⟨0x09, 0x04, true, false, false, false, false⟩,
  ⟨0x09, 0x05, true, false, false, false, false⟩]

/-- Class 0x0A of 03 Table 5. -/
def rowsLd : List OpRow := [
  ⟨0x0A, 0x00, true, true, false, true, false⟩,
  ⟨0x0A, 0x01, true, true, false, true, false⟩]

/-- Class 0x0B of 03 Table 5. -/
def rowsSt : List OpRow := [
  ⟨0x0B, 0x00, true, true, false, true, false⟩,
  ⟨0x0B, 0x01, true, true, false, true, false⟩]

/-- Class 0x0C of 03 Table 5. -/
def rowsAmo : List OpRow := [
  ⟨0x0C, 0x00, true, false, false, false, false⟩,
  ⟨0x0C, 0x01, true, false, false, false, false⟩,
  ⟨0x0C, 0x02, true, false, false, false, false⟩,
  ⟨0x0C, 0x03, true, false, false, false, false⟩,
  ⟨0x0C, 0x04, true, false, false, false, false⟩,
  ⟨0x0C, 0x05, true, false, false, false, false⟩,
  ⟨0x0C, 0x06, true, false, false, false, false⟩,
  ⟨0x0C, 0x07, true, false, false, false, false⟩,
  ⟨0x0C, 0x08, true, false, false, false, false⟩,
  ⟨0x0C, 0x09, true, false, false, false, false⟩]

/-- Class 0x0D of 03 Table 5. -/
def rowsMemc : List OpRow := [
  ⟨0x0D, 0x00, true, false, false, false, false⟩,
  ⟨0x0D, 0x01, true, false, false, false, false⟩,
  ⟨0x0D, 0x02, true, false, false, false, false⟩,
  ⟨0x0D, 0x03, true, false, false, false, false⟩,
  ⟨0x0D, 0x04, true, false, false, false, true⟩]

/-- Class 0x0E of 03 Table 5. -/
def rowsTag : List OpRow := [
  ⟨0x0E, 0x00, true, false, false, false, false⟩,
  ⟨0x0E, 0x01, true, false, false, false, false⟩,
  ⟨0x0E, 0x02, true, false, false, false, false⟩,
  ⟨0x0E, 0x03, true, false, false, false, false⟩,
  ⟨0x0E, 0x04, true, false, false, false, false⟩,
  ⟨0x0E, 0x05, true, false, false, false, false⟩,
  ⟨0x0E, 0x06, true, false, false, false, false⟩]

/-- Class 0x0F of 03 Table 5. -/
def rowsSpm : List OpRow := [
  ⟨0x0F, 0x00, true, true, false, false, false⟩,
  ⟨0x0F, 0x01, true, false, false, false, false⟩]

/-- Class 0x10 of 03 Table 5. -/
def rowsValu : List OpRow := [
  ⟨0x10, 0x00, true, false, false, false, false⟩,
  ⟨0x10, 0x01, true, false, false, false, false⟩,
  ⟨0x10, 0x02, true, false, false, false, false⟩,
  ⟨0x10, 0x03, true, false, false, false, false⟩,
  ⟨0x10, 0x04, true, false, false, false, false⟩,
  ⟨0x10, 0x05, true, false, false, false, false⟩,
  ⟨0x10, 0x06, true, false, false, false, false⟩,
  ⟨0x10, 0x07, true, false, false, false, false⟩,
  ⟨0x10, 0x08, true, false, false, false, false⟩,
  ⟨0x10, 0x09, true, false, false, false, false⟩,
  ⟨0x10, 0x0A, true, false, false, false, false⟩,
  ⟨0x10, 0x0B, true, false, false, false, false⟩,
  ⟨0x10, 0x0C, true, false, false, false, false⟩,
  ⟨0x10, 0x0D, true, false, false, false, false⟩,
  ⟨0x10, 0x0E, true, false, false, false, false⟩,
  ⟨0x10, 0x0F, true, false, false, false, false⟩]

/-- Class 0x11 of 03 Table 5. -/
def rowsVfpu : List OpRow := [
  ⟨0x11, 0x00, true, false, false, false, false⟩,
  ⟨0x11, 0x01, true, false, false, false, false⟩,
  ⟨0x11, 0x02, true, false, false, false, false⟩,
  ⟨0x11, 0x03, true, false, false, false, false⟩,
  ⟨0x11, 0x04, true, false, false, false, false⟩,
  ⟨0x11, 0x05, true, false, false, false, false⟩,
  ⟨0x11, 0x06, true, false, false, false, false⟩,
  ⟨0x11, 0x07, true, false, false, false, false⟩,
  ⟨0x11, 0x08, true, false, false, false, false⟩]

/-- Class 0x12 of 03 Table 5. -/
def rowsVcvt : List OpRow := [
  ⟨0x12, 0x00, true, false, false, false, false⟩,
  ⟨0x12, 0x01, true, false, false, false, false⟩,
  ⟨0x12, 0x02, true, false, false, false, false⟩,
  ⟨0x12, 0x03, true, false, false, false, false⟩]

/-- Class 0x13 of 03 Table 5. -/
def rowsVmem : List OpRow := [
  ⟨0x13, 0x00, true, true, false, false, false⟩,
  ⟨0x13, 0x01, true, true, false, false, false⟩,
  ⟨0x13, 0x02, true, true, false, false, false⟩,
  ⟨0x13, 0x03, true, true, false, false, false⟩]

/-- Class 0x14 of 03 Table 5. -/
def rowsVperm : List OpRow := [
  ⟨0x14, 0x00, true, false, false, false, false⟩,
  ⟨0x14, 0x01, true, false, false, false, false⟩,
  ⟨0x14, 0x02, true, false, false, false, false⟩,
  ⟨0x14, 0x03, true, false, false, false, false⟩,
  ⟨0x14, 0x04, true, false, false, false, false⟩,
  ⟨0x14, 0x05, true, false, false, false, false⟩,
  ⟨0x14, 0x06, true, false, false, false, false⟩]

/-- Class 0x15 of 03 Table 5. -/
def rowsVred : List OpRow := [
  ⟨0x15, 0x00, true, false, false, false, false⟩,
  ⟨0x15, 0x01, true, false, false, false, false⟩,
  ⟨0x15, 0x02, true, false, false, false, false⟩]

/-- Class 0x16 of 03 Table 5. -/
def rowsVspec : List OpRow := [
  ⟨0x16, 0x00, true, false, false, false, false⟩,
  ⟨0x16, 0x01, true, false, false, false, false⟩,
  ⟨0x16, 0x02, true, false, false, false, false⟩,
  ⟨0x16, 0x03, true, false, false, false, false⟩,
  ⟨0x16, 0x04, true, false, false, false, false⟩,
  ⟨0x16, 0x08, true, false, false, false, false⟩,
  ⟨0x16, 0x09, true, false, false, false, false⟩,
  ⟨0x16, 0x0A, true, false, false, false, false⟩,
  ⟨0x16, 0x0B, true, false, false, false, false⟩,
  ⟨0x16, 0x0C, true, false, false, false, false⟩]

/-- Class 0x17 of 03 Table 5. -/
def rowsVseq : List OpRow := [
  ⟨0x17, 0x00, true, false, false, false, false⟩]

/-- Class 0x18 of 03 Table 5. -/
def rowsTile : List OpRow := [
  ⟨0x18, 0x00, true, true, false, false, false⟩,
  ⟨0x18, 0x01, true, true, false, false, false⟩,
  ⟨0x18, 0x02, true, false, false, false, false⟩,
  ⟨0x18, 0x03, true, false, false, false, false⟩,
  ⟨0x18, 0x04, true, false, false, false, false⟩]

/-- Class 0x19 of 03 Table 5. -/
def rowsMma : List OpRow := [
  ⟨0x19, 0x00, true, false, false, false, false⟩,
  ⟨0x19, 0x01, true, false, false, false, false⟩,
  ⟨0x19, 0x02, false, false, true, false, false⟩,
  ⟨0x19, 0x03, true, false, false, false, false⟩,
  ⟨0x19, 0x04, true, false, false, false, false⟩,
  ⟨0x19, 0x05, true, false, false, false, false⟩,
  ⟨0x19, 0x06, true, false, false, false, false⟩]

/-- Class 0x1A of 03 Table 5. -/
def rowsQue : List OpRow := [
  ⟨0x1A, 0x00, true, false, false, true, false⟩,
  ⟨0x1A, 0x01, true, false, false, true, false⟩,
  ⟨0x1A, 0x02, true, false, false, true, false⟩]

/-- Class 0x1B of 03 Table 5. -/
def rowsMsg : List OpRow := [
  ⟨0x1B, 0x00, true, false, false, true, false⟩,
  ⟨0x1B, 0x01, true, false, false, true, false⟩,
  ⟨0x1B, 0x02, true, false, false, true, false⟩,
  ⟨0x1B, 0x03, true, false, false, true, false⟩,
  ⟨0x1B, 0x04, true, false, false, true, false⟩,
  ⟨0x1B, 0x05, true, false, false, true, false⟩]

/-- Class 0x1C of 03 Table 5. -/
def rowsEvt : List OpRow := [
  ⟨0x1C, 0x00, true, false, false, false, false⟩,
  ⟨0x1C, 0x01, true, false, false, false, false⟩,
  ⟨0x1C, 0x02, true, false, false, false, false⟩,
  ⟨0x1C, 0x03, true, false, false, false, false⟩,
  ⟨0x1C, 0x08, true, false, false, true, false⟩,
  ⟨0x1C, 0x09, true, false, false, true, false⟩,
  ⟨0x1C, 0x0A, true, false, false, true, false⟩,
  ⟨0x1C, 0x0B, true, false, false, true, false⟩]

/-- Class 0x1D of 03 Table 5. -/
def rowsTask : List OpRow := [
  ⟨0x1D, 0x00, true, false, false, false, false⟩,
  ⟨0x1D, 0x01, true, false, false, false, false⟩,
  ⟨0x1D, 0x02, true, false, false, false, false⟩,
  ⟨0x1D, 0x03, true, false, false, false, false⟩,
  ⟨0x1D, 0x04, true, false, false, false, false⟩]

/-- Class 0x1E of 03 Table 5. -/
def rowsCont : List OpRow := [
  ⟨0x1E, 0x00, true, false, false, false, false⟩,
  ⟨0x1E, 0x01, true, false, false, false, false⟩,
  ⟨0x1E, 0x02, true, false, false, false, false⟩,
  ⟨0x1E, 0x03, true, false, false, false, false⟩,
  ⟨0x1E, 0x04, true, false, false, false, false⟩]

/-- Class 0x1F of 03 Table 5. -/
def rowsRot : List OpRow := [
  ⟨0x1F, 0x00, true, false, false, false, false⟩,
  ⟨0x1F, 0x01, true, false, false, false, false⟩,
  ⟨0x1F, 0x02, true, false, false, false, false⟩,
  ⟨0x1F, 0x03, true, false, false, false, false⟩,
  ⟨0x1F, 0x04, true, false, false, false, false⟩]

/-- Class 0x20 of 03 Table 5. -/
def rowsDbg : List OpRow := [
  ⟨0x20, 0x00, true, false, false, false, false⟩,
  ⟨0x20, 0x01, true, false, false, false, false⟩,
  ⟨0x20, 0x02, true, false, false, false, false⟩,
  ⟨0x20, 0x03, true, false, false, false, false⟩,
  ⟨0x20, 0x04, true, false, false, false, false⟩]

/-- 03 Table 5, the opcode map: the rows of one class. -/
def rowsOf (cls : Nat) : List OpRow :=
  match cls with
  | 0x01 => rowsIalu
  | 0x02 => rowsIalui
  | 0x03 => rowsImul
  | 0x04 => rowsBitf
  | 0x05 => rowsFalu
  | 0x06 => rowsFcvt
  | 0x07 => rowsBr
  | 0x08 => rowsCtl
  | 0x09 => rowsSys
  | 0x0A => rowsLd
  | 0x0B => rowsSt
  | 0x0C => rowsAmo
  | 0x0D => rowsMemc
  | 0x0E => rowsTag
  | 0x0F => rowsSpm
  | 0x10 => rowsValu
  | 0x11 => rowsVfpu
  | 0x12 => rowsVcvt
  | 0x13 => rowsVmem
  | 0x14 => rowsVperm
  | 0x15 => rowsVred
  | 0x16 => rowsVspec
  | 0x17 => rowsVseq
  | 0x18 => rowsTile
  | 0x19 => rowsMma
  | 0x1A => rowsQue
  | 0x1B => rowsMsg
  | 0x1C => rowsEvt
  | 0x1D => rowsTask
  | 0x1E => rowsCont
  | 0x1F => rowsRot
  | 0x20 => rowsDbg
  | _ => []

/-- The row of an operation. -/
def opRow (cls op : Nat) : Option OpRow := (rowsOf cls).find? fun r => r.op == op

/-- Whether the row exists in a length (03 R44). -/
def OpRow.hasLen (r : OpRow) (len : BitVec 2) : Bool :=
  match len.toNat with
  | 1 => r.l64 | 2 => r.l96 | 3 => r.l128 | _ => false

/-! The decoder. -/

/-- The operations of class 0x01 (03 Table 5): the instruction its fields could be. -/
def readIalu (f : Fields) : List (Option Instr) :=
  match f.op.toNat with
  | 0x00 => [(ISz.ofBits f.sz).map fun sz => .add sz f.d f.a f.b]
  | 0x01 => [(ISz.ofBits f.sz).map fun sz => .sub sz f.d f.a f.b]
  | 0x02 => [(ISz.ofBits f.sz).map fun sz => .and sz f.d f.a f.b]
  | 0x03 => [(ISz.ofBits f.sz).map fun sz => .or sz f.d f.a f.b]
  | 0x04 => [(ISz.ofBits f.sz).map fun sz => .xor sz f.d f.a f.b]
  | 0x05 => [(ISz.ofBits f.sz).map fun sz => .andn sz f.d f.a f.b]
  | 0x06 => [(ISz.ofBits f.sz).map fun sz => .shl sz f.d f.a f.b]
  | 0x07 => [(ISz.ofBits f.sz).map fun sz => .shr sz f.d f.a f.b]
  | 0x08 => [(ISz.ofBits f.sz).map fun sz => .sra sz f.d f.a f.b]
  | 0x09 => [(ISz.ofBits f.sz).map fun sz => .rol sz f.d f.a f.b]
  | 0x0A => [(ISz.ofBits f.sz).map fun sz => .ror sz f.d f.a f.b]
  | 0x0B => [(ISz.ofBits f.sz).map fun sz => .min sz f.d f.a f.b]
  | 0x0C => [(ISz.ofBits f.sz).map fun sz => .max sz f.d f.a f.b]
  | 0x0D => [(ISz.ofBits f.sz).map fun sz => .minu sz f.d f.a f.b]
  | 0x0E => [(ISz.ofBits f.sz).map fun sz => .maxu sz f.d f.a f.b]
  | 0x0F => [(ISz.ofBits f.sz).map fun sz => .slt sz f.d f.a f.b]
  | 0x10 => [(ISz.ofBits f.sz).map fun sz => .sltu sz f.d f.a f.b]
  | 0x11 => [(ISz.ofBits f.sz).map fun sz => .seq sz f.d f.a f.b]
  | 0x12 => [(ISz.ofBits f.sz).map fun sz => .sel sz f.d f.a f.b f.c]
  | _ => []

/-- The operations of class 0x02 (03 Table 5): the instruction its fields could be. -/
def readIalui (f : Fields) : List (Option Instr) :=
  match f.op.toNat with
  | 0x00 => [(ISz.ofBits f.sz).bind fun sz => (ImmA.ofFields f.len f.imm16 f.ext).map fun imm => .addi sz f.d f.a imm]
  | 0x01 => [(ISz.ofBits f.sz).bind fun sz => (ImmA.ofFields f.len f.imm16 f.ext).map fun imm => .andi sz f.d f.a imm]
  | 0x02 => [(ISz.ofBits f.sz).bind fun sz => (ImmA.ofFields f.len f.imm16 f.ext).map fun imm => .ori sz f.d f.a imm]
  | 0x03 => [(ISz.ofBits f.sz).bind fun sz => (ImmA.ofFields f.len f.imm16 f.ext).map fun imm => .xori sz f.d f.a imm]
  | 0x04 => [(ISz.ofBits f.sz).map fun sz => .shli sz f.d f.a (f.imm16.extractLsb' 0 6)]
  | 0x05 => [(ISz.ofBits f.sz).map fun sz => .shri sz f.d f.a (f.imm16.extractLsb' 0 6)]
  | 0x06 => [(ISz.ofBits f.sz).map fun sz => .srai sz f.d f.a (f.imm16.extractLsb' 0 6)]
  | 0x07 => [(ISz.ofBits f.sz).bind fun sz => (ImmL.ofFields f.len f.imm16 f.ext).map fun imm => .li sz f.d imm]
  | 0x08 => [(ImmA.ofFields f.len f.imm16 f.ext).map fun imm => .pcadd f.d imm]
  | _ => []

/-- The operations of class 0x03 (03 Table 5): the instruction its fields could be. -/
def readImul (f : Fields) : List (Option Instr) :=
  match f.op.toNat with
  | 0x00 => [(ISz.ofBits f.sz).map fun sz => .mul sz f.d f.a f.b]
  | 0x01 => [(ISz.ofBits f.sz).map fun sz => .mulh sz f.d f.a f.b]
  | 0x02 => [(ISz.ofBits f.sz).map fun sz => .mulhu sz f.d f.a f.b]
  | 0x03 => [(ISz.ofBits f.sz).map fun sz => .mulhsu sz f.d f.a f.b]
  | 0x04 => [(ISz.ofBits f.sz).map fun sz => .div sz f.d f.a f.b]
  | 0x05 => [(ISz.ofBits f.sz).map fun sz => .divu sz f.d f.a f.b]
  | 0x06 => [(ISz.ofBits f.sz).map fun sz => .rem sz f.d f.a f.b]
  | 0x07 => [(ISz.ofBits f.sz).map fun sz => .remu sz f.d f.a f.b]
  | 0x08 => [(ISz.ofBits f.sz).map fun sz => .madd sz f.d f.a f.b f.c]
  | _ => []

/-- The operations of class 0x04 (03 Table 5): the instruction its fields could be. -/
def readBitf (f : Fields) : List (Option Instr) :=
  match f.op.toNat with
  | 0x00 => [(ISz.ofBits f.sz).map fun sz => .clz sz f.d f.a]
  | 0x01 => [(ISz.ofBits f.sz).map fun sz => .ctz sz f.d f.a]
  | 0x02 => [(ISz.ofBits f.sz).map fun sz => .popc sz f.d f.a]
  | 0x03 => [(ISz.ofBits f.sz).map fun sz => .bfx sz f.d f.a (f.imm16.extractLsb' 0 6) (f.imm16.extractLsb' 6 7)]
  | 0x04 => [(ISz.ofBits f.sz).map fun sz => .bfxu sz f.d f.a (f.imm16.extractLsb' 0 6) (f.imm16.extractLsb' 6 7)]
  | 0x05 => [(ISz.ofBits f.sz).map fun sz => .bfi sz f.d f.a f.b (f.imm16.extractLsb' 0 6) (f.imm16.extractLsb' 6 7)]
  | 0x06 => [(ISz.ofBits f.sz).map fun sz => .bswap sz f.d f.a]
  | 0x07 => [(ISz.ofBits f.sz).map fun sz => .brev sz f.d f.a]
  | 0x08 => [(ISz.ofBits f.sz).map fun sz => .sext sz f.d f.a]
  | 0x09 => [(ISz.ofBits f.sz).map fun sz => .zext sz f.d f.a]
  | _ => []

/-- The operations of class 0x05 (03 Table 5): the instruction its fields could be. -/
def readFalu (f : Fields) : List (Option Instr) :=
  match f.op.toNat with
  | 0x00 => [(FFmt.ofBits f.sz).bind fun fmt => (Rm.ofBits f.rm).map fun rm => .fadd fmt rm f.d f.a f.b]
  | 0x01 => [(FFmt.ofBits f.sz).bind fun fmt => (Rm.ofBits f.rm).map fun rm => .fsub fmt rm f.d f.a f.b]
  | 0x02 => [(FFmt.ofBits f.sz).bind fun fmt => (Rm.ofBits f.rm).map fun rm => .fmul fmt rm f.d f.a f.b]
  | 0x03 => [(FFmt.ofBits f.sz).bind fun fmt => (Rm.ofBits f.rm).map fun rm => .fma fmt rm f.d f.a f.b f.c]
  | 0x04 => [(FFmt.ofBits f.sz).bind fun fmt => (Rm.ofBits f.rm).map fun rm => .fnma fmt rm f.d f.a f.b f.c]
  | 0x05 => [(FFmt.ofBits f.sz).bind fun fmt => (Rm.ofBits f.rm).map fun rm => .fdiv fmt rm f.d f.a f.b]
  | 0x06 => [(FFmt.ofBits f.sz).bind fun fmt => (Rm.ofBits f.rm).map fun rm => .fsqrt fmt rm f.d f.a]
  | 0x07 => [(FFmt.ofBits f.sz).map fun fmt => .fmin fmt f.d f.a f.b]
  | 0x08 => [(FFmt.ofBits f.sz).map fun fmt => .fmax fmt f.d f.a f.b]
  | 0x09 => [(FFmt.ofBits f.sz).map fun fmt => .fsgn fmt f.d f.a f.b (f.imm16.extractLsb' 0 2)]
  | 0x0A => [(FFmt.ofBits f.sz).map fun fmt => .fcmp fmt f.d f.a f.b (f.imm16.extractLsb' 0 2)]
  | 0x0B => [(FFmt.ofBits f.sz).map fun fmt => .fclass fmt f.d f.a]
  | _ => []

/-- The operations of class 0x06 (03 Table 5): the instruction its fields could be. -/
def readFcvt (f : Fields) : List (Option Instr) :=
  match f.op.toNat with
  | 0x00 => [(FFmt.ofBits f.sz).bind fun fmt => (Rm.ofBits f.rm).map fun rm => .fcvt fmt rm f.d f.a (f.imm16.extractLsb' 0 3),
      (FFmt.ofBits f.sz).bind fun fmt => (Rm.ofBits f.rm).map fun rm => .fcvtInt fmt rm f.d f.a (f.imm16.extractLsb' 0 3)]
  | 0x01 => [(FFmt.ofBits f.sz).map fun fmt => .fmv fmt f.d f.a]
  | _ => []

/-- The operations of class 0x07 (03 Table 5): the instruction its fields could be. -/
def readBr (f : Fields) : List (Option Instr) :=
  match f.op.toNat with
  | 0x00 => [(Cond.ofBits f.sz).bind fun cond => (ImmA.ofFields f.len f.imm16 f.ext).map fun imm => .br cond f.a f.b imm]
  | 0x01 => [(ImmA.ofFields f.len f.imm16 f.ext).map fun imm => .jmp imm]
  | 0x02 => [some (.jmpr f.a f.imm16)]
  | 0x03 => [(ImmA.ofFields f.len f.imm16 f.ext).map fun imm => .call imm]
  | 0x04 => [some (.callr f.a f.imm16)]
  | 0x05 => [some .ret]
  | _ => []

/-- The operations of class 0x08 (03 Table 5): the instruction its fields could be. -/
def readCtl (f : Fields) : List (Option Instr) :=
  match f.op.toNat with
  | 0x00 => [some (.ctlRd f.d (f.imm16.extractLsb' 0 12))]
  | 0x01 => [some (.ctlWr f.a (f.imm16.extractLsb' 0 12))]
  | 0x02 => [some (.ctlSet f.a (f.imm16.extractLsb' 0 12))]
  | 0x03 => [some (.ctlClr f.a (f.imm16.extractLsb' 0 12))]
  | 0x04 => [some .yield]
  | 0x05 => [some (.tid f.d)]
  | _ => []

/-- The operations of class 0x09 (03 Table 5): the instruction its fields could be. -/
def readSys (f : Fields) : List (Option Instr) :=
  match f.op.toNat with
  | 0x00 => [(NopLen.ofBits f.len).map fun len => .nop len]
  | 0x01 => [some (.trap f.imm16)]
  | 0x02 => [some .eret]
  | 0x03 => [some .halt]
  | 0x04 => [some (.brk f.imm16)]
  | 0x05 => [some (.icinv f.a f.b),
      some (.icinvFeed f.a f.b f.c (f.imm16 == 2#16))]
  | _ => []

/-- The operations of class 0x0A (03 Table 5): the instruction its fields could be. -/
def readLd (f : Fields) : List (Option Instr) :=
  match f.op.toNat with
  | 0x00 => [(ISz.ofBits f.sz).bind fun sz => (MemOrd.ofBits f.q f.ord).bind fun ord => (Scope.ofBits f.scope).bind fun scope => (ImmA.ofFields f.len f.imm16 f.ext).map fun imm => .ld sz ord scope f.rm f.d f.a imm]
  | 0x01 => [(ISz.ofBits f.sz).bind fun sz => (MemOrd.ofBits f.q f.ord).bind fun ord => (Scope.ofBits f.scope).bind fun scope => (ImmA.ofFields f.len f.imm16 f.ext).map fun imm => .ldx sz ord scope f.rm f.d f.a f.b imm]
  | _ => []

/-- The operations of class 0x0B (03 Table 5): the instruction its fields could be. -/
def readSt (f : Fields) : List (Option Instr) :=
  match f.op.toNat with
  | 0x00 => [(ISz.ofBits f.sz).bind fun sz => (MemOrd.ofBits f.q f.ord).bind fun ord => (Scope.ofBits f.scope).bind fun scope => (ImmA.ofFields f.len f.imm16 f.ext).map fun imm => .st sz ord scope f.a f.b imm]
  | 0x01 => [(ISz.ofBits f.sz).bind fun sz => (MemOrd.ofBits f.q f.ord).bind fun ord => (Scope.ofBits f.scope).bind fun scope => (ImmA.ofFields f.len f.imm16 f.ext).map fun imm => .stx sz ord scope f.a f.b f.c imm]
  | _ => []

/-- The operations of class 0x0C (03 Table 5): the instruction its fields could be. -/
def readAmo (f : Fields) : List (Option Instr) :=
  match f.op.toNat with
  | 0x00 => [(ASz.ofBits f.sz).bind fun sz => (MemOrd.ofBits f.q f.ord).bind fun ord => (Scope.ofBits f.scope).map fun scope => .amoAdd sz ord scope f.d f.a f.b]
  | 0x01 => [(ASz.ofBits f.sz).bind fun sz => (MemOrd.ofBits f.q f.ord).bind fun ord => (Scope.ofBits f.scope).map fun scope => .amoAnd sz ord scope f.d f.a f.b]
  | 0x02 => [(ASz.ofBits f.sz).bind fun sz => (MemOrd.ofBits f.q f.ord).bind fun ord => (Scope.ofBits f.scope).map fun scope => .amoOr sz ord scope f.d f.a f.b]
  | 0x03 => [(ASz.ofBits f.sz).bind fun sz => (MemOrd.ofBits f.q f.ord).bind fun ord => (Scope.ofBits f.scope).map fun scope => .amoXor sz ord scope f.d f.a f.b]
  | 0x04 => [(ASz.ofBits f.sz).bind fun sz => (MemOrd.ofBits f.q f.ord).bind fun ord => (Scope.ofBits f.scope).map fun scope => .amoMin sz ord scope f.d f.a f.b]
  | 0x05 => [(ASz.ofBits f.sz).bind fun sz => (MemOrd.ofBits f.q f.ord).bind fun ord => (Scope.ofBits f.scope).map fun scope => .amoMax sz ord scope f.d f.a f.b]
  | 0x06 => [(ASz.ofBits f.sz).bind fun sz => (MemOrd.ofBits f.q f.ord).bind fun ord => (Scope.ofBits f.scope).map fun scope => .amoMinu sz ord scope f.d f.a f.b]
  | 0x07 => [(ASz.ofBits f.sz).bind fun sz => (MemOrd.ofBits f.q f.ord).bind fun ord => (Scope.ofBits f.scope).map fun scope => .amoMaxu sz ord scope f.d f.a f.b]
  | 0x08 => [(ASz.ofBits f.sz).bind fun sz => (MemOrd.ofBits f.q f.ord).bind fun ord => (Scope.ofBits f.scope).map fun scope => .amoSwap sz ord scope f.d f.a f.b]
  | 0x09 => [(ASz.ofBits f.sz).bind fun sz => (MemOrd.ofBits f.q f.ord).bind fun ord => (Scope.ofBits f.scope).map fun scope => .amoCas sz ord scope f.d f.a f.b f.c]
  | _ => []

/-- The operations of class 0x0D (03 Table 5): the instruction its fields could be. -/
def readMemc (f : Fields) : List (Option Instr) :=
  match f.op.toNat with
  | 0x00 => [(MemOrd.ofBits f.q f.ord).bind fun ord => (Scope.ofBits f.scope).map fun scope => .fence ord scope]
  | 0x01 => [some (.inval f.a f.b)]
  | 0x02 => [some (.wb f.a f.b)]
  | 0x03 => [some (.pf f.a f.imm16)]
  | 0x04 => [(Scope.ofBits f.scope).map fun scope => .tlbInv scope f.a f.b]
  | _ => []

/-- The operations of class 0x0E (03 Table 5): the instruction its fields could be. -/
def readTag (f : Fields) : List (Option Instr) :=
  match f.op.toNat with
  | 0x00 => [some (.tagLd f.d f.a f.imm16)]
  | 0x01 => [some (.tagSt f.a f.b f.imm16)]
  | 0x02 => [some (.tagLdw f.d f.a f.c f.imm16)]
  | 0x03 => [some (.tagFill f.a f.b (f.imm16.extractLsb' 0 4))]
  | 0x04 => [some (.actWr f.a f.b),
      some (.actWrImg f.a)]
  | 0x05 => [some (.actRd f.d f.a),
      some (.actRdSh f.d f.a)]
  | 0x06 => [some .actSwap]
  | _ => []

/-- The operations of class 0x0F (03 Table 5): the instruction its fields could be. -/
def readSpm (f : Fields) : List (Option Instr) :=
  match f.op.toNat with
  | 0x00 => [(ImmA.ofFields f.len f.imm16 f.ext).map fun imm => .spSet f.d f.a imm]
  | 0x01 => [some (.spRd f.d f.a)]
  | _ => []

/-- The operations of class 0x10 (03 Table 5): the instruction its fields could be. -/
def readValu (f : Fields) : List (Option Instr) :=
  match f.op.toNat with
  | 0x00 => [(ISz.ofBits f.sz).map fun sz => .vadd sz (f.q == 1#1) f.d f.a f.b]
  | 0x01 => [(ISz.ofBits f.sz).map fun sz => .vsub sz (f.q == 1#1) f.d f.a f.b]
  | 0x02 => [(ISz.ofBits f.sz).map fun sz => .vmul sz (f.q == 1#1) f.d f.a f.b]
  | 0x03 => [(ISz.ofBits f.sz).map fun sz => .vmulh sz (f.q == 1#1) f.d f.a f.b]
  | 0x04 => [(ISz.ofBits f.sz).map fun sz => .vmin sz (f.q == 1#1) f.d f.a f.b]
  | 0x05 => [(ISz.ofBits f.sz).map fun sz => .vmax sz (f.q == 1#1) f.d f.a f.b]
  | 0x06 => [(ISz.ofBits f.sz).map fun sz => .vabs sz (f.q == 1#1) f.d f.a]
  | 0x07 => [(ISz.ofBits f.sz).map fun sz => .vneg sz (f.q == 1#1) f.d f.a]
  | 0x08 => [(ISz.ofBits f.sz).map fun sz => .vand sz (f.q == 1#1) f.d f.a f.b]
  | 0x09 => [(ISz.ofBits f.sz).map fun sz => .vor sz (f.q == 1#1) f.d f.a f.b]
  | 0x0A => [(ISz.ofBits f.sz).map fun sz => .vxor sz (f.q == 1#1) f.d f.a f.b]
  | 0x0B => [(ISz.ofBits f.sz).map fun sz => .vshl sz (f.q == 1#1) f.d f.a f.b]
  | 0x0C => [(ISz.ofBits f.sz).map fun sz => .vshr sz (f.q == 1#1) f.d f.a f.b]
  | 0x0D => [(ISz.ofBits f.sz).map fun sz => .vsra sz (f.q == 1#1) f.d f.a f.b]
  | 0x0E => [(ISz.ofBits f.sz).map fun sz => .vsadd sz (f.q == 1#1) f.d f.a f.b]
  | 0x0F => [(ISz.ofBits f.sz).map fun sz => .vssub sz (f.q == 1#1) f.d f.a f.b]
  | _ => []

/-- The operations of class 0x11 (03 Table 5): the instruction its fields could be. -/
def readVfpu (f : Fields) : List (Option Instr) :=
  match f.op.toNat with
  | 0x00 => [(FFmt.ofBits f.sz).bind fun fmt => (Rm.ofBits f.rm).map fun rm => .vfadd fmt (f.q == 1#1) rm f.d f.a f.b]
  | 0x01 => [(FFmt.ofBits f.sz).bind fun fmt => (Rm.ofBits f.rm).map fun rm => .vfsub fmt (f.q == 1#1) rm f.d f.a f.b]
  | 0x02 => [(FFmt.ofBits f.sz).bind fun fmt => (Rm.ofBits f.rm).map fun rm => .vfmul fmt (f.q == 1#1) rm f.d f.a f.b]
  | 0x03 => [(FFmt.ofBits f.sz).bind fun fmt => (Rm.ofBits f.rm).map fun rm => .vfma fmt (f.q == 1#1) rm f.d f.a f.b f.c]
  | 0x04 => [(FFmt.ofBits f.sz).bind fun fmt => (Rm.ofBits f.rm).map fun rm => .vfnma fmt (f.q == 1#1) rm f.d f.a f.b f.c]
  | 0x05 => [(FFmt.ofBits f.sz).map fun fmt => .vfmin fmt (f.q == 1#1) f.d f.a f.b]
  | 0x06 => [(FFmt.ofBits f.sz).map fun fmt => .vfmax fmt (f.q == 1#1) f.d f.a f.b]
  | 0x07 => [(FFmt.ofBits f.sz).bind fun fmt => (Rm.ofBits f.rm).map fun rm => .vfdiv fmt (f.q == 1#1) rm f.d f.a f.b]
  | 0x08 => [(FFmt.ofBits f.sz).map fun fmt => .vfcmp fmt (f.q == 1#1) f.d f.a f.b (f.imm16.extractLsb' 0 2)]
  | _ => []

/-- The operations of class 0x12 (03 Table 5): the instruction its fields could be. -/
def readVcvt (f : Fields) : List (Option Instr) :=
  match f.op.toNat with
  | 0x00 => [(VM.ofBits f.q f.sz).bind fun fmt => (Rm.ofBits f.rm).map fun rm => .vcvt fmt rm f.d f.a (f.imm16.extractLsb' 0 5)]
  | 0x01 => [(MFmt.ofBits f.sz).bind fun fmt => (Rm.ofBits f.rm).map fun rm => .vcvtBlk fmt rm f.d f.a (f.imm16.extractLsb' 0 5) (f.imm16.extractLsb' 8 4) (f.imm16.extractLsb' 12 1 == 1#1)]
  | 0x02 => [(VFmt.ofBits f.sz).map fun fmt => .vpack fmt f.d f.a f.b (f.imm16.extractLsb' 0 1 == 1#1)]
  | 0x03 => [(VFmt.ofBits f.sz).map fun fmt => .vunpack fmt f.d f.a (f.imm16.extractLsb' 0 1 == 1#1) (f.imm16.extractLsb' 1 1 == 1#1)]
  | _ => []

/-- The operations of class 0x13 (03 Table 5): the instruction its fields could be. -/
def readVmem (f : Fields) : List (Option Instr) :=
  match f.op.toNat with
  | 0x00 => [(VM.ofBits f.q f.sz).bind fun fmt => (Scope.ofBits f.scope).bind fun scope => (VBase.ofFields f.len f.a f.imm16 f.ext).map fun base => .vld fmt (MemOrd.ofBits2 f.ord) scope f.rm f.d base f.c]
  | 0x01 => [(VM.ofBits f.q f.sz).bind fun fmt => (Scope.ofBits f.scope).bind fun scope => (VBase.ofFields f.len f.a f.imm16 f.ext).map fun base => .vst fmt (MemOrd.ofBits2 f.ord) scope f.b base f.c]
  | 0x02 => [(VM.ofBits f.q f.sz).bind fun fmt => (Scope.ofBits f.scope).map fun scope => .vldg fmt (MemOrd.ofBits2 f.ord) scope f.rm f.d f.a f.b (f.len == 2#2)]
  | 0x03 => [(VM.ofBits f.q f.sz).bind fun fmt => (Scope.ofBits f.scope).map fun scope => .vsts fmt (MemOrd.ofBits2 f.ord) scope f.a f.b f.c (f.len == 2#2)]
  | _ => []

/-- The operations of class 0x14 (03 Table 5): the instruction its fields could be. -/
def readVperm (f : Fields) : List (Option Instr) :=
  match f.op.toNat with
  | 0x00 => [(ISz.ofBits f.sz).map fun sz => .vperm sz f.d f.a f.b f.c]
  | 0x01 => [(ISz.ofBits f.sz).map fun sz => .vsel sz f.d f.a f.b f.c]
  | 0x02 => [(ISz.ofBits f.sz).map fun sz => .vmerge sz f.d f.a f.b (f.imm16.extractLsb' 0 1 == 1#1)]
  | 0x03 => [(ISz.ofBits f.sz).map fun sz => .vslide sz f.d f.a f.b (f.imm16.extractLsb' 0 6)]
  | 0x04 => [(ISz.ofBits f.sz).map fun sz => .vbcast sz f.d f.a (f.imm16.extractLsb' 8 4)]
  | 0x05 => [(ISz.ofBits f.sz).map fun sz => .vext sz f.d f.a (f.imm16.extractLsb' 0 5)]
  | 0x06 => [(ISz.ofBits f.sz).map fun sz => .vins sz f.d f.a (f.imm16.extractLsb' 0 5) (f.imm16.extractLsb' 8 4)]
  | _ => []

/-- The operations of class 0x15 (03 Table 5): the instruction its fields could be. -/
def readVred (f : Fields) : List (Option Instr) :=
  match f.op.toNat with
  | 0x00 => [(VFmt.ofBits f.sz).bind fun fmt => (Rm.ofBits f.rm).map fun rm => .vredAdd fmt rm f.d f.a]
  | 0x01 => [(VFmt.ofBits f.sz).map fun fmt => .vredMax fmt f.d f.a]
  | 0x02 => [(VFmt.ofBits f.sz).map fun fmt => .vredMin fmt f.d f.a]
  | _ => []

/-- The operations of class 0x16 (03 Table 5): the instruction its fields could be. -/
def readVspec (f : Fields) : List (Option Instr) :=
  match f.op.toNat with
  | 0x00 => [(Rm.ofBits f.rm).map fun rm => .vexp2V rm f.d f.a]
  | 0x01 => [(Rm.ofBits f.rm).map fun rm => .vrcpV rm f.d f.a]
  | 0x02 => [(Rm.ofBits f.rm).map fun rm => .vrsqrtV rm f.d f.a]
  | 0x03 => [(Rm.ofBits f.rm).map fun rm => .vlog2V rm f.d f.a]
  | 0x04 => [(CrSz.ofBits f.sz).map fun sz => .crandV sz f.d f.a f.b]
  | 0x08 => [(Rm.ofBits f.rm).map fun rm => .vexp2S rm f.d f.a]
  | 0x09 => [(Rm.ofBits f.rm).map fun rm => .vrcpS rm f.d f.a]
  | 0x0A => [(Rm.ofBits f.rm).map fun rm => .vrsqrtS rm f.d f.a]
  | 0x0B => [(Rm.ofBits f.rm).map fun rm => .vlog2S rm f.d f.a]
  | 0x0C => [some (.crandS f.d f.a f.b)]
  | _ => []

/-- The operations of class 0x17 (03 Table 5): the instruction its fields could be. -/
def readVseq (f : Fields) : List (Option Instr) :=
  match f.op.toNat with
  | 0x00 => [some (.vloop f.a f.imm16)]
  | _ => []

/-- The operations of class 0x18 (03 Table 5): the instruction its fields could be. -/
def readTile (f : Fields) : List (Option Instr) :=
  match f.op.toNat with
  | 0x00 => [(MFmt.ofBits f.sz).bind fun fmt => (ImmA.ofFields f.len f.imm16 f.ext).map fun imm => .tld fmt f.rm f.d f.a f.b f.c imm]
  | 0x01 => [(MFmt.ofBits f.sz).bind fun fmt => (ImmA.ofFields f.len f.imm16 f.ext).map fun imm => .tst fmt f.d f.a f.b f.c imm]
  | 0x02 => [(MFmt.ofBits f.sz).map fun fmt => .tzero fmt f.d]
  | 0x03 => [(MFmt.ofBits f.sz).bind fun fmt => (Rm.ofBits f.rm).map fun rm => .tcvt fmt rm f.d f.a (f.imm16.extractLsb' 8 4) (f.imm16.extractLsb' 12 1 == 1#1)]
  | 0x04 => [(MFmt.ofBits f.sz).map fun fmt => .tmov fmt f.d f.a]
  | _ => []

/-- The operations of class 0x19 (03 Table 5): the instruction its fields could be. -/
def readMma (f : Fields) : List (Option Instr) :=
  match f.op.toNat with
  | 0x00 => [(MFmt.ofBits f.sz).map fun fmt => .mma fmt f.d f.a f.b (f.imm16.extractLsb' 0 7)]
  | 0x01 => [(MFmt.ofBits f.sz).map fun fmt => .mmaCp fmt f.d f.a f.b (f.imm16.extractLsb' 0 7)]
  | 0x02 => [some (.cpLd (f.imm16.extractLsb' 0 2) (f.imm16.extractLsb' 2 2) f.ext)]
  | 0x03 => [some (.accRd f.d f.a (f.imm16.extractLsb' 0 6))]
  | 0x04 => [some (.accWr f.d f.a (f.imm16.extractLsb' 0 6))]
  | 0x05 => [some (.accZero f.d)]
  | 0x06 => [some (.gang f.d)]
  | _ => []

/-- The operations of class 0x1A (03 Table 5): the instruction its fields could be. -/
def readQue (f : Fields) : List (Option Instr) :=
  match f.op.toNat with
  | 0x00 => [some (.qCnt f.d f.a)]
  | 0x01 => [some (.qPeek f.d f.a),
      some (.qPeekPop f.d f.a)]
  | 0x02 => [some (.qFlush f.a)]
  | _ => []

/-- The operations of class 0x1B (03 Table 5): the instruction its fields could be. -/
def readMsg (f : Fields) : List (Option Instr) :=
  match f.op.toNat with
  | 0x00 => [some (.hdrLay f.a)]
  | 0x01 => [some (.hdrPack f.d f.a (f.imm16.extractLsb' 0 4))]
  | 0x02 => [some (.hdrUnpack (f.q == 1#1) f.d f.a (f.imm16.extractLsb' 0 4))]
  | 0x03 => [some (.sendQueue f.d f.b),
      (Scope.ofBits f.scope).map fun scope => .sendMailbox (MemOrd.ofBits2 f.ord) scope f.a f.b (f.imm16.extractLsb' 2 5),
      some (.sendEngine f.a f.b)]
  | 0x04 => [(Scope.ofBits f.scope).map fun scope => .mbxTake (MemOrd.ofBits2 f.ord) scope f.d f.a (f.imm16.extractLsb' 0 4)]
  | 0x05 => [some (.mbxCnt f.d),
      some (.mbxCntCfg f.d f.a (f.imm16.extractLsb' 0 2))]
  | _ => []

/-- The operations of class 0x1C (03 Table 5): the instruction its fields could be. -/
def readEvt (f : Fields) : List (Option Instr) :=
  match f.op.toNat with
  | 0x00 => [(Scope.ofBits f.scope).map fun scope => .evSet (MemOrd.ofBits2 f.ord) scope f.a (f.imm16.extractLsb' 0 2) (f.imm16.extractLsb' 8 1 == 1#1) f.b]
  | 0x01 => [(Scope.ofBits f.scope).map fun scope => .evClr (MemOrd.ofBits2 f.ord) scope f.a (f.imm16.extractLsb' 0 2) (f.imm16.extractLsb' 8 1 == 1#1) f.b]
  | 0x02 => [(Scope.ofBits f.scope).map fun scope => .evWait (MemOrd.ofBits2 f.ord) scope f.d f.a (f.imm16.extractLsb' 0 2) (f.imm16.extractLsb' 8 1 == 1#1) f.b]
  | 0x03 => [(Scope.ofBits f.scope).map fun scope => .evTest (MemOrd.ofBits2 f.ord) scope f.d f.a (f.imm16.extractLsb' 0 2) (f.imm16.extractLsb' 8 1 == 1#1) f.b]
  | 0x08 => [(Scope.ofBits f.scope).map fun scope => .barInit (MemOrd.ofBits2 f.ord) scope f.a f.b]
  | 0x09 => [(Scope.ofBits f.scope).map fun scope => .barArrive (MemOrd.ofBits2 f.ord) scope f.d f.a]
  | 0x0A => [some (.barExpect f.a f.b)]
  | 0x0B => [(Scope.ofBits f.scope).map fun scope => .barWait (MemOrd.ofBits2 f.ord) scope f.d f.a f.b]
  | _ => []

/-- The operations of class 0x1D (03 Table 5): the instruction its fields could be. -/
def readTask (f : Fields) : List (Option Instr) :=
  match f.op.toNat with
  | 0x00 => [some (.taskPost f.d f.a)]
  | 0x01 => [some .taskExit]
  | 0x02 => [some .taskYield]
  | 0x03 => [some (.taskWid f.d (f.imm16.extractLsb' 0 3))]
  | 0x04 => [some (.taskSelf f.d (f.imm16.extractLsb' 0 2))]
  | _ => []

/-- The operations of class 0x1E (03 Table 5): the instruction its fields could be. -/
def readCont (f : Fields) : List (Option Instr) :=
  match f.op.toNat with
  | 0x00 => [some (.coSuspend f.d f.a f.b)]
  | 0x01 => [some (.coResume f.d f.a f.b)]
  | 0x02 => [some (.coSeal f.a)]
  | 0x03 => [some (.coDiscard f.a)]
  | 0x04 => [some (.coStat f.d f.a (f.imm16.extractLsb' 0 1 == 1#1))]
  | _ => []

/-- The operations of class 0x1F (03 Table 5): the instruction its fields could be. -/
def readRot (f : Fields) : List (Option Instr) :=
  match f.op.toNat with
  | 0x00 => [some (.rotOpen f.d f.a f.b f.c)]
  | 0x01 => [some (.rotPut f.a f.b)]
  | 0x02 => [some (.rotTake f.d f.a f.c)]
  | 0x03 => [some (.rotDone f.a f.b)]
  | 0x04 => [some (.rotClose f.a)]
  | _ => []

/-- The operations of class 0x20 (03 Table 5): the instruction its fields could be. -/
def readDbg (f : Fields) : List (Option Instr) :=
  match f.op.toNat with
  | 0x00 => [some (.ctrStart f.a (f.imm16.extractLsb' 0 3))]
  | 0x01 => [some (.ctrStop f.d f.a (f.imm16.extractLsb' 0 3))]
  | 0x02 => [some (.ctrRd f.d (f.imm16.extractLsb' 0 3) (f.imm16.extractLsb' 3 2))]
  | 0x03 => [some (.sample f.a)]
  | 0x04 => [some (.mark f.a f.imm16)]
  | _ => []

/-- The candidates of a class (03 Table 5). -/
def readClass (f : Fields) : List (Option Instr) :=
  match f.cls.toNat with
  | 0x01 => readIalu f
  | 0x02 => readIalui f
  | 0x03 => readImul f
  | 0x04 => readBitf f
  | 0x05 => readFalu f
  | 0x06 => readFcvt f
  | 0x07 => readBr f
  | 0x08 => readCtl f
  | 0x09 => readSys f
  | 0x0A => readLd f
  | 0x0B => readSt f
  | 0x0C => readAmo f
  | 0x0D => readMemc f
  | 0x0E => readTag f
  | 0x0F => readSpm f
  | 0x10 => readValu f
  | 0x11 => readVfpu f
  | 0x12 => readVcvt f
  | 0x13 => readVmem f
  | 0x14 => readVperm f
  | 0x15 => readVred f
  | 0x16 => readVspec f
  | 0x17 => readVseq f
  | 0x18 => readTile f
  | 0x19 => readMma f
  | 0x1A => readQue f
  | 0x1B => readMsg f
  | 0x1C => readEvt f
  | 0x1D => readTask f
  | 0x1E => readCont f
  | 0x1F => readRot f
  | 0x20 => readDbg f
  | _ => []

/-- Does the instruction encode as these fields, its ignored ones aside (03 R39)? Only `nop` ignores any. -/
def sameFields (i : Instr) (f : Fields) : Bool :=
  match i, encodeFields i with
  | .nop _, some g => g == { f with imm16 := 0#16, ext := 0#64 }
  | _, some g => g == f
  | _, none => false

/-- The decode causes that the bits decide (03 Table 6, orders 1 and 3 to 5). -/
inductive DecodeCause where
  | illLen | illClass | illOp | illField
  deriving DecidableEq, Repr

/-- The first candidate that is well formed and has these fields. -/
def pick (f : Fields) : List (Option Instr) → Option Instr
  | [] => none
  | none :: rest => pick f rest
  | some i :: rest => if i.wf && sameFields i f then some i else pick f rest

/-- Order 3 and 4 of 03 Table 6: the class and the operation, on a compute thread or on a feed core (R44, R45). -/
def checkOp (feed : Bool) (f : Fields) : Option DecodeCause :=
  let rows := rowsOf f.cls.toNat
  if rows.isEmpty || (feed && !rows.any (·.feed)) then some .illClass
  else match opRow f.cls.toNat f.op.toNat with
    | none => some .illOp
    | some r => if !r.hasLen f.len || (feed && !r.feed) then some .illOp else none

/-- The instruction of a set of fields, or the first cause that holds. -/
def decodeFields (feed : Bool) (f : Fields) : Except DecodeCause Instr :=
  if f.len == 0#2 then .error .illLen
  else match checkOp feed f with
    | some c => .error c
    | none => match pick f (readClass f) with
      | some i => .ok i
      | none => .error .illField

/-- The instruction at the start of 128 bits of code; bits above its length are no part of it. -/
def decodeBits (feed : Bool) (w : BitVec 128) : Except DecodeCause Instr :=
  let n := 8 * lenBytes (w.extractLsb' 0 2)
  decodeFields feed (Fields.ofWord (BitVec.ofNat 128 (w.toNat % 2 ^ n)))

/-- Four instruction words from a list of bytes, little-endian (00 R2, 03 R34); missing bytes read as zero. -/
def bitsOfBytes (bs : List Byte) : BitVec 128 :=
  BitVec.ofNat 128 (bs.take 16 |>.foldr (fun b acc => b.toNat + 256 * acc) 0)

/-- The instruction at the head of a list of bytes, and what follows it. -/
def decode (feed : Bool) (bs : List Byte) : Except DecodeCause (Instr × List Byte) :=
  let w := bitsOfBytes bs
  match decodeBits feed w with
  | .ok i => .ok (i, bs.drop (lenBytes (w.extractLsb' 0 2)))
  | .error c => .error c

/-- The little-endian bytes of the low `n` bytes of a number. -/
def bytesOfNat (n v : Nat) : List Byte := (List.range n).map fun k => BitVec.ofNat 8 (v / 256 ^ k)

/-- The instruction whose bits are `w` (bit 0 the least significant bit of the first word), read by the decoder from the
bytes the machine would fetch; the bits at and above `nbits` are zero. -/
def decodeTableWord (nbits w : Nat) : Option Instr :=
  match decode false (bytesOfNat 16 (w % 2 ^ nbits)) with
  | .ok (i, _) => some i
  | .error _ => none

end Sys2Proof
end

