-- ==== Sys2Proof/Machine/State.lean ====
section
/-! DEFINITION. The state of the whole module: every piece of state the spec names (INVENTORY.md, '## State'), and the
model's own schedule (`agenda`, `due`, `cur`) and free-value counter. State is plain data. Sparse tables are lists of
key and value with strictly rising keys. -/

namespace Sys2Proof.Machine

/-- A sparse table: keys strictly rising. -/
abbrev Map (α : Type) := List (Nat × α)
/-- Byte memory: addresses strictly rising, no entry equal to the byte an unlisted address reads as. -/
abbrev Memory := List Host.Cell

/-! ## Traps -/

/-- The causes of 14 Table 1. -/
inductive Cause where
  | illLen | illClass | illOp | illField | straddle | priv | format | align | xlateNone | xlatePerm | cow | tag
  | storeRefused | ownerLost | deadRead | fp | coNotLive | coSeal | coVersion | queue | rot | brk | saveLost | ecc
  | engine | sysTrap
  deriving DecidableEq, Repr

/-- A cause with its `TVAL`, and its `TEPC` where it is not the instruction's own address (14 R253, R268). -/
structure Trap where
  cause : Cause
  tval  : W64
  tepc  : Option W64
  deriving DecidableEq, Repr

/-- A pending asynchronous cause (14 R254): its source feed core and PC (R262), the journal entry of a STORE_REFUSED. -/
structure Async where
  cause : Cause
  tval  : W64
  srce  : Nat
  fpc   : Nat
  jidx  : Option Nat
  deriving DecidableEq, Repr

/-! ## Threads -/

/-- Which agent of a core issues: a thread set, or a feed core (02 R29); `departed` owns the stores that are still outstanding of a group that
has retired (02 R26). -/
inductive Issuer where
  | thread (t : Nat) | loader | storer | departed
  deriving DecidableEq, Repr

/-- An issuing agent of the module. -/
structure Who where
  core   : Nat
  issuer : Issuer
  deriving DecidableEq, Repr

/-- A vector register: data, format tag, scale sidecar, liveness (08 R134, R135). -/
structure VReg where
  data : W256
  tag  : BitVec 4
  side : W64
  live : Bool
  deriving DecidableEq, Repr

/-- A thread counter (25 R409); the stop tick is held with it and is absent before its first stop (R413). -/
structure Counter where
  value   : W64
  start   : W64
  stop    : Option W64
  control : W64
  deriving DecidableEq, Repr

/-- A thread's standing: its thread set is idle, it runs, it has ended (02 R26), firmware holds it (14 R261), a debugger
halts it (25 R423). -/
inductive Status where
  | idle | running | ended | held | halted
  deriving DecidableEq, Repr

/-- What a thread that is not ready waits for (07 R118), in the classes of 25 Table 7. -/
inductive Wait where
  | none | memory | tag | sync | latch | journal | start | suspending
  deriving DecidableEq, Repr

/-- The answer of another agent to a request of an instruction in progress: values by the numbers of the parts asked for. -/
inductive Reply where
  | ok (vals : Map W64) | trap (cause : Cause) (tval : W64)
  deriving DecidableEq, Repr

/-- Where a part's word is: in the core's scratchpad, in a far one, or in physical memory through a tracked page or not. -/
inductive Tgt where
  | near (off : Nat) | far (core off : Nat) | mem (pa : Nat) (trk : Bool)
  deriving DecidableEq, Repr

/-- A part of an access, in one aligned word: its number, address, width and data, the run it belongs to, and its place in the
run. -/
structure Part where
  k    : Nat
  run  : Nat
  at_  : Nat
  ea   : Nat
  n    : Nat
  data : W64
  tgt  : Tgt
  deriving DecidableEq, Repr

/-- An instruction that has issued and not retired (07 R120): the instruction itself, the number of the step in which its thread had
issued before it, the request number its answers carry, the parts that it was translated to when it issued, those it has asked for and
not been answered, the values bound so far, a fault that an answer brought, how far it has come, and its global loads that have missed the
cache portion and those that have hit it (25 R410). -/
structure Prog where
  inst  : Option Instr
  before : Nat
  seq   : Nat
  parts : List Part
  asked : List Nat
  got   : Map W64
  reply : Option Reply
  stage : Nat
  note  : Nat
  misses : Nat
  hits  : Nat
  deriving DecidableEq, Repr

/-- A thread, or the scalar part of a feed core (02 R15, R29; 07 R108-R111; 08 R134-R139; 14 R257, R258). `issued` is the number of the
step in which it issued last (07 R118). -/
structure Thread where
  pc      : W64
  x       : Vector W64 32
  xlive   : BitVec 32
  v       : Vector VReg 32
  p       : Vector (BitVec 21) 8
  pstride : Vector (BitVec 22) 8
  flags   : W64
  rmode   : W64
  amax    : W64
  srkey   : W64
  srctr   : W64
  cvmask  : W64
  vcvmask : W64
  wid     : W64
  widlay  : W64
  tcause  : W64
  tval    : W64
  tepc    : W64
  kernel  : Bool
  status  : Status
  wait    : Wait
  issued  : Nat
  prog    : Prog
  pend    : List Async
  ctrs    : Vector Counter 8
  loopTgt : Option W64
  retired : Nat
  stepsLeft : Option Nat
  deriving DecidableEq, Repr

/-! ## Groups and cores -/

/-- A tile register: data bytes, sidecar bytes, and TSHAPE (16 R275, R276). -/
structure Tile where
  data  : Memory
  side  : Memory
  shape : W64
  deriving DecidableEq, Repr

/-- A message held in a mailbox ring (18 R341): its slot, word count and sender. -/
structure RingMsg where
  slot   : Nat
  nw     : Nat
  sender : Nat
  deriving DecidableEq, Repr

/-- A deposit on its way into a ring (18 R338, R341). -/
structure Deposit where
  who   : Who
  seq   : Nat
  core  : Nat
  ring  : Nat
  words : List W64
  dom   : Nat
  held  : Bool
  deriving DecidableEq, Repr

/-- A mailbox ring (18 R340): descriptor, head, tail, messages oldest first, and the deposits that wait for room. -/
structure MRing where
  desc    : W64
  head    : Nat
  tail    : Nat
  msgs    : List RingMsg
  waiting : List Deposit
  deriving DecidableEq, Repr

/-- A loader or storer core (02 R29, R30): its registers and PC, instruction store, run and fault bits. -/
structure Feed where
  th     : Thread
  istore : Memory
  run    : Bool
  flt    : Bool
  deriving DecidableEq, Repr

/-- What a write of `TWIN0` to `TWIN3`, `INVWIN0` to `INVWIN3` or `SPLIT` replaced (07 R130): accesses that issued before step `upto` complete under
these values. -/
structure Past where
  upto   : Nat
  twin   : Vector W64 4
  invwin : Vector W64 4
  spm    : Nat
  deriving DecidableEq, Repr

/-- The resident group of a core (02 R15); `halting` and `halted`: a debugger halts it whole, and has (25 R423). -/
structure Group where
  gang    : Nat
  gidx    : Nat
  dom     : Nat
  prio    : Nat
  threads : List Thread
  loader  : Feed
  storer  : Feed
  nt      : Nat
  na      : Nat
  tiles   : Vector Tile 8
  accs    : Vector (Map (BitVec 32)) 4
  cpValid : Bool
  cpJoin  : BitVec 2
  cpNops  : BitVec 2
  ucode   : W64
  spm     : Nat
  twin    : Vector W64 4
  past    : List Past
  invwin  : Vector W64 4
  layValid : BitVec 16
  layouts : Vector W64 16
  jdone   : BitVec 32
  jlast   : BitVec 8
  jinfl   : Nat
  tvec    : W64
  queues  : Vector (List W64) 8
  rings   : Vector MRing 4
  act     : Map (BitVec 16)
  shadow  : Map (BitVec 16)
  spData  : Memory
  spTags  : Map (BitVec 4)
  spWritten : List Nat
  lastRetire : Nat
  halting : Bool
  halted  : Bool
  deriving DecidableEq, Repr

/-- A word's state in the cache portion (09 R166). -/
inductive WSt where
  | inv | v | p | g
  deriving DecidableEq, Repr

/-- A word of the cache portion: its state and data, the bytes written since its registration was sent, and whether the
merge data of 09 R167 is outstanding. -/
structure CWord where
  st    : WSt
  data  : W64
  mask  : BitVec 8
  merge : Bool
  deriving DecidableEq, Repr

/-- A line of the cache portion: the virtual line address and window bits of its fill (09 R176, 10 R202), its SRAM unit
(11 R206), its insertion distance (10 R189) and its eight words. -/
structure CLine where
  va    : W64
  win   : BitVec 4
  unitNo : Nat
  reuse : Nat
  words : Vector CWord 8
  deriving DecidableEq, Repr

/-- A line of the row's victim pool (11 R212): the core that holds it. -/
structure PoolLine where
  holder : Nat
  line   : CLine
  deriving DecidableEq, Repr

/-- Where a journal entry's store goes (10 Table 3): a registration, the home (untracked, or tracked with the cache
portion empty), a far bank, or the host window. -/
inductive JKind where
  | reg (pa : Nat) | home (pa : Nat) (tracked : Bool) | far (core off : Nat) | host (pa : Nat)
  deriving DecidableEq, Repr

/-- A journal entry's state: outstanding, refused with a reason and tag code, and then reported (10 R194, 14 R263); `late` is an entry that the
`eret` of its report has freed (14 R265) while others of its pieces are outstanding: nothing waits for them. -/
inductive JState where
  | out | refused (reason code : Nat) | reported (reason code : Nat) | late
  deriving DecidableEq, Repr

/-- A piece of a store that lies in one aligned word: its address as the store named it, its data in the low `n` bytes, where
it goes, and whether it was refused. -/
structure JPart where
  addr : W64
  data : W64
  n    : Nat
  kind : JKind
  bad  : Bool
  deriving DecidableEq, Repr

/-- A journal entry (10 R193): index, owner, the request number of the release or `seq` store that it belongs to, or 0, and the pieces
that are not acknowledged. `pub`: a release at `core` or above has covered it; `also` names the other agents of the core whose releases it
happens before (09 R178). -/
structure JEnt where
  idx   : Nat
  owner : Issuer
  rel   : Nat
  parts : List JPart
  state : JState
  pub   : Bool
  also  : List Issuer
  deriving DecidableEq, Repr

/-- The atomic functions of 10 Table 4. -/
inductive AmoOp where
  | add | and | or | xor | min | max | minu | maxu | swap | cas
  deriving DecidableEq, Repr

/-- What a scratchpad access does to the words it touches (11 R214). `reach` only finds out where the words are: an instruction, or the engine of a
job with the core that its card names, acts on them itself (20 R360). -/
inductive SpReq where
  | load | store | amo (op : AmoOp) (b c : W64) | reach (job : Option (Nat × Nat))
  deriving DecidableEq, Repr

/-- A part of a scratchpad access, in one word: its number within the instruction, its byte offset, width and data. -/
structure SpPart where
  k    : Nat
  off  : Nat
  n    : Nat
  data : W64
  deriving DecidableEq, Repr

/-- A far-window request on its way (10 R184, R192): the step in which its access issued; the journal entries of a weak store, or the
request number; the parts in the target core's scratchpad, whether a vector access makes them (11 R219). -/
structure FarMsg where
  who    : Who
  stamp  : Nat
  seq    : Nat
  jidxs  : List Nat
  target : Nat
  dom    : Nat
  vec    : Bool
  req    : SpReq
  parts  : List SpPart
  deriving DecidableEq, Repr

/-- A requester parked on a scratchpad word (11 R222): the word and the access. An engine's access has the number of the step in which it
was first made. -/
inductive Waiter where
  | own (issuer : Issuer) (word : Nat) (parts : List SpPart) | far (m : FarMsg) (word : Nat) | job (id word stamp : Nat)
  deriving DecidableEq, Repr

/-- The wait queue of a bank (11 R222-R224): parked requesters in order, requesters that found it full, and the waiters
of a re-evaluation in progress. -/
structure Bank where
  queue : List Waiter
  retry : List Waiter
  due   : List Waiter
  deriving DecidableEq, Repr

/-- A watchpoint (25 R419): kind 0 off, 1 load, 2 store, 3 both. -/
structure Watch where
  kind : Nat
  base : W64
  len  : Nat
  deriving DecidableEq, Repr

/-- The leaf of a completed walk (13 R239 to R244): the physical number of the 64 KiB page, the size of the page as a
power of two (Table 5), and the checked fields. -/
structure Leaf where
  page : Nat
  size : Nat
  trk  : Bool
  cow  : Bool
  shr  : Bool
  dtag : Nat
  x    : Bool
  w    : Bool
  r    : Bool
  u    : Bool
  deriving DecidableEq, Repr

/-- What a translation cache or walk cache may hold (13 R249): a leaf, or the table that a TABLE entry names. -/
inductive TlbVal where
  | leaf (l : Leaf) | table (base : Nat)
  deriving DecidableEq, Repr

/-- An entry of a translation cache: the domain, the level whose entry it came from (3 for every leaf), the virtual
address above that level's index. -/
structure TlbEnt where
  dom   : Nat
  level : Nat
  tag   : Nat
  val   : TlbVal
  deriving DecidableEq, Repr

/-- A compute core (01 R10): incarnation, health, resident group, fetch blocks, translation cache, cache portion, pooled
lines, journal, wait queues and watchpoints. -/
structure Core where
  inc    : BitVec 16
  fenced : Bool
  dead   : Bool
  gated  : Bool
  group  : Option Group
  fetch  : Map (List Byte)
  tlb    : List TlbEnt
  cache  : Map CLine
  pooled : Map PoolLine
  jrnl   : List JEnt
  banks  : Vector Bank 3
  watch  : Vector Watch 4
  deriving DecidableEq, Repr

/-! ## Gangs and the row latch -/

/-- A gang-issued instruction that waits at the row latch (16 R279). -/
structure LatchEnt where
  core : Nat
  t    : Nat
  inst : Instr
  deriving DecidableEq, Repr

/-- What one member of a started matrix operation will hold at retirement (16 R282). -/
structure MemberRes where
  core  : Nat
  t     : Nat
  acc   : Nat
  btile : Nat
  elems : Map (BitVec 32)
  flags : W64
  deriving DecidableEq, Repr

/-- A started matrix operation (16 R279, R282). -/
structure RunOp where
  cp      : Bool
  atile   : Nat
  members : List MemberRes
  deriving DecidableEq, Repr

/-- A pending gang as the head of a level (17 R308), or as the claimant of a save (20 R366): its launch's home hub and slot, its number, and
the gang it was before a suspension. -/
structure HeadId where
  home : Nat
  slot : Nat
  num  : Nat
  was  : Option Nat
  deriving DecidableEq, Repr

/-- A suspension of a gang (20 R359, R361): WHY, the agreed tick, GSTRIDE, the object of each group, the thread and
register of a `co.suspend`, the pending gang whose claim caused it (R366), whether the gang has stopped, and the groups whose objects are
LIVE or that have retired. -/
structure Susp where
  why     : Nat
  agreed  : Nat
  stride  : W64
  objs    : List W64
  byWho   : Option (Who × Reg)
  claim   : Option HeadId
  stopped : Bool
  saved   : List Nat
  deriving DecidableEq, Repr

/-- A resident gang (02 R17): its launch's home hub and slot, its number, cores in group order, level and domain, when it
was placed and its common start tick, its latch and running operations, its suspension, and the hub that lent it to the one that placed it
(17 R313). -/
structure Gang where
  home    : Nat
  slot    : Nat
  num     : Nat
  cores   : List Nat
  row     : Bool
  prio    : Nat
  dom     : Nat
  placed  : Nat
  start   : Nat
  answer  : W64
  latch   : List LatchEnt
  running : List RunOp
  susp    : Option Susp
  stolen  : Option Nat
  deriving DecidableEq, Repr

/-! ## Homes -/

/-- A registration-table entry (09 R165): word address (physical address / 8), owner, incarnation, REG or LOST, and
whether the home has asked the owner to send the word (R169, R171). -/
structure REnt where
  word  : Nat
  owner : Nat
  inc   : BitVec 16
  lost  : Bool
  asked : Bool
  deriving DecidableEq, Repr

/-- A registration on its way (09 R166, R167). -/
structure RegMsg where
  core   : Nat
  inc    : BitVec 16
  pa     : Nat
  narrow : Bool
  deriving DecidableEq, Repr

/-- A load request (09 R168): its request and part numbers, the address as the load named it, whether its page is untracked, whether it
acquires at `sys`, the insertion distance of the line it would fill (10 R189), and whether a V copy of the word takes its value. -/
structure LoadMsg where
  who : Who
  inc : BitVec 16
  seq : Nat
  k   : Nat
  pa  : Nat
  va  : W64
  untracked : Bool
  sys : Bool
  fill : Option Nat
  fresh : Bool
  deriving DecidableEq, Repr

/-- An AMO on its way to the home (10 R196); whether it acquires or releases at `sys`, and its page is tracked (24 R406). -/
structure AmoMsg where
  who : Who
  inc : BitVec 16
  seq : Nat
  pa  : Nat
  va  : W64
  sys : Bool
  trk : Bool
  op  : AmoOp
  n   : Nat
  b   : W64
  c   : W64
  deriving DecidableEq, Repr

/-- A store sent to the home (09 R182, 10 R192): bytes of one word, the address as the store named it, and the journal entry
or the part of the request that it answers; whether it releases at `sys` (24 R406). -/
structure StoreMsg where
  who     : Who
  seq     : Nat
  k       : Nat
  jidx    : Option Nat
  inc     : BitVec 16
  pa      : Nat
  va      : W64
  data    : W64
  n       : Nat
  tracked : Bool
  sys     : Bool
  deriving DecidableEq, Repr

/-- A request that waits at the home for an owner's data or for a table entry (09 R169, R171, R172). -/
inductive HomeReq where
  | reg (m : RegMsg) | amo (m : AmoMsg) | store (m : StoreMsg)
  deriving DecidableEq, Repr

/-- An L2 slice as home (09 R165, R171, R180): its registration table, oldest entry first, the requests that wait in
order, and its counters. -/
structure Slice where
  table  : List REnt
  queue  : List HomeReq
  forced : Nat
  stale  : Nat
  deriving DecidableEq, Repr

/-! ## Launches and hubs -/

/-- A launch in a record slot (17 R296-R301, R311, R312): its record, the address it was posted under, its domain, the
serial of its acceptance, whether it is admitted and as which record of its hub, its failure and whether the supervisor knows of it,
gangs resident and retired, the die of each co-placement set (02 R22), its completion vector, its continuation objects, and a debugger's
claim with the period of its maquettes and the tick of the next (25 R422). -/
structure Launch where
  words   : List W64
  addr    : W64
  dom     : Nat
  serial  : BitVec 32
  ready   : Bool
  turn    : Nat
  failed  : Option Cause
  told    : Bool
  out     : Nat
  retired : Nat
  sets    : Map Nat
  vec     : Nat
  co      : Option (List W64)
  claimed : Bool
  period  : Nat
  nextMq  : Nat
  deriving DecidableEq, Repr

/-- Pending gangs of one launch in a queue (17 R304): home hub and slot, first gang number and count, level, whether
they were stolen, and the objects of a gang to be resumed with its gang number and answer (0 for a group that had retired, which has none),
the suspended gang whose messages are held for it (20 R360), and how many records its hub had admitted when it joined the tail of its queue. -/
structure Pend where
  home  : Nat
  slot  : Nat
  lo    : Nat
  n     : Nat
  level : Nat
  stolen : Option Nat
  objs  : List W64
  answer : W64
  was   : Option Nat
  turn  : Nat
  deriving DecidableEq, Repr

/-- A range that a victim has lent (17 R313, R314): the thief and its incarnation, the deadline, the pending range, and
whether the ACK has come. -/
structure Loan where
  thief : Nat
  inc   : BitVec 16
  dl    : Nat
  range : Pend
  acked : Bool
  deriving DecidableEq, Repr

/-- A range that a thief has been offered and awaits CONFIRM for (17 R313). -/
structure Offer where
  victim : Nat
  range  : Pend
  deriving DecidableEq, Repr

/-- How often the head of a level has been passed over (17 R308). -/
structure Passed where
  level : Nat
  head  : HeadId
  count : Nat
  deriving DecidableEq, Repr

/-- A span reserved for a level's head (17 R308). -/
structure Reserve where
  level : Nat
  head  : HeadId
  first : Nat
  count : Nat
  deriving DecidableEq, Repr

/-- A dispatch hub (17 R301-R315); `admits` counts the records that it has admitted. -/
structure Hub where
  inc     : BitVec 16
  serial  : BitVec 32
  admits  : Nat
  slots   : Map Launch
  queue   : List Pend
  passed  : List Passed
  reserve : List Reserve
  loans   : List Loan
  offers  : List Offer
  claims  : List W64
  dropped : Nat
  dead    : Bool
  deriving DecidableEq, Repr

/-- A posted record on its way to a hub (17 R302, 24 R403): from a thread, or from a doorbell. -/
structure Post where
  who   : Option (Who × Nat)
  bell  : Option (Nat × Nat)
  die   : Nat
  dom   : Nat
  addr  : W64
  words : List W64
  objs  : List W64
  deriving DecidableEq, Repr

/-! ## Engines -/

/-- Where a job stands (18 R324, R329-R331): in an inbox; a REDUCE card held, with the number of its complete set or 0, the
bytes read of its contribution and the bytes of `WR0` written; running, with the bytes whose units are performed and the
bytes read for the next unit; a unit performed, whose step on `BAR` is still to be made (`sub`); finished with a status after so many
bytes, and whether a step on `BAR` is still to be made; or complete, with its reply on the way. -/
inductive JobSt where
  | inbox | held (set : Nat) (buf : List Byte) (wrote : Nat) | running (done : Nat) (buf : List Byte) | sub (done n : Nat) (buf : List Byte)
  | ended (status done : Nat) (bar : Bool) | reply (word : W64)
  deriving DecidableEq, Repr

/-- An engine job (18 R325-R332). -/
structure Job where
  cluster : Nat
  kind    : Nat
  origin  : Nat
  dom     : Nat
  kernel  : Bool
  who     : Who
  gang    : Nat
  wid     : W64
  card    : List W64
  st      : JobSt
  recorded : Bool
  cond    : W64
  deriving DecidableEq, Repr

/-- A cluster's event unit, flag union with the conditions on their way to it, and walk cache (17 R294, R319; 06 R105; 13 R249). -/
structure Cluster where
  ev     : Vector W64 4
  owner  : Vector (Option Nat) 4
  waits  : List (Who × Nat)
  union  : W64
  raised : BitVec 6
  fenced : Bool
  gated  : Bool
  walk   : List TlbEnt
  deriving DecidableEq, Repr

/-! ## Messages of the armature -/

/-- Which translation caches a shootdown message reaches (13 R251). -/
inductive CacheId where
  | core (c : Nat) | cluster (c : Nat) | die (d : Nat)
  deriving DecidableEq, Repr

/-- What a shootdown drops (10 R204). -/
structure TlbSel where
  all    : Bool
  alldom : Bool
  dom    : Nat
  va     : W64
  deriving DecidableEq, Repr

/-- The messages in flight. The answer of a word's home carries the word's physical address, as `home` or in `key` less 1. -/
inductive Msg where
  | loadReq (m : LoadMsg)
  | fwdLoad (m : LoadMsg) (owner : Nat)
  | loadRep (m : LoadMsg) (r : Reply)
  | registration (m : RegMsg)
  | revoke (core pa : Nat)
  | forceWb (core pa : Nat)
  | ownerData (core : Nat) (inc : BitVec 16) (pa : Nat) (v : Option W64)
  | regAck (core pa : Nat)
  | mergeData (core pa : Nat) (v : W64)
  | wbAck (core pa : Nat)
  | amo (m : AmoMsg)
  | amoRep (who : Who) (home : Option Nat) (seq : Nat) (ks : List Nat) (r : Reply)
  | ustore (m : StoreMsg)
  | far (m : FarMsg)
  | jAck (core idx key : Nat)
  | jRefuse (core idx key reason code : Nat)
  | tlbReq (cache : CacheId) (who : Who) (seq : Nat) (sel : TlbSel)
  | tlbAck (who : Who) (seq : Nat)
  | deposit (d : Deposit)
  | reply (job : Nat)
  | card (seq : Nat) (j : Job)
  | record (p : Post)
  | retired (home slot num : Nat) (lost : Option Cause)
  | stealReq (thief : Nat) (inc : BitVec 16) (victim : Nat)
  | stealOffer (victim : Nat) (vinc : BitVec 16) (thief : Nat) (inc : BitVec 16) (range : Pend) (dl : Nat)
  | stealAck (thief : Nat) (inc : BitVec 16) (victim : Nat) (range : Pend)
  | stealNak (thief : Nat) (inc : BitVec 16) (victim : Nat) (range : Pend)
  | stealConfirm (victim : Nat) (vinc : BitVec 16) (thief : Nat) (inc : BitVec 16) (range : Pend)
  | stealPlaced (thief : Nat) (inc : BitVec 16) (victim slot num : Nat)
  | stealLate (victim : Nat) (vinc : BitVec 16) (thief : Nat) (inc : BitVec 16) (range : Pend)
  | incarnation (die : Nat) (inc : BitVec 16) (dest : Nat)
  deriving DecidableEq, Repr

/-- A message held for a suspended gang's group (20 R360): the gang, the group's index, the row whose router holds it. -/
structure Held where
  gang : Nat
  gidx : Nat
  row  : Nat
  msg  : Msg
  deriving DecidableEq, Repr

/-! ## Rings and ports -/

/-- A slot of a rotation session (22 R382). -/
inductive SlotSt where
  | free | filling | full | consumed
  deriving DecidableEq, Repr

/-- A slot: its state, its step, the bytes of its block that have arrived, and whether upstream holds a grant for it. -/
structure RSlot where
  st      : SlotSt
  step    : Nat
  bytes   : Nat
  granted : Bool
  deriving DecidableEq, Repr

/-- The copy of a member's own block (22 R390): who put it, in which gang and mode, and the source's address. -/
structure Put where
  who    : Who
  gang   : Nat
  kernel : Bool
  src    : W64
  deriving DecidableEq, Repr

/-- A session at this member (22 R380-R386, R389, R391): domain and slot buffer, the physical address of each 4 KiB of it, block size in
4 KiB, session word, slots, cursor, whether the own block was put and the copy in progress, the downstream slots it holds grants for,
its neighbours' epochs, the reason of its break, the forward in progress (the slot, and the downstream slot), and the takes that wait for
the cursor's step, each with its request number. -/
structure Session where
  dom     : Nat
  base    : W64
  units   : List Nat
  bk      : Nat
  word    : BitVec 32
  slots   : List RSlot
  cursor  : Nat
  putDone : Bool
  put     : Option Put
  grants  : List Nat
  upEpoch : Option (BitVec 16)
  dnEpoch : Option (BitVec 16)
  broken  : Option Nat
  sending : Option (Nat × Nat)
  takes   : List (Who × Nat)
  deriving DecidableEq, Repr

/-- One of the twelve rings (22 R379, R381): descriptor, epoch, open session, and from each neighbour the open flit that came before the
session it belongs to, with what followed it. -/
structure RotRing where
  desc   : W64
  epoch  : BitVec 16
  sess   : Option Session
  heldUp : List Flit
  heldDn : List Flit
  deriving DecidableEq, Repr

/-- A link port (22 R376-R378): whether it is up, the sequence numbers of the next flit it sends and expects, the retry buffer, the
flits that wait for room in it, the failures in a row of the flit it expects, the flits dropped for their epoch, and what it has sent on the wire. -/
structure Port where
  up      : Bool
  fenced  : Bool
  txSeq   : BitVec 12
  rxSeq   : BitVec 12
  retry   : List Flit
  queue   : List Flit
  fails   : Nat
  dropped : Nat
  sent    : List Flit
  deriving DecidableEq, Repr

/-! ## Host port and management -/

/-- MESI states of the CXL agent's lines (24 R406). -/
inductive Mesi where
  | s | e | m
  deriving DecidableEq, Repr

/-- A line of the CXL agent. -/
structure CxlLine where
  st   : Mesi
  data : Memory
  deriving DecidableEq, Repr

/-- A line of HBM that the host caches through HDM-DB (24 R402): the line, whether the host may modify it, and what it has written. -/
structure HdmLine where
  line : Nat
  excl : Bool
  data : Option Memory
  deriving DecidableEq, Repr

/-- A launch doorbell (24 R403). -/
structure Doorbell where
  addr : W64
  vec  : Nat
  ans  : W64
  busy : Bool
  deriving DecidableEq, Repr

/-- The host port (24): training, doorbells, MSI-X table and pending bits, vectors sent, the CXL agent's lines, the plinths' snoop filters of
the HBM lines that the host caches, oldest first, and the last BAR read value. -/
structure HostPort where
  trained : Bool
  rate    : BitVec 16
  width   : BitVec 8
  cxl     : Bool
  bells   : Vector Doorbell 16
  msixTab : Map W64
  msixPba : W64
  sent    : List Nat
  lines   : Map CxlLine
  hdm     : List HdmLine
  readVal : List Byte
  deriving DecidableEq, Repr

/-- A debug event record (26 Table 9) or a failure-log record (26 Table 10): four words. -/
structure Rec4 where
  w0 : W64
  w1 : W64
  w2 : W64
  w3 : W64
  deriving DecidableEq, Repr

/-- A record of a machine-class delivery at a cluster supervisor (14 R261). -/
structure SupRec where
  core : Nat
  t    : Nat
  wid  : W64
  code : Nat
  tepc : W64
  tval : W64
  deriving DecidableEq, Repr

/-- What a replay makes again (25 R422): a store of global memory; an AMO, with its second operand; a change of an object's `STATE`, where it has the
value named; or the clearing of event bits, of quarter `pa` mod 4 of cluster `pa` / 4. -/
inductive RedoKind where
  | store | amo (op : AmoOp) (c : W64) | swap (was : Nat) | clear
  deriving DecidableEq, Repr

/-- An effect on the module that an instruction of a claimed launch's agent has had, and that a replay has again (25 R422). -/
structure Redo where
  who  : Who
  pa   : Nat
  n    : Nat
  data : W64
  kind : RedoKind
  deriving DecidableEq, Repr

/-- A point of a claimed launch's run that a reverse step can reach (25 R422): an agent had retired so many instructions, the launch's groups
and journals stood so with every arrival that came before, and the agent's instructions had had these effects on the module since its point before. -/
structure Point where
  who    : Who
  count  : Nat
  groups : Map Group
  jrnls  : Map (List JEnt)
  redo   : List Redo
  deriving DecidableEq, Repr

/-- A maquette (25 R422): the groups of a claimed launch, by core, when they were saved, with their journals, the bytes of each one's object
(20 R361), and the points that a replay from there reaches. -/
structure Maquette where
  die    : Nat
  slot   : Nat
  groups : Map Group
  jrnls  : Map (List JEnt)
  objs   : Map (List Byte)
  points : List Point
  deriving DecidableEq, Repr

/-- The management mailbox and the controller (26 R426-R436); `version` is the running firmware's, `capSeq` the `SEQ` of each capability entry
(R432), `failedStacks` the stacks that have failed in service (R435). -/
structure Mgmt where
  state    : Nat
  failStep : Nat
  failUnit : Nat
  replace  : Bool
  capptr   : Nat
  margs    : Vector W64 4
  mstat    : Nat
  busy     : Bool
  mcmd     : Nat
  version  : W32
  image    : Option Image
  staged   : Option Image
  log      : List Rec4
  debugQ   : List Rec4
  debugDrop : Nat
  capSeq   : Vector W32 8
  power    : W32
  powerCap : Nat
  threshold : Nat
  fencedStacks : List Nat
  failedStacks : List Nat
  softErrs : Map Nat
  hbmBytes : Map W64
  deriving DecidableEq, Repr

/-- A mark or sample that waits for its tick to pass (25 R416, R417): its tick, core and thread set, and its bytes. -/
structure TraceRec where
  tick  : Nat
  core  : Nat
  t     : Nat
  bytes : List Byte
  deriving DecidableEq, Repr

/-- The trace unit (25 R414-R418): its registers, the marks and samples of the present tick, and the PC of each thread set (numbered
core × 4 + thread set) in the last frieze that recorded it. -/
structure Trace where
  period : BitVec 32
  full   : Bool
  wrap   : Bool
  marks  : Bool
  en     : Bool
  base   : W64
  units  : BitVec 20
  head   : W64
  lost   : W64
  recs   : List TraceRec
  prior  : Map W64
  deriving DecidableEq, Repr

/-- A protection domain's settings (13 R247, 14 R256, 20 R357, 26 Table 4). -/
structure Domain where
  valid    : Bool
  root     : W64
  tvec     : W64
  key      : List Byte
  ceiling  : Nat
  sealRight : Bool
  areas    : List W64
  deriving DecidableEq, Repr

/-! ## The schedule -/

/-- Whose step is next: an agent's next instruction, a machine event, or what the spec lets a cache do at any time: keep
or drop a translation (13 R249), keep or drop a fetch block (03 R37), evict a line (09 R166). An event's two numbers say which
unit or message it takes; the step puts them into `selA` and `selB`. -/
inductive Turn where
  | agent (who : Who) | event (i : Instr) (a b : Nat) | keepTlb (cache : CacheId) (dom va level : Nat)
  | dropTlb (cache : CacheId) (dom va : Nat) | keepFetch (core : Nat) (va : Nat) | dropFetch (core : Nat) (va : Nat)
  | evict (core line : Nat)
  deriving DecidableEq, Repr

/-- Why the machine stops. -/
inductive Fault where
  /-- Raised by the meaning of an instruction in a state where the agent that issues it does not exist, which no step
  reaches. Safe: the machine stops. -/
  | noAgent
  deriving DecidableEq, Repr

/-- Why an instruction has no outcome. -/
inductive Refusal where
  /-- Raised by an arm of the dispatch whose instruction is not modelled. Safe: the machine stops. -/
  | notModelled (mnemonic : String)
  deriving DecidableEq, Repr

/-- The state of the module; `a1` holds on stepping A1 (27 R437). `reach` has, by job and the core that its card names, where a far access that was
held for a suspended group has come to, or none when it is refused (11 R208, 20 R360). -/
structure State where
  a1       : Bool
  cores    : Map Core
  clusters : Map Cluster
  hubs     : Map Hub
  dieWalk  : Map (List TlbEnt)
  slices   : Map Slice
  vpool    : Map (BitVec 8)
  gangs    : Map Gang
  nextGang : Nat
  net      : List Msg
  spill    : List Held
  jobs     : Map Job
  reach    : Map (Option Nat)
  nextJob  : Nat
  mem      : Memory
  hostMem  : Memory
  domains  : Vector Domain 16
  localMap : Bool
  quantum  : Nat
  watchdog : Nat
  rings    : Vector RotRing 12
  ports    : Vector Port 24
  host     : HostPort
  mgmt     : Mgmt
  trace    : Trace
  sup      : List SupRec
  maquettes : List Maquette
  redo     : List Redo
  live     : Bool
  stopped  : Bool
  stopAt   : Option Nat
  cycle    : Nat
  seqCtr   : Nat
  cur      : Who
  selA     : Nat
  selB     : Nat
  agenda   : List Turn
  due      : List Turn
  pulsed   : Bool
  stepNo   : Nat
  freeCtr  : Nat
  deriving DecidableEq, Repr

/-! ## Reset -/

/-- A bank with no requester parked. -/
def Bank.init : Bank := { queue := [], retry := [], due := [] }

/-- A core after a module reset: no group, nothing cached, an empty journal (01 R10; incarnation: notes/assumptions/3.md). -/
def Core.init : Core :=
  { inc := 0, fenced := false, dead := false, gated := false, group := none, fetch := [], tlb := [], cache := [],
    pooled := [], jrnl := [], banks := Vector.replicate 3 Bank.init,
    watch := Vector.replicate 4 { kind := 0, base := 0, len := 0 } }

/-- A cluster after a module reset: every event bit clear (17 R294), no quarter owned, FLAGUNION zero (06 R105). -/
def Cluster.init : Cluster :=
  { ev := Vector.replicate 4 0, owner := Vector.replicate 4 none, waits := [], union := 0, raised := 0, fenced := false,
    gated := false, walk := [] }

/-- A hub after a module reset: no record, nothing pending (incarnation and serial: notes/assumptions/3.md). -/
def Hub.init : Hub :=
  { inc := 0, serial := 0, admits := 0, slots := [], queue := [], passed := [], reserve := [], loans := [], offers := [], claims := [],
    dropped := 0, dead := false }

/-- A slice after a module reset: an empty registration table (09 R165). -/
def Slice.init : Slice := { table := [], queue := [], forced := 0, stale := 0 }

/-- A domain-table entry at reset: VALID 0 (13 Table 7). -/
def Domain.init : Domain :=
  { valid := false, root := 0, tvec := 0, key := [], ceiling := 23, sealRight := false, areas := [] }

/-- A ring after a module reset: its descriptor not VALID, no session (22 R379, R386; epoch: notes/assumptions/3.md). -/
def RotRing.init : RotRing := { desc := 0, epoch := 0, sess := none, heldUp := [], heldDn := [] }

/-- A port after a module reset: down until link training (22 R376, 26 Table 1). -/
def Port.init : Port :=
  { up := false, fenced := false, txSeq := 0, rxSeq := 0, retry := [], queue := [], fails := 0, dropped := 0, sent := [] }

/-- A doorbell at reset (24 Table 4). -/
def Doorbell.init : Doorbell := { addr := 0, vec := 0, ans := 0, busy := false }

/-- The host port before it trains (24 R399): doorbells zero, the MSI-X table empty, no line held. -/
def HostPort.init : HostPort :=
  { trained := false, rate := 0, width := 0, cxl := false, bells := Vector.replicate 16 Doorbell.init, msixTab := [],
    msixPba := 0, sent := [], lines := [], hdm := [], readVal := [] }

/-- The mailbox registers at their reset values (26 Table 2), the policies at their defaults (26 Table 4); no firmware
image is present (notes/assumptions/5.md). -/
def Mgmt.init : Mgmt :=
  { state := 0, failStep := 0, failUnit := 0, replace := false, capptr := 0, margs := Vector.replicate 4 0, mstat := 0,
    busy := false, mcmd := 0, version := 0, image := none, staged := none, log := [], debugQ := [], debugDrop := 0, capSeq := Vector.replicate 8 0,
    power := 0, powerCap := 6400, threshold := 1, fencedStacks := [], failedStacks := [], softErrs := [], hbmBytes := [] }

/-- The trace unit at reset (25 Table 6). -/
def Trace.init : Trace :=
  { period := 0, full := false, wrap := false, marks := false, en := false, base := 0, units := 0, head := 0, lost := 0,
    recs := [], prior := [] }

/-- The module right after a reset: bring-up not begun (26 R426), nothing resident, no message in flight, HBM with
nothing listed. -/
def State.reset : State :=
  { a1 := false, cores := [], clusters := [], hubs := [], dieWalk := [], slices := [], vpool := [], gangs := [], nextGang := 0,
    net := [], spill := [], jobs := [], reach := [], nextJob := 0, mem := [], hostMem := [],
    domains := Vector.replicate 16 Domain.init, localMap := false, quantum := 270000, watchdog := 2 ^ 30,
    rings := Vector.replicate 12 RotRing.init, ports := Vector.replicate 24 Port.init, host := HostPort.init,
    mgmt := Mgmt.init, trace := Trace.init, sup := [], maquettes := [], redo := [], live := false, stopped := false, stopAt := none,
    cycle := 0, seqCtr := 0, cur := { core := 0, issuer := .thread 0 }, selA := 0, selB := 0, agenda := [], due := [], pulsed := false, stepNo := 0, freeCtr := 0 }

end Sys2Proof.Machine
end

