-- ==== Sys2Proof/Machine/Table.lean ====
section
/-! DEFINITION. Sparse tables, bytes and bit fields: the plain operations on State's data (00 R2 for byte order). -/

namespace Sys2Proof.Machine

/-! ## Tables -/

/-- The value under a key, or the value an unlisted key has. -/
def look {α : Type} (dflt : α) (m : Map α) (k : Nat) : α :=
  match m with
  | [] => dflt
  | (j, v) :: rest => if j = k then v else look dflt rest k

/-- The entry under a key. -/
def find {α : Type} (m : Map α) (k : Nat) : Option α :=
  match m with
  | [] => none
  | (j, v) :: rest => if j = k then some v else find rest k

/-- Remove a key. -/
def del {α : Type} (m : Map α) (k : Nat) : Map α :=
  match m with
  | [] => []
  | (j, v) :: rest => if j = k then del rest k else (j, v) :: del rest k

/-- Enter a value under a key, in its place by key. -/
def set {α : Type} (m : Map α) (k : Nat) (v : α) : Map α :=
  match m with
  | [] => [(k, v)]
  | (j, w) :: rest => if j = k then (k, v) :: rest else if k < j then (k, v) :: (j, w) :: rest else (j, w) :: set rest k v

/-- Enter a value in a table whose unlisted keys read as `dflt`: that value is never listed. -/
def put {α : Type} [DecidableEq α] (dflt : α) (m : Map α) (k : Nat) (v : α) : Map α :=
  if v = dflt then del m k else set m k v

/-- Keys strictly rising, and above a bound. -/
def risingFrom {α : Type} (lo : Nat) (m : Map α) : Bool :=
  match m with
  | [] => true
  | (k, _) :: rest => lo ≤ k && risingFrom (k + 1) rest

/-- The canonical form of a table: keys strictly rising, and no entry equal to the unlisted value. -/
def canon {α : Type} [DecidableEq α] (dflt : α) (m : Map α) : Bool :=
  risingFrom 0 m && m.all fun e => decide (e.2 ≠ dflt)

/-- The canonical form of a byte memory whose unlisted bytes read as zero (notes/assumptions/2.md). -/
def Memory.wf (m : Memory) : Bool := canon (0 : Byte) m

/-- Apply a function to every value of a table. -/
def mapVals {α : Type} (f : α → α) (m : Map α) : Map α := m.map fun e => (e.1, f e.2)

/-! ## Bytes -/

/-- One byte of a memory; an unlisted byte reads as zero. -/
def byteAt (m : Memory) (a : Nat) : Byte := look 0 m a

/-- Write one byte, keeping the canonical form. -/
def setByte (m : Memory) (a : Nat) (b : Byte) : Memory := put 0 m a b

/-- The little-endian number in `n` bytes (00 R2). -/
def readN (m : Memory) (a n : Nat) : Nat :=
  match n with
  | 0 => 0
  | k + 1 => (byteAt m a).toNat + 256 * readN m (a + 1) k

/-- Write the low `n` bytes of a number, little-endian (00 R2). -/
def writeN (m : Memory) (a n v : Nat) : Memory :=
  match n with
  | 0 => m
  | k + 1 => writeN (setByte m a (BitVec.ofNat 8 v)) (a + 1) k (v / 256)

/-- A doubleword. -/
def read64 (m : Memory) (a : Nat) : W64 := BitVec.ofNat 64 (readN m a 8)

/-- Write a doubleword. -/
def write64 (m : Memory) (a : Nat) (v : W64) : Memory := writeN m a 8 v.toNat

/-- `n` bytes from an address upward. -/
def bytesAt (m : Memory) (a n : Nat) : List Byte :=
  match n with
  | 0 => []
  | k + 1 => byteAt m a :: bytesAt m (a + 1) k

/-- Write a list of bytes from an address upward. -/
def putBytes (m : Memory) (a : Nat) (bs : List Byte) : Memory :=
  match bs with
  | [] => m
  | b :: rest => putBytes (setByte m a b) (a + 1) rest

/-- Zero every byte of a range. -/
def zeroRange (m : Memory) (lo n : Nat) : Memory := m.filter fun e => e.1 < lo || lo + n ≤ e.1

/-- The number whose little-endian bytes are the list. -/
def natOfBytes (bs : List Byte) : Nat :=
  match bs with
  | [] => 0
  | b :: rest => b.toNat + 256 * natOfBytes rest

/-! ## Bits -/

/-- Bits `[hi:lo]` of a number. -/
def bitsOf (v hi lo : Nat) : Nat := v / 2 ^ lo % 2 ^ (hi + 1 - lo)

/-- Bits `[hi:lo]` of a register, as a number. -/
def fld (v : W64) (hi lo : Nat) : Nat := bitsOf v.toNat hi lo

/-- One bit of a register. -/
def bitOf (v : W64) (k : Nat) : Bool := v.getLsbD k

/-- The value of the low `n` bits read as two's complement (07 R121, sv). -/
def sv (n v : Nat) : Int :=
  let u := v % 2 ^ n
  if 2 * u < 2 ^ n then (u : Int) else (u : Int) - (2 : Int) ^ n

/-- Sign extension of the low `n` bits to 64 bits. -/
def sext (n v : Nat) : W64 := BitVec.ofInt 64 (sv n v)

/-- A 64-bit value from an exact number, modulo 2^64. -/
def w64 (v : Nat) : W64 := BitVec.ofNat 64 v

/-- The number zero or one of a condition. -/
def natOf (p : Bool) : Nat := if p then 1 else 0

/-- The first element that satisfies a test, with its index. -/
def findIdx {α : Type} (p : α → Bool) (l : List α) : Option (Nat × α) :=
  match l with
  | [] => none
  | a :: rest => if p a then some (0, a) else (findIdx p rest).map fun e => (e.1 + 1, e.2)

/-- Remove the element at an index. -/
def dropAt {α : Type} (l : List α) (k : Nat) : List α :=
  match l, k with
  | [], _ => []
  | _ :: rest, 0 => rest
  | a :: rest, j + 1 => a :: dropAt rest j

/-- Replace the element at an index. -/
def setAt {α : Type} (l : List α) (k : Nat) (v : α) : List α :=
  match l, k with
  | [], _ => []
  | _ :: rest, 0 => v :: rest
  | a :: rest, j + 1 => a :: setAt rest j v

/-- Insert before the first element that must come later. -/
def insertBy {α : Type} (later : α → Bool) (l : List α) (v : α) : List α :=
  match l with
  | [] => [v]
  | a :: rest => if later a then v :: a :: rest else a :: insertBy later rest v

/-- Thread a state through a list. -/
def foldM {σ α ε : Type} (f : σ → α → Except ε σ) (s : σ) (l : List α) : Except ε σ :=
  match l with
  | [] => .ok s
  | a :: rest => match f s a with
    | .ok t => foldM f t rest
    | .error e => .error e

/-- Apply a partial function to each element, the first failure stopping it. -/
def mapE {α β ε : Type} (f : α → Except ε β) (l : List α) : Except ε (List β) :=
  match l with
  | [] => .ok []
  | a :: rest => match f a with
    | .error e => .error e
    | .ok b => match mapE f rest with
      | .error e => .error e
      | .ok bs => .ok (b :: bs)

/-- Read an element of a vector by number; a number out of range (which no field holds) reads as `dflt`. -/
def vget {α : Type} {n : Nat} (dflt : α) (v : Vector α n) (k : Nat) : α := if h : k < n then v[k] else dflt

/-- Replace an element of a vector by number. -/
def vset {α : Type} {n : Nat} (v : Vector α n) (k : Nat) (a : α) : Vector α n := if h : k < n then v.set k a h else v

end Sys2Proof.Machine
end

