-- ==== Sys2Proof/Machine/Ops.lean ====
section
/-! DEFINITION. The named operations over State: cores, groups, threads and clusters by number; the outcome of an
instruction's own steps; taking an exception (14 R259 to R262) and what a trap leaves. -/

namespace Sys2Proof.Machine

/-! ## Units by number -/

/-- A core; one that nothing has touched is as reset left it. -/
def State.core (s : State) (c : Nat) : Core := (find s.cores c).getD Core.init
/-- Replace a core. -/
def State.setCore (s : State) (c : Nat) (k : Core) : State := { s with cores := set s.cores c k }
/-- A cluster. -/
def State.cluster (s : State) (c : Nat) : Cluster := (find s.clusters c).getD Cluster.init
/-- Replace a cluster. -/
def State.setCluster (s : State) (c : Nat) (k : Cluster) : State := { s with clusters := set s.clusters c k }
/-- A die's hub. -/
def State.hub (s : State) (d : Nat) : Hub := (find s.hubs d).getD Hub.init
/-- Replace a die's hub. -/
def State.setHub (s : State) (d : Nat) (h : Hub) : State := { s with hubs := set s.hubs d h }
/-- An L2 slice, numbered die × 8 + slice. -/
def State.slice (s : State) (k : Nat) : Slice := (find s.slices k).getD Slice.init
/-- Replace a slice. -/
def State.setSlice (s : State) (k : Nat) (v : Slice) : State := { s with slices := set s.slices k v }
/-- A ring. -/
def State.ring (s : State) (r : Nat) : RotRing := vget RotRing.init s.rings r
/-- Replace a ring. -/
def State.setRing (s : State) (r : Nat) (v : RotRing) : State := { s with rings := vset s.rings r v }
/-- A link port. -/
def State.port (s : State) (p : Nat) : Port := vget Port.init s.ports p
/-- Replace a link port. -/
def State.setPort (s : State) (p : Nat) (v : Port) : State := { s with ports := vset s.ports p v }
/-- A protection domain. -/
def State.domain (s : State) (d : Nat) : Domain := vget Domain.init s.domains d

/-- The row of a core id (01 R10). -/
def rowOf (core : Nat) : Nat := core / 8
/-- The cluster of a core id (01 R10). -/
def clusterOf (core : Nat) : Nat := core / 32
/-- The die of a core id (01 R10). -/
def dieOf (core : Nat) : Nat := core / 256

/-- The resident group of a core. -/
def State.group (s : State) (c : Nat) : Option Group := (s.core c).group
/-- Replace the resident group of a core. -/
def State.setGroup (s : State) (c : Nat) (g : Group) : State := s.setCore c { s.core c with group := some g }

/-- Does a core hold a group of the gang? -/
def State.holds (s : State) (gang core : Nat) : Bool :=
  match s.group core with
  | some g => g.gang == gang
  | none => false

/-- The groups of a gang that have retired, by core and index: a retired group has no state to save (02 R25, Table 3). -/
def State.retiredOf (s : State) (id : Nat) (k : Gang) : List (Nat × Nat) :=
  (k.cores.zip (List.range k.cores.length)).filter fun e => !s.holds id e.1

/-- The scalar agent of a group. -/
def Group.agent (g : Group) (i : Issuer) : Option Thread :=
  match i with
  | .thread t => g.threads[t]?
  | .loader => some g.loader.th
  | .storer => some g.storer.th
  | .departed => none
/-- Replace the scalar agent of a group. -/
def Group.setAgent (g : Group) (i : Issuer) (th : Thread) : Group :=
  match i with
  | .thread t => { g with threads := setAt g.threads t th }
  | .loader => { g with loader := { g.loader with th := th } }
  | .storer => { g with storer := { g.storer with th := th } }
  | .departed => g

/-- An issuing agent. -/
def State.agent (s : State) (w : Who) : Option Thread :=
  match s.group w.core with
  | some g => g.agent w.issuer
  | none => none
/-- Replace an issuing agent. -/
def State.setAgent (s : State) (w : Who) (th : Thread) : State :=
  match s.group w.core with
  | some g => s.setGroup w.core (g.setAgent w.issuer th)
  | none => s

/-- The agent whose step this is. -/
def State.me (s : State) : Option Thread := s.agent s.cur
/-- Replace the agent whose step this is. -/
def State.setMe (s : State) (th : Thread) : State := s.setAgent s.cur th

/-- The global tick, half the core clock (01 R12). -/
def State.gtick (s : State) : Nat := s.cycle / 2
/-- GTICK as a register. -/
def State.gtick64 (s : State) : W64 := w64 s.gtick

/-- Is this agent a feed core? -/
def Issuer.isFeed (i : Issuer) : Bool :=
  match i with
  | .loader | .storer => true
  | .thread _ | .departed => false

/-- The thread set a record names for an agent. -/
def Issuer.setNo (i : Issuer) : Nat :=
  match i with
  | .thread t => t
  | _ => 0

/-! ## Far requests that a router held (20 R360) -/

/-- The key under which a job's held request to a core is answered. -/
def reachKey (id core : Nat) : Nat := id * 2048 + core

/-- A job's access to a core's scratchpad is refused: it finds out when it looks again (11 R208). -/
def State.refuseJob (s : State) (id core : Nat) : State :=
  let named := ((s.reach.find? fun e => e.1 / 2048 == id && e.2 == some core).map fun e => e.1 % 2048).getD core
  { s with reach := set s.reach (reachKey id named) none }

/-! ## Values that an access completes under (07 R130, 11 R206) -/

/-- The size of the group's scratchpad allocation in bytes (11 R206). -/
def Group.alloc (g : Group) : Nat := g.spm * 65536

/-- The group under the values of `TWIN0` to `TWIN3`, `INVWIN0` to `INVWIN3` and `SPLIT` that an access which issued in step `stamp` completes
under (07 R130). -/
def Group.asOf (g : Group) (stamp : Nat) : Group :=
  match g.past.find? fun p => stamp < p.upto with
  | some p => { g with twin := p.twin, invwin := p.invwin, spm := p.spm }
  | none => g

/-- The allocation that such an access completes under. -/
def Group.allocOf (g : Group) (stamp : Nat) : Nat := (g.asOf stamp).alloc

/-- A write of one of these registers replaces their values in step `n`. -/
def Group.replaced (g : Group) (n : Nat) : Group :=
  { g with past := g.past ++ [{ upto := n, twin := g.twin, invwin := g.invwin, spm := g.spm }] }

/-! ## Running matrix operations (16 R283) -/

/-- The started operations of a core's gang that have not retired. -/
def State.opsOf (s : State) (core : Nat) : List RunOp :=
  match s.group core with
  | some g => match find s.gangs g.gang with
    | some k => k.running
    | none => []
  | none => []

/-- A member's part in an operation. -/
def RunOp.memberOf (r : RunOp) (core : Nat) : Option MemberRes := r.members.find? fun m => m.core == core

/-- Does a running operation target this accumulator of the core's group? -/
def State.accBusy (s : State) (core acc : Nat) : Bool :=
  (s.opsOf core).any fun r => match r.memberOf core with
    | some m => m.acc == acc
    | none => false

/-- Does a running operation read this tile of the core's group, as its `B` tile or as group 0's `A` tile? -/
def State.tileBusy (s : State) (core tile : Nat) : Bool :=
  (s.opsOf core).any fun r =>
    (match r.memberOf core with
      | some m => m.btile == tile
      | none => false) ||
    ((r.members.head?.map (·.core)) == some core && r.atile == tile)

/-- Does an `mma.cp` of the core's group run? -/
def State.cpBusy (s : State) (core : Nat) : Bool := (s.opsOf core).any fun r => r.cp && (r.memberOf core).isSome

/-! ## Schedule -/

/-- Ask for a step of the machine's own before the default schedule moves. -/
def State.soon (s : State) (t : Turn) : State := { s with due := s.due ++ [t] }
/-- Ask for a step of the machine's own before anything else. -/
def State.now (s : State) (t : Turn) : State := { s with due := t :: s.due }
/-- Put a message in flight. -/
def State.send (s : State) (m : Msg) : State := { s with net := s.net ++ [m] }
/-- A fresh request number. -/
def State.fresh (s : State) : Nat × State := (s.seqCtr + 1, { s with seqCtr := s.seqCtr + 1 })
/-- A free choice, and the counter it used. -/
def State.freeNat (s : State) (n : Nat) : Nat × State := (Config.freeNat s.freeCtr % n, { s with freeCtr := s.freeCtr + 1 })
/-- A free value, and the counter it used. -/
def State.freeWord (s : State) : W64 × State := (Config.freeWord s.freeCtr, { s with freeCtr := s.freeCtr + 1 })

/-! ## Outcomes of an instruction's own steps -/

/-- How a step of an instruction can end without retiring: a precise cause with the state it leaves (14 R253), a wait in
the state it leaves (07 R118), or a fault of the model. -/
inductive Stop where
  | trap (s : State) (t : Trap) | wait (s : State) | fault (f : Fault)
  deriving Repr

/-- A computation of an instruction. -/
abbrev Do (α : Type) := Except Stop α

/-- Raise a cause, precisely, with no effect (14 R253). -/
def raise {α : Type} (s : State) (c : Cause) (tval : W64) : Do α := .error (.trap s { cause := c, tval := tval, tepc := none })

/-- The code of a cause (14 Table 1). -/
def Cause.code (c : Cause) : Nat :=
  match c with
  | .illLen => 0x01 | .illClass => 0x02 | .illOp => 0x03 | .illField => 0x04 | .straddle => 0x05 | .priv => 0x06
  | .format => 0x07 | .align => 0x08 | .xlateNone => 0x09 | .xlatePerm => 0x0A | .cow => 0x0B | .tag => 0x0C
  | .storeRefused => 0x0D | .ownerLost => 0x0E | .deadRead => 0x0F | .fp => 0x10 | .coNotLive => 0x11 | .coSeal => 0x12
  | .coVersion => 0x13 | .queue => 0x14 | .rot => 0x15 | .brk => 0x16 | .saveLost => 0x17 | .ecc => 0x18
  | .engine => 0x19 | .sysTrap => 0x1A

/-- Machine class (14 Table 1). -/
def Cause.machine (c : Cause) : Bool :=
  match c with
  | .saveLost | .ecc => true
  | _ => false

/-! ## TCAUSE fields (14 Table 3) -/

/-- `INH`: a handler is active and has not released its trap state. -/
def Thread.inh (th : Thread) : Bool := bitOf th.tcause 11
/-- `CAUSE`. -/
def Thread.causeCode (th : Thread) : Nat := fld th.tcause 7 0
/-- `SRCE`. -/
def Thread.srce (th : Thread) : Nat := fld th.tcause 13 12
/-- `FPC`. -/
def Thread.fpc (th : Thread) : Nat := fld th.tcause 45 32
/-- `VSEL`. -/
def Thread.vsel (th : Thread) : Nat := fld th.tcause 49 48
/-- `RETRY`. -/
def Thread.retry (th : Thread) : Bool := bitOf th.tcause 50
/-- `TVEC.ADDR` << 2 (14 Table 2). -/
def Group.handler (g : Group) : W64 := w64 (fld g.tvec 54 2 * 4)

/-- No instruction of the agent is in progress. -/
def Prog.idle : Prog :=
  { inst := none, before := 0, seq := 0, parts := [], asked := [], got := [], reply := none, stage := 0, note := 0, misses := 0, hits := 0 }

/-! ## Debug and supervisor records -/

/-- Is the group part of a launch that a debugger has claimed (25 R419, 26 R429)? -/
def State.claimed (s : State) (core : Nat) : Bool :=
  match s.group core with
  | none => false
  | some g => match find s.gangs g.gang with
    | none => false
    | some k => match find (s.hub k.home).slots k.slot with
      | none => false
      | some l => l.claimed

/-- Queue a debug event record (26 Table 9): at most 256, a dropped one is counted, and the first into an empty queue
sends MSI-X vector 1. The count of dropped records joins the record that is read next. -/
def State.debugEvent (s : State) (kind core t : Nat) (pc tval : W64) : State :=
  if s.mgmt.debugQ.length ≥ 256 then { s with mgmt := { s.mgmt with debugDrop := s.mgmt.debugDrop + 1 } }
  else
    let r : Rec4 := { w0 := w64 (kind + core * 2 ^ 8 + t * 2 ^ 19), w1 := pc, w2 := tval, w3 := s.gtick64 }
    let first := s.mgmt.debugQ.isEmpty
    { s with mgmt := { s.mgmt with debugQ := s.mgmt.debugQ ++ [r] },
             host := { s.host with sent := if first then s.host.sent ++ [1] else s.host.sent } }

/-- Append a record to the failure log: at most 1,024, the oldest overwritten (26 R430). -/
def State.logFailure (s : State) (r : Rec4) : State :=
  let l := s.mgmt.log ++ [r]
  { s with mgmt := { s.mgmt with log := if l.length > 1024 then l.drop 1 else l } }

/-- The cluster supervisor receives a record (14 R261). -/
def State.report (s : State) (r : SupRec) : State := { s with sup := s.sup ++ [r] }

/-- Deliver a machine-class record to the cluster supervisor (14 R261), which the failure log keeps too (26 Table 10, kind 3). -/
def State.supervise (s : State) (r : SupRec) : State :=
  let s := s.report r
  s.logFailure { w0 := s.gtick64, w1 := w64 (3 + r.code * 2 ^ 8 + r.core * 2 ^ 40 + r.t * 2 ^ 51), w2 := r.tepc, w3 := r.tval }

/-! ## Taking an exception -/

/-- Hold a thread and send the supervisor its record (14 R261); its trap-state registers are unchanged. -/
def State.hold (s : State) (w : Who) (th : Thread) (code : Nat) (tepc tval : W64) : State :=
  let s := s.setAgent w { th with status := .held, wait := .none, prog := Prog.idle }
  s.supervise { core := w.core, t := w.issuer.setNo, wid := th.wid, code := code, tepc := tepc, tval := tval }

/-- Enter the handler in one step (14 R259). -/
def Thread.enter (th : Thread) (handler : W64) (c : Cause) (tepc tval : W64) (async : Bool) (srce fpc : Nat) : Thread :=
  { th with
    tepc := tepc, tval := tval,
    tcause := w64 (c.code + natOf async * 2 ^ 9 + natOf th.kernel * 2 ^ 10 + 2 ^ 11 + srce % 4 * 2 ^ 12 + fpc % 2 ^ 14 * 2 ^ 32),
    kernel := true, pc := handler, wait := .none, prog := Prog.idle }

/-- The thread a feed core's cause, or an engine's, is delivered to: thread set 0, or the lowest that has not ended
(14 R262, R266). -/
def Group.deliverTo (g : Group) : Option Nat :=
  (findIdx (fun th : Thread => th.status != .ended && th.status != .idle) g.threads).map (·.1)

/-- Hold an asynchronous cause pending for a thread (14 R254); the refusal of one journal entry is held once. -/
def State.pend (s : State) (core t : Nat) (a : Async) : State :=
  match s.agent { core := core, issuer := .thread t } with
  | some th =>
    s.setAgent { core := core, issuer := .thread t }
      { th with pend := (th.pend.filter fun b => a.jidx.isNone || b.jidx != a.jidx) ++ [a] }
  | none => s

/-- Causes on a feed core stop it and are held pending for a thread of the group (14 R262, 02 R30); STORE_REFUSED with the entry that its
`TVAL` names. -/
def State.feedStop (s : State) (w : Who) (causes : List (Cause × W64)) : State :=
  match s.group w.core with
  | none => s
  | some g =>
    let src := if w.issuer == .loader then 1 else 2
    let f := if w.issuer == .loader then g.loader else g.storer
    let f' : Feed := { f with run := false, flt := true, th := { f.th with wait := .none, prog := Prog.idle, pend := [] } }
    let g' := if w.issuer == .loader then { g with loader := f' } else { g with storer := f' }
    let s := s.setGroup w.core g'
    match g'.deliverTo with
    | some t => causes.foldl (fun (s : State) e => s.pend w.core t
        { cause := e.1, tval := e.2, srce := src, fpc := f.th.pc.toNat,
          jidx := if e.1 == .storeRefused then some (fld e.2 4 0) else none }) s
    | none => s

/-- A cause of a feed core's instruction stops it, with the refusals that have reached it while the instruction had to go on (14 R262). -/
def State.feedFault (s : State) (w : Who) (c : Cause) (tval : W64) : State :=
  s.feedStop w (((s.agent w).elim [] fun th => th.pend.map fun a => (a.cause, a.tval)) ++ [(c, tval)])

/-- The refusals that have reached a feed core while its instruction had to go on stop it now (14 R262). -/
def State.feedLate (s : State) (w : Who) : State :=
  match s.agent w with
  | some th => if th.pend.isEmpty then s else s.feedStop w (th.pend.map fun a => (a.cause, a.tval))
  | none => s

/-- A thread of the group waits at the row latch no more: what it issued is withdrawn (14 R254, 16 R284). -/
def State.unlatch (s : State) (w : Who) : State :=
  { s with gangs := mapVals (fun g : Gang =>
      { g with latch := g.latch.filter fun l => !(l.core == w.core && w.issuer == .thread l.t) }) s.gangs }

/-- Keep the requesters of a bank that satisfy a test. -/
def Bank.keep (p : Waiter → Bool) (b : Bank) : Bank :=
  { queue := b.queue.filter p, retry := b.retry.filter p, due := b.due.filter p }

/-- Apply a function to the three banks of a core. -/
def Core.mapBanks (f : Bank → Bank) (k : Core) : Core :=
  let at_ (j : Nat) : Bank := f (vget Bank.init k.banks j)
  { k with banks := #v[at_ 0, at_ 1, at_ 2] }

/-- A parked requester that is not the agent's own access (near or far). -/
def Waiter.notOf (w : Who) (core : Nat) (q : Waiter) : Bool :=
  match q with
  | .own i _ _ => !(core == w.core && i == w.issuer)
  | .far m _ => !(m.who == w && m.jidxs.isEmpty)
  | .job _ _ _ => true

/-- A message that is not a request of the agent's instruction in progress. -/
def Msg.notOf (w : Who) (m : Msg) : Bool :=
  match m with
  | .loadReq q => q.who != w || q.seq == 0
  | .amo a => a.who != w
  | .ustore m => m.who != w || m.jidx.isSome
  | .far f => !(f.who == w && f.jidxs.isEmpty)
  | .deposit d => d.who != w
  | .card _ j => j.who != w
  | .record p => (p.who.map (·.1)) != some w
  | _ => true

/-- A request at the home that is not the agent's AMO or ordered store. -/
def HomeReq.notOf (w : Who) (r : HomeReq) : Bool :=
  match r with
  | .amo a => a.who != w
  | .store m => m.who != w || m.jidx.isSome
  | _ => true

/-- A ring without the deposits of an agent that wait on it. -/
def MRing.without (w : Who) (r : MRing) : MRing := { r with waiting := r.waiting.filter fun d => d.who != w }

/-- A group without the deposits of an agent that wait on its rings. -/
def Group.without (w : Who) (g : Group) : Group :=
  let at_ (j : Nat) : MRing := (vget { desc := 0, head := 0, tail := 0, msgs := [], waiting := [] } g.rings j).without w
  { g with rings := #v[at_ 0, at_ 1, at_ 2, at_ 3] }

/-- A core without what an agent's instruction in progress has left at it: a registration of an ordered store stays in the journal until
its acknowledgement, but a refusal of it is the instruction's own (10 R192) and leaves with it. -/
def Core.without (w : Who) (core : Nat) (k : Core) : Core :=
  { k.mapBanks (Bank.keep (Waiter.notOf w core)) with
    group := k.group.map (Group.without w),
    jrnl := if core == w.core then k.jrnl.filter fun e => e.owner != w.issuer || e.rel == 0 || e.state == .out else k.jrnl }

/-- The agents of one core. -/
def agentsOf (core : Nat) : List Who :=
  [.thread 0, .thread 1, .thread 2, .thread 3, .loader, .storer].map fun i => { core := core, issuer := i }

/-- Is a message a request to a word's home? -/
def Msg.toHome (m : Msg) : Bool :=
  match m with
  | .loadReq _ | .amo _ | .ustore _ => true
  | _ => false

/-- Withdraw what an agent's instruction has asked for, but for its requests to homes when `kept`: its messages, its parked accesses, its event wait
and its place at the row latch. -/
def State.withdrawFrom (s : State) (kept : Bool) (w : Who) : State :=
  let s := { s with
    cores := s.cores.map fun (e : Nat × Core) => (e.1, e.2.without w e.1),
    net := s.net.filter fun m => m.notOf w || (kept && m.toHome),
    spill := s.spill.filter fun h => h.msg.notOf w,
    slices := if kept then s.slices else mapVals (fun sl : Slice => { sl with queue := sl.queue.filter (HomeReq.notOf w) }) s.slices,
    clusters := mapVals (fun c : Cluster => { c with waits := c.waits.filter fun x => x.1 != w }) s.clusters }
  s.unlatch w

/-- Withdraw the requests of an instruction that is discarded (07 R120, 11 R225). Answers still on their way carry a request number that no
instruction has any more. -/
def State.withdraw (s : State) (w : Who) : State := s.withdrawFrom false w

/-- Count an event on the running counters of a thread that count it (25 R410). -/
def Thread.countBy (th : Thread) (ev n : Nat) : Thread :=
  let f (c : Counter) : Counter := if bitOf c.control 8 && fld c.control 7 0 == ev then { c with value := c.value + w64 n } else c
  let at_ (j : Nat) : Counter := f (vget { value := 0, start := 0, stop := none, control := 0 } th.ctrs j)
  { th with ctrs := #v[at_ 0, at_ 1, at_ 2, at_ 3, at_ 4, at_ 5, at_ 6, at_ 7] }

/-- Count one event. -/
def Thread.count (th : Thread) (ev : Nat) : Thread := th.countBy ev 1

/-- The issue of an instruction that proves not ready is not counted. -/
def Thread.uncount (th : Thread) (ev : Nat) : Thread :=
  let f (c : Counter) : Counter := if bitOf c.control 8 && fld c.control 7 0 == ev then { c with value := c.value - 1 } else c
  let at_ (j : Nat) : Counter := f (vget { value := 0, start := 0, stop := none, control := 0 } th.ctrs j)
  { th with ctrs := #v[at_ 0, at_ 1, at_ 2, at_ 3, at_ 4, at_ 5, at_ 6, at_ 7] }

/-- A thread's running counters note that a debugger halts it (25 R411). -/
def Thread.noteHalt (th : Thread) : Thread :=
  let f (c : Counter) : Counter := if bitOf c.control 8 then { c with control := c.control ||| 0x400 } else c
  let at_ (j : Nat) : Counter := f (vget { value := 0, start := 0, stop := none, control := 0 } th.ctrs j)
  { th with ctrs := #v[at_ 0, at_ 1, at_ 2, at_ 3, at_ 4, at_ 5, at_ 6, at_ 7] }

/-- A debugger halts a thread. -/
def Thread.halt (th : Thread) : Thread := { th.noteHalt with status := .halted, wait := .none }

/-- Take a cause on an agent (14 R259 to R262, 25 R419): a user-class cause enters the handler, or is escalated when INH
is 1 or there is no handler; a machine-class cause holds the thread; a feed core stops; BRK in a claimed group halts. -/
def State.takeTrap (s : State) (w : Who) (t : Trap) (async : Bool) (srce fpc : Nat) : State :=
  let s := s.withdraw w
  if w.issuer.isFeed then s.feedFault w t.cause t.tval
  else match s.group w.core, s.agent w with
    | some g, some th =>
      let tepc := t.tepc.getD th.pc
      if t.cause == .brk && s.claimed w.core then
        let s := s.setAgent w { th.halt with prog := Prog.idle }
        s.debugEvent (if bitOf t.tval 63 then 2 else 1) w.core w.issuer.setNo th.pc t.tval
      else if t.cause.machine || th.inh || g.handler == 0 then s.hold w th t.cause.code tepc t.tval
      else s.setAgent w (th.enter g.handler t.cause tepc t.tval async srce fpc)
    | _, _ => s

/-- The outcome of an instruction from its computation: the state it retires in, its exception taken, or its wait. -/
def finish (w : Who) (r : Do State) : Host.Outcome State Fault Refusal :=
  match r with
  | .ok s => .next s
  | .error (.trap s t) => .next (s.takeTrap w t false 0 0)
  | .error (.wait s) => .next s
  | .error (.fault f) => .fault f

/-- The issuing agent, or the model's fault. -/
def getMe (s : State) : Do Thread :=
  match s.me with
  | some th => .ok th
  | none => .error (.fault .noAgent)

/-- The issuing agent's group, or the model's fault. -/
def getGroup (s : State) : Do Group :=
  match s.group s.cur.core with
  | some g => .ok g
  | none => .error (.fault .noAgent)

/-- One fewer instruction to retire before a debugger's step completes (26 Table 6, 0x0035). -/
def lessOne (n : Option Nat) : Option Nat := n.map fun k => k - 1

/-- The instruction has retired at its successor's address (07 R118): the thread waits for nothing. -/
def Thread.advance (th : Thread) (len : Nat) : Thread :=
  { th with pc := th.pc + w64 len, wait := .none, prog := Prog.idle, retired := th.retired + 1, stepsLeft := lessOne th.stepsLeft }

/-- The instruction has retired at a target. -/
def Thread.jumpTo (th : Thread) (target : W64) : Thread :=
  { th with pc := target, wait := .none, prog := Prog.idle, retired := th.retired + 1, stepsLeft := lessOne th.stepsLeft }

/-- The groups of the launch that a core's group belongs to, by core. -/
def State.launchGroups (s : State) (die slot : Nat) : Map Group :=
  s.cores.filterMap fun (e : Nat × Core) => match e.2.group with
    | some g => match find s.gangs g.gang with
      | some k => if k.home == die && k.slot == slot then some (e.1, g) else none
      | none => none
    | none => none

/-- The journals of the cores in a set of groups. -/
def State.jrnlsOf (s : State) (gs : Map Group) : Map (List JEnt) := gs.map fun (e : Nat × Group) => (e.1, (s.core e.1).jrnl)

/-- A retirement in a launch that has a maquette is a point that a reverse step can reach (25 R422). -/
def State.logPoint (s : State) (w : Who) : State :=
  if s.maquettes.isEmpty then s
  else match s.group w.core, s.agent w with
    | some g, some th => match find s.gangs g.gang with
      | some k =>
        let gs := s.launchGroups k.home k.slot
        let p : Point := { who := w, count := th.retired, groups := gs, jrnls := s.jrnlsOf gs, redo := s.redo.filter fun r => r.who == w }
        { s with
          redo := s.redo.filter fun r => r.who != w,
          maquettes := s.maquettes.map fun m : Maquette =>
            if m.die == k.home && m.slot == k.slot then { m with points := m.points ++ [p] } else m }
      | none => s
    | _, _ => s

/-- An effect of an agent's instruction that a replay has again (25 R422): noted while a maquette is held. -/
def State.noteRedo (s : State) (w : Who) (pa n : Nat) (data : W64) (kind : RedoKind) : State :=
  if s.maquettes.isEmpty then s else { s with redo := s.redo ++ [{ who := w, pa := pa, n := n, data := data, kind := kind }] }

/-- Are the counters of a core's group paused: has the agreed tick of its gang's suspension come (25 R411)? -/
def State.paused (s : State) (core : Nat) : Bool :=
  match s.group core with
  | some g => match find s.gangs g.gang with
    | some { susp := some u, .. } => u.agreed ≤ s.gtick
    | _ => false
  | none => false

/-- Does an instruction access elements that memory packs across bytes: those of T6B (06 R91)? -/
def Instr.packs (i : Instr) : Bool :=
  match i with
  | .vld (.m .t6b) _ _ _ _ _ _ | .vst (.m .t6b) _ _ _ _ _ | .tld .t6b _ _ _ _ _ _ | .tst .t6b _ _ _ _ _ => true
  | _ => false

/-- The chunk of 32 bytes of the core's own scratchpad that a part lies in, if it lies there (08 R141). -/
def Part.chunk (p : Part) : Option Nat :=
  match p.tgt with
  | .near off => some (off / 32)
  | _ => none

/-- Does a chunk begin at a part, within an element that packed data have there? The run of the data comes before that of its scale bytes. -/
def Part.cutsElement (p : Part) : Bool :=
  p.run % 2 == 0 && p.at_ % 3 != 0 && match p.tgt with
    | .near off => off % 32 == 0
    | _ => false

/-- The cycles for which an instruction stalls at the banks of its core's scratchpad (08 R141): one fewer than the chunks of the bank with the
most, and one more when an element spans two chunks. -/
def Prog.bankStalls (q : Prog) : Nat :=
  let cs := (q.parts.filterMap Part.chunk).eraseDups
  let most := [0, 1, 2].foldl (fun m b => max m (cs.filter fun c => c % 3 == b).length) 0
  most + natOf (q.inst.any Instr.packs && q.parts.any Part.cutsElement) - 1

/-- A thread whose instruction in progress retires counts it, the stalls of its scratchpad accesses, and its global loads that missed and that hit
(25 Table 2, events 1, 3, 4 and 5). -/
def Thread.countRetired (th : Thread) (q : Prog) : Thread :=
  (((th.count 1).countBy 3 q.bankStalls).countBy 4 q.misses).countBy 5 q.hits

/-- A retirement is counted, unless the group's counters are paused. -/
def State.counted (s : State) (w : Who) (th : Thread) : Thread :=
  if s.paused w.core then th
  else match s.agent w with
    | some u => th.countRetired u.prog
    | none => th

/-- An agent has retired with this state; the group's last retirement is now (17 R317). -/
def State.retireAs (s : State) (w : Who) (th : Thread) : State :=
  match s.group w.core with
  | some g => (s.setGroup w.core { g.setAgent w.issuer th with lastRetire := s.gtick }).logPoint w
  | none => s

/-- An agent retires with this state, which is counted. -/
def State.retireOf (s : State) (w : Who) (th : Thread) : State := s.retireAs w (s.counted w th)

/-- The issuing agent retires with this state. -/
def State.retire (s : State) (th : Thread) : State := s.retireOf s.cur th

/-- Not ready: the instruction is issued again at the agent's next turn (07 R118). An instruction that has not asked
another agent for anything has not issued. -/
def waitFor {α : Type} (s : State) (why : Wait) : Do α :=
  match s.me with
  | some th =>
    if th.prog.seq == 0 && th.prog.stage == 0 then
      let u := if s.paused s.cur.core then th else th.uncount 0
      .error (.wait (s.setMe { u with wait := why, issued := th.prog.before, prog := Prog.idle }))
    else .error (.wait (s.setMe { th with wait := why, prog := { th.prog with note := 0 } }))
  | none => .error (.fault .noAgent)

/-- Not ready after it has issued: the instruction goes on at the agent's next turn, and may be discarded (07 R120). -/
def waitHeld {α : Type} (s : State) (why : Wait) : Do α :=
  match s.me with
  | some th => .error (.wait (s.setMe { th with wait := why, prog := { th.prog with
      stage := if th.prog.stage == 0 then 16 else th.prog.stage, note := 0 } }))
  | none => .error (.fault .noAgent)

/-- A machine event's outcome: it always has one. -/
def event (s : State) : Host.Outcome State Fault Refusal := .next s

end Sys2Proof.Machine
end

