-- ==== Sys2Proof/Machine/Translate.lean ====
section
/-! DEFINITION. Address translation (13): the physical map, the walk of a domain's tables with the caches that may serve
it, and the checks of R245. -/

namespace Sys2Proof.Machine

/-- The first physical address above HBM (24 Table 2). -/
def hbmEnd : Nat := 2 ^ 41
/-- The first physical address of the host window (24 Table 2). -/
def hostBase : Nat := 2 ^ 51
/-- The first address above the host window (24 Table 2). -/
def hostEnd : Nat := 2 ^ 52

/-- The HBM stack of a physical address in the map mode in force (09 R164). -/
def State.stackOf (s : State) (pa : Nat) : Nat :=
  if s.localMap then pa / 2 ^ 36 % 32 else (pa / 2 ^ 12 % 32) ^^^ (pa / 2 ^ 17 % 32)

/-- The die nearest to a stack (01 R9). -/
def dieOfStack (stack : Nat) : Nat := if stack % 8 < 4 then stack / 8 else stack / 8 + 4

/-- The home slice of a physical address, numbered die × 8 + slice (09 R164). -/
def State.homeOf (s : State) (pa : Nat) : Nat :=
  dieOfStack (s.stackOf pa) * 8 + ((pa / 64 % 8) ^^^ (pa / 512 % 8) ^^^ (pa / 4096 % 8) ^^^ (pa / 32768 % 8))

/-- Does a physical address reach HBM that is present (24 R400, 26 R435)? -/
def State.isHbm (s : State) (pa : Nat) : Bool := pa < hbmEnd && !s.mgmt.fencedStacks.contains (s.stackOf pa)
/-- Does an address lie in a stack that has failed in service (26 R435)? What consumes a word of its home raises ECC. -/
def State.stackFails (s : State) (pa : Nat) : Bool := s.mgmt.failedStacks.contains (s.stackOf pa)
/-- Does it reach the host window? -/
def isHost (pa : Nat) : Bool := hostBase ≤ pa && pa < hostEnd

/-! ## Entries (13 R239 to R243) -/

/-- `TYPE` of an entry. -/
def pteType (e : Nat) : Nat := e % 4
/-- A TABLE entry with no reserved bit set. -/
def tableOk (e : Nat) : Bool := bitsOf e 63 52 == 0 && bitsOf e 15 2 == 0
/-- A FRAME entry with no reserved bit set. -/
def frameOk (e : Nat) : Bool := bitsOf e 6 5 == 0 && bitsOf e 3 2 == 0
/-- An ALIAS entry with no reserved bit set. -/
def aliasOk (e : Nat) : Bool := bitsOf e 63 61 == 0 && bitsOf e 11 11 == 0 && bitsOf e 6 2 == 0
/-- `CONT` of a FRAME. -/
def pteCont (e : Nat) : Bool := bitsOf e 11 11 == 1

/-- The line of HBM, of those that the host caches, that holds an address (24 R402). -/
def State.hdmLine (s : State) (pa : Nat) : Option HdmLine := s.host.hdm.find? fun h => h.line == pa / 64

/-- The home's copy of an aligned word (09 R165), as the host has modified it where the host holds it so (24 R402). -/
def State.homeWord (s : State) (pa : Nat) : W64 :=
  match s.hdmLine pa with
  | some { data := some m, .. } => read64 m (pa / 8 * 8 % 64)
  | _ => read64 s.mem (pa / 8 * 8)

/-- A byte of the host window, at an offset in it, as the CXL agent sees it: its line's, or the host's (24 R406). -/
def State.hostByte (s : State) (a : Nat) : Byte :=
  match find s.host.lines (a / 64) with
  | some l => byteAt l.data (a % 64)
  | none => byteAt s.hostMem a

/-- `n` bytes of the host window, as a number. -/
def State.hostNum (s : State) (a n : Nat) : Nat := natOfBytes ((List.range n).map fun k => s.hostByte (a + k))

/-- An entry at a physical address, read at its home as an untracked load (R238); none where nothing is there. -/
def State.readPte (s : State) (pa : Nat) : Option Nat :=
  if s.isHbm pa then some (s.homeWord pa).toNat
  else if isHost pa then some (s.hostNum (pa - hostBase) 8)
  else none

/-- The physical 64 KiB page that a frame entry gives for a virtual address (R242, Table 5). -/
def framePage (level va e : Nat) (cont : Bool) : Nat :=
  let pfn := bitsOf e 51 16
  let v := va / 2 ^ 16
  match level, cont with
  | 3, false => pfn
  | 3, true => pfn / 2 ^ 5 * 2 ^ 5 + v % 2 ^ 5
  | _, false => pfn / 2 ^ 13 * 2 ^ 13 + v % 2 ^ 13
  | _, true => pfn / 2 ^ 17 * 2 ^ 17 + v % 2 ^ 17

/-- The size of a page as a power of two (13 Table 5). -/
def pageSize (level : Nat) (cont : Bool) : Nat :=
  match level, cont with
  | 3, false => 16 | 3, true => 21 | _, false => 29 | _, true => 33

/-- The leaf of a canonical frame under an alias's own permission bits, all ones for a plain frame (R241, R244). -/
def leafOf (level va frame : Nat) (cont : Bool) (perm : Nat) : Option Leaf :=
  if bitsOf frame 63 54 == 0 || (level == 2 && bitsOf frame 28 16 != 0) then none
  else
    let bit_ (k : Nat) : Bool := bitsOf frame k k == 1 && bitsOf perm k k == 1
    some { page := framePage level va frame cont, size := pageSize level cont, trk := bitsOf frame 52 52 == 1, cow := bitsOf frame 53 53 == 1,
           shr := bitsOf frame 4 4 == 1, dtag := bitsOf frame 15 12, x := bit_ 10, w := bit_ 9, r := bit_ 8, u := bit_ 7 }

/-- The members of a CONT group from which the address may be formed (R242), each with its place: the frames of the aligned group that carry
`CONT`. -/
def State.contMembers (s : State) (base n : Nat) : List (Nat × Nat) :=
  (List.range n).filterMap fun k => match s.readPte (base + 8 * k) with
    | some e => if pteType e == 2 && frameOk e && pteCont e then some (base + 8 * k, e) else none
    | none => none

/-- The member of the CONT group of an entry that serves; which one it is stays open (R242). -/
def State.contMember (s : State) (level tab ix : Nat) : Option (Nat × Nat) :=
  let n := if level == 3 then 32 else 16
  let ms := s.contMembers (tab + 8 * (ix / n * n)) n
  ms[Config.freeNat s.freeCtr % ms.length]?

/-- The leaf that a level-2 or level-3 entry gives (R239, Table 2); which member of a CONT group serves is open. -/
def State.leafAt (s : State) (level va tab ix : Nat) : Option Leaf :=
  match s.readPte (tab + 8 * ix) with
  | none => none
  | some e =>
    match pteType e with
    | 2 =>
      if !frameOk e then none
      else if pteCont e then
        match s.contMember level tab ix with
        | some m => leafOf level va m.2 true (2 ^ 64 - 1)
        | none => none
      else leafOf level va e false (2 ^ 64 - 1)
    | 3 =>
      if !aliasOk e then none
      else match s.readPte (bitsOf e 60 12 * 8) with
        | some f => if pteType f == 2 && frameOk f then leafOf level va f false e else none
        | none => none
    | _ => none

/-- The table that a TABLE entry names. -/
def State.tableAt (s : State) (tab ix : Nat) : Option Nat :=
  match s.readPte (tab + 8 * ix) with
  | some e => if pteType e == 1 && tableOk e then some (bitsOf e 51 16 * 2 ^ 16) else none
  | none => none

/-- A cached entry of a domain for a virtual address at a level (R249). -/
def cached (cs : List TlbEnt) (dom level tag : Nat) : Option TlbVal :=
  (cs.find? fun e => e.dom == dom && e.level == level && e.tag == tag).map (·.val)

/-- Level 3 of a walk. -/
def State.walk3 (s : State) (va t3 : Nat) : Option Leaf := s.leafAt 3 va t3 (bitsOf va 28 16)

/-- Level 2 of a walk: a leaf, or the next level's table. -/
def State.walk2 (s : State) (va t2 : Nat) : Option Leaf :=
  match s.tableAt t2 (bitsOf va 41 29) with
  | some t3 => s.walk3 va t3
  | none => s.leafAt 2 va t2 (bitsOf va 41 29)

/-- A walk from the root (R237, R239); a domain that is not VALID has none (R247). -/
def State.walk1 (s : State) (dom va : Nat) : Option Leaf :=
  let d := s.domain dom
  if !d.valid then none
  else match s.tableAt (fld d.root 51 16 * 2 ^ 16) (bitsOf va 54 42) with
    | some t2 => s.walk2 va t2
    | none => none

/-- A walk that starts from the deepest entry the caches hold (R249). -/
def State.walk (s : State) (cs : List TlbEnt) (dom va : Nat) : Option Leaf :=
  match cached cs dom 3 (va / 2 ^ 16), cached cs dom 2 (va / 2 ^ 29), cached cs dom 1 (va / 2 ^ 42) with
  | some (.leaf l), _, _ => some l
  | _, some (.table t3), _ => s.walk3 va t3
  | _, _, some (.table t2) => s.walk2 va t2
  | _, _, _ => s.walk1 dom va

/-- The entries that `leafAt` reads, by address. -/
def State.leafReads (s : State) (level tab ix : Nat) : List Nat :=
  let a := tab + 8 * ix
  match s.readPte a with
  | none => [a]
  | some e =>
    if pteType e == 2 && frameOk e && pteCont e then a :: ((s.contMember level tab ix).map (·.1)).toList
    else if pteType e == 3 && aliasOk e then [a, bitsOf e 60 12 * 8]
    else [a]

/-- The entries that a walk reads from level 2 on. -/
def State.reads2 (s : State) (va t2 : Nat) : List Nat :=
  match s.tableAt t2 (bitsOf va 41 29) with
  | some t3 => (t2 + 8 * bitsOf va 41 29) :: s.leafReads 3 t3 (bitsOf va 28 16)
  | none => s.leafReads 2 t2 (bitsOf va 41 29)

/-- The entries that a walk from the root reads. -/
def State.reads1 (s : State) (dom va : Nat) : List Nat :=
  let d := s.domain dom
  let root := fld d.root 51 16 * 2 ^ 16
  if !d.valid then []
  else (root + 8 * bitsOf va 54 42) :: match s.tableAt root (bitsOf va 54 42) with
    | some t2 => s.reads2 va t2
    | none => []

/-- The first entry that a walk reads in a stack that has failed in service (26 R435), if there is one: ECC is raised on it. -/
def State.badEntry (s : State) (cs : List TlbEnt) (dom va : Nat) : Option Nat :=
  if s.mgmt.failedStacks.isEmpty then none
  else
    let reads := match cached cs dom 3 (va / 2 ^ 16), cached cs dom 2 (va / 2 ^ 29), cached cs dom 1 (va / 2 ^ 42) with
      | some (.leaf _), _, _ => []
      | _, some (.table t3), _ => s.leafReads 3 t3 (bitsOf va 28 16)
      | _, _, some (.table t2) => s.reads2 va t2
      | _, _, _ => s.reads1 dom va
    reads.find? fun a => s.isHbm a && s.stackFails a

/-- The address in `TVAL` of a translation fault at a virtual address: for ECC, the physical address of the entry that fails (14 Table 1). -/
def State.faultAt (s : State) (cs : List TlbEnt) (dom : Nat) (c : Cause) (va : Nat) : Nat :=
  if c == .ecc then (s.badEntry cs dom va).getD va else va

/-- The caches that serve a core's accesses (R249). -/
def State.coreCaches (s : State) (core : Nat) : List TlbEnt := (s.core core).tlb ++ (s.cluster (clusterOf core)).walk

/-! ## Checks (R245) -/

/-- What an access does to its page. -/
inductive Acc where
  | fetch | read | write | both
  deriving DecidableEq, Repr

/-- Steps 2 to 4 of R245 on a leaf. -/
def checkLeaf (l : Leaf) (dom : Nat) (kernel : Bool) (a : Acc) : Option Cause :=
  if !l.shr && l.dtag != dom then some .xlatePerm
  else if !kernel && !l.u then some .xlatePerm
  else
    let ok := match a with
      | .fetch => l.x
      | .read => l.r
      | .write => l.w
      | .both => l.r && l.w
    if !ok then some .xlatePerm
    else if l.cow && (a == .write || a == .both) then some .cow
    else none

/-- A physical address and whether the access is tracked (R246). -/
structure Phys where
  pa  : Nat
  trk : Bool
  deriving DecidableEq, Repr

/-- Translate one virtual address for an access in a domain and mode (R245); a physical address where nothing is raises
XLATE_NONE (24 R400). DEDUCED: an entry that a walk reads is data that the access consumes, so one in a stack that has failed in service raises
ECC precisely on the access (26 R435, 14 R252; notes/assumptions/24.md). -/
def State.xlate (s : State) (cs : List TlbEnt) (dom va : Nat) (kernel : Bool) (a : Acc) : Except Cause Phys :=
  match s.badEntry cs dom va, s.walk cs dom va with
  | some _, _ => .error .ecc
  | none, none => .error .xlateNone
  | none, some l => match checkLeaf l dom kernel a with
    | some c => .error c
    | none =>
      let pa := l.page * 2 ^ 16 + va % 2 ^ 16
      if s.isHbm pa || isHost pa then .ok { pa := pa, trk := l.trk } else .error .xlateNone

/-- Does a shootdown select an entry (10 R204)? The translations of the page that contains the address, of the whole domain,
or of every domain. -/
def TlbSel.covers (sel : TlbSel) (e : TlbEnt) : Bool :=
  let va := sel.va.toNat % 2 ^ 55
  sel.alldom || (e.dom == sel.dom && (sel.all || match e.val with
    | .leaf l => e.tag * 2 ^ 16 / 2 ^ l.size == va / 2 ^ l.size
    | .table _ => e.tag == va / 2 ^ (if e.level == 2 then 29 else 42)))

/-- Drop a page's translation from the caches that serve a core, as a faulting access does before the fault is delivered
(R249); the instruction then walks again when it is retried (R250). -/
def State.forget (s : State) (core dom va : Nat) : State :=
  let f (l : List TlbEnt) : List TlbEnt :=
    l.filter fun e => !TlbSel.covers { all := false, alldom := false, dom := dom, va := w64 va } e
  let k := s.core core
  let cl := s.cluster (clusterOf core)
  let s := if k.tlb.isEmpty then s else s.setCore core { k with tlb := f k.tlb }
  if cl.walk.isEmpty then s else s.setCluster (clusterOf core) { cl with walk := f cl.walk }

/-! ## What the caches may do at any time (R249) -/

/-- The entry a cache may keep of a walk that completes. -/
def State.keepable (s : State) (dom va level : Nat) : Option TlbEnt :=
  let d := s.domain dom
  let t1 := if d.valid then s.tableAt (fld d.root 51 16 * 2 ^ 16) (bitsOf va 54 42) else none
  match s.badEntry [] dom va, s.walk1 dom va with
  | some _, _ | none, none => none
  | none, some l => match level with
    | 3 => some { dom := dom, level := 3, tag := va / 2 ^ 16, val := .leaf l }
    | 2 => match t1 with
      | some t2 => (s.tableAt t2 (bitsOf va 41 29)).map fun t3 =>
          { dom := dom, level := 2, tag := va / 2 ^ 29, val := .table t3 }
      | none => none
    | _ => t1.map fun t2 => { dom := dom, level := 1, tag := va / 2 ^ 42, val := .table t2 }

/-- Change the entries of one cache. -/
def State.mapCache (s : State) (c : CacheId) (f : List TlbEnt → List TlbEnt) : State :=
  match c with
  | .core k => s.setCore k { s.core k with tlb := f (s.core k).tlb }
  | .cluster k => s.setCluster k { s.cluster k with walk := f (s.cluster k).walk }
  | .die d => { s with dieWalk := set s.dieWalk d (f (look [] s.dieWalk d)) }

/-- A cache keeps what a completed walk read. -/
def State.keepTlb (s : State) (c : CacheId) (dom va level : Nat) : State :=
  match s.keepable dom va level with
  | some e => s.mapCache c fun l => e :: l.filter fun x => !(x.dom == e.dom && x.level == e.level && x.tag == e.tag)
  | none => s

/-- Drop the entries that a selection names from one cache. -/
def State.shoot (s : State) (c : CacheId) (sel : TlbSel) : State :=
  s.mapCache c fun l => l.filter fun e => !sel.covers e

end Sys2Proof.Machine
end

