-- ==== Sys2Proof/Machine/Coherent.lean ====
section
/-! DEFINITION. A word at its home (09 R164 to R169): its registration, the copy that a load request returns, and the
write that an engine, the host or a hub makes after revoking the registration (R183). -/

namespace Sys2Proof.Machine

/-! ## Messages in flight -/

/-- The channel of a message: two messages of one channel are handled in the order in which they were sent. A home's
messages to one core are in order (09 R170); so are one core's messages about one word and the port's posted writes (24 R406). -/
def Msg.chan (s : State) (m : Msg) : List Nat :=
  let home (core pa : Nat) : List Nat := [1, core, s.homeOf pa]
  let out (core pa : Nat) : List Nat := if isHost pa then [3] else [2, core, pa / 8]
  match m with
  | .loadReq m => out m.who.core m.pa
  | .registration m => out m.core m.pa
  | .ownerData c _ pa _ => out c pa
  | .amo m => out m.who.core m.pa
  | .ustore m => out m.who.core m.pa
  | .fwdLoad m owner => home owner m.pa
  | .loadRep m _ => home m.who.core m.pa
  | .amoRep w (some pa) _ _ _ => home w.core pa
  | .jAck c _ key | .jRefuse c _ key _ _ => if key == 0 then [] else home c ((key - 1) * 8)
  | .revoke c pa | .forceWb c pa | .regAck c pa | .mergeData c pa _ | .wbAck c pa => home c pa
  | .record p => match p.bell with
    | some (d, _) => [5, d]
    | none => []
  | _ => []

/-- Does a far store touch a word that an earlier one of its core touches (10 R193)? -/
def FarMsg.follows (m x : FarMsg) : Bool :=
  m.req == .store && x.req == .store && m.who.core == x.who.core && m.target == x.target &&
    m.parts.any fun p => x.parts.any fun q => p.off / 8 == q.off / 8

/-- Must a message be handled after an earlier one: are they of one channel, or far stores of a core to one word? -/
def Msg.follows (s : State) (m x : Msg) : Bool :=
  match m, x with
  | .far m, .far x => m.follows x
  | _, _ => !(m.chan s).isEmpty && x.chan s == m.chan s

/-- The place of the message that must be handled before, or is, the message at place `k`: the first that it follows, or that one follows. -/
def State.headFrom (s : State) (fuel k : Nat) : Nat :=
  match fuel, s.net[k]? with
  | f + 1, some m => match findIdx (fun x : Msg => m.follows s x) s.net with
    | some (j, _) => if j < k then State.headFrom s f j else k
    | none => k
  | _, _ => k

/-- The message that must be handled when the one at place `k` is wanted. -/
def State.headOf (s : State) (k : Nat) : Nat := s.headFrom (k + 1) k

/-- The message that an event takes, and the state without it. -/
def State.takeMsg (s : State) : Option (Msg × State) :=
  let k := s.headOf s.selA
  match s.net[k]? with
  | some m => some (m, { s with net := dropAt s.net k })
  | none => none

/-! ## A word at its home -/

/-- The registration entry of a word (09 R165). -/
def State.regEnt (s : State) (pa : Nat) : Option REnt := (s.slice (s.homeOf pa)).table.find? fun e => e.word == pa / 8

/-- A word of a core's cache portion (09 R166), with its line. -/
def Core.cword (k : Core) (pa : Nat) : Option (CLine × CWord) :=
  match find k.cache (pa / 64) with
  | some l => some (l, vget { st := .inv, data := 0, mask := 0, merge := false } l.words (pa / 8 % 8))
  | none => none

/-- Replace a word of a core's cache portion. -/
def Core.setCword (k : Core) (pa : Nat) (w : CWord) : Core :=
  match find k.cache (pa / 64) with
  | some l => { k with cache := set k.cache (pa / 64) { l with words := vset l.words (pa / 8 % 8) w } }
  | none => k

/-- The home back-invalidates the host's copy of a line (24 R402): what the host has modified comes home. -/
def State.recall (s : State) (pa : Nat) : State :=
  match s.hdmLine pa with
  | none => s
  | some h =>
    let t := { s with host := { s.host with hdm := s.host.hdm.filter fun x => x.line != h.line } }
    match h.data with
    | some m => { t with mem := putBytes s.mem (h.line * 64) (bytesAt m 0 64) }
    | none => t

/-- A home back-invalidates a copy that the host may have modified before it serves a load (24 R402). -/
def State.recallExcl (s : State) (pa : Nat) : State :=
  match s.hdmLine pa with
  | some h => if h.excl then s.recall pa else s
  | none => s

/-- The home serves a load of bytes (24 R402): copies of their lines that the host may have modified are back-invalidated first. -/
def State.served (s : State) (pa n : Nat) : State :=
  (List.range ((pa % 64 + n + 63) / 64)).foldl (fun (s : State) j => s.recallExcl (pa / 64 * 64 + 64 * j)) s

/-- Write bytes of an aligned word at its home. -/
def State.poke (s : State) (pa n v : Nat) : State := let t := s.recall pa; { t with mem := writeN t.mem pa n v }

/-- The bytes that a mask selects, from one word, over another (09 R167). -/
def mergeBytes (old new : W64) (mask : BitVec 8) : W64 :=
  w64 (natOfBytes ((List.range 8).map fun k =>
    BitVec.ofNat 8 ((if mask.getLsbD k then new else old).toNat / 256 ^ k)))

/-- The merge data on its way to a core's word (09 R167). -/
def State.mergeOf (s : State) (core pa : Nat) : Option W64 :=
  s.net.findSome? fun m => match m with
    | .mergeData c p v => if c == core && p == pa / 8 * 8 then some v else none
    | _ => none

/-- The value of a word that its owner holds in G, or in P once the home has recorded its registration, merge data that has not arrived
included (09 R167). -/
def State.ownedVal (s : State) (core pa : Nat) (w : CWord) : W64 :=
  match w.merge, s.mergeOf core pa with
  | true, some v => mergeBytes v w.data w.mask
  | _, _ => w.data

/-- Does a core own a word that it holds: is it G, or P with the home's acknowledgement on its way? A word that is P besides is one that
the core has sent home and stored to since, and its new registration has yet to be served. -/
def State.ownsWord (s : State) (core pa : Nat) (w : CWord) : Bool :=
  w.st == .g || (w.st == .p && s.net.any fun m => match m with
    | .regAck c p => c == core && p == pa / 8 * 8
    | _ => false)

/-- The write-back of a word that its owner has sent and that has not reached the home (09 R169, R170). -/
def State.crossing (s : State) (core pa : Nat) : Option W64 :=
  s.net.findSome? fun m => match m with
    | .ownerData c _ p (some v) => if c == core && p == pa / 8 * 8 then some v else none
    | _ => none

/-- What a load request to the home answers (09 R168, R181): the owner's word when it is registered, OWNER_LOST when the
owner was lost, the home's copy otherwise, ECC where that lies in a stack that fails (26 R435). -/
def State.cohWord (s : State) (pa : Nat) : Except Cause W64 :=
  let home : Except Cause W64 := if s.stackFails pa then .error .ecc else .ok (s.homeWord pa)
  let back (core : Nat) : Except Cause W64 := (s.crossing core pa).elim home .ok
  match s.regEnt pa with
  | none => home
  | some e =>
    if e.lost then .error .ownerLost
    else match (s.core e.owner).cword pa with
      | some (_, w) => if s.ownsWord e.owner pa w then .ok (s.ownedVal e.owner pa w) else back e.owner
      | none => back e.owner

/-- Pieces of a journal entry are acknowledged: an entry with no piece left frees (10 R193). -/
def State.ackParts (s : State) (core : Nat) (ours : JEnt → Bool) (acked : JPart → Bool) : State :=
  let k := s.core core
  let f (e : JEnt) : JEnt := if ours e then { e with parts := e.parts.filter fun p => p.bad || !acked p } else e
  s.setCore core { k with jrnl := (k.jrnl.map f).filter fun e => !e.parts.isEmpty }

/-- A piece that waits for the registration of the word at `pa`. -/
def JPart.isReg (pa : Nat) (p : JPart) : Bool := p.kind == .reg (pa / 8 * 8)

/-- A release above core scope of an agent waits for an entry that it has made itself, or that happens before it (09 R177, R178). -/
def JEnt.owes (i : Issuer) (e : JEnt) : Bool := e.owner == i || e.also.contains i

/-- Change the entries of a core that a test names, if there are any. -/
def State.noteJrnl (s : State) (core : Nat) (p : JEnt → Bool) (f : JEnt → JEnt) : State :=
  let k := s.core core
  if k.jrnl.any p then s.setCore core { k with jrnl := k.jrnl.map fun e => if p e then f e else e } else s

/-- The home's acknowledgement of a registration reaches the core (09 R166): P becomes G, and the journal entry frees. -/
def State.ackReg (s : State) (core pa : Nat) : State :=
  let k := s.core core
  let s := match k.cword pa with
    | some (_, w) => if w.st == WSt.p then s.setCore core (k.setCword pa { w with st := WSt.g }) else s
    | none => s
  s.ackParts core (fun _ => true) (JPart.isReg pa)

/-- Merge data reaches the core (09 R167): it goes under the bytes that the core's threads have written. -/
def State.mergeIn (s : State) (core pa : Nat) (v : W64) : State :=
  let k := s.core core
  match k.cword pa with
  | some (_, w) =>
    if w.merge then s.setCore core (k.setCword pa { w with data := mergeBytes v w.data w.mask, mask := 0, merge := false })
    else s
  | none => s

/-- Messages of the home to a core about one word are handled in the order the home issued them (09 R170): the
acknowledgement and merge data that are still on their way arrive before what the home does next. -/
def State.settle (s : State) (core pa : Nat) : State :=
  let mine (m : Msg) : Bool := match m with
    | .regAck c p => c == core && p == pa / 8 * 8
    | .mergeData c p _ => c == core && p == pa / 8 * 8
    | _ => false
  let ms := s.net.filter mine
  if ms.isEmpty then s
  else
    let s := { s with net := s.net.filter fun m => !mine m }
    ms.foldl (fun s m => match m with
      | .mergeData _ _ v => s.mergeIn core pa v
      | _ => s.ackReg core pa) s

/-- Remove a word's registration entry. -/
def Slice.free (sl : Slice) (word : Nat) : Slice := { sl with table := sl.table.filter fun e => e.word != word }

/-- The crossing write-back of an owner is taken as the data that the home asks for (09 R169, R170). -/
def State.takeCrossing (s : State) (core pa : Nat) : State :=
  match s.crossing core pa with
  | none => s
  | some v =>
    let mine (m : Msg) : Bool := match m with
      | .ownerData c _ p (some _) => c == core && p == pa / 8 * 8
      | _ => false
    { s with net := s.net.filter (fun m => !mine m) ++ [.wbAck core (pa / 8 * 8)], mem := write64 s.mem (pa / 8 * 8) v }

/-- Revoke a word's registration and bring its data home, leaving it unregistered (09 R169, R183): the owner's word is
written at the home and becomes I. A LOST word is an error (R181). -/
def State.revokeNow (s : State) (pa : Nat) : Except Cause State :=
  match s.regEnt pa with
  | none => .ok s
  | some e =>
    if e.lost then .error .ownerLost
    else
      let s := s.settle e.owner pa
      let h := s.homeOf pa
      let s := s.setSlice h ((s.slice h).free (pa / 8))
      let k := s.core e.owner
      match k.cword pa with
      | some (_, w) =>
        if w.st == .g then
          let s := s.setCore e.owner (k.setCword pa { w with st := .inv, mask := 0 })
          .ok { s with mem := write64 s.mem (pa / 8 * 8) w.data }
        else .ok (s.takeCrossing e.owner pa)
      | none => .ok (s.takeCrossing e.owner pa)

/-- Write bytes of one aligned word at its home after revoking its registration (09 R183). An engine access to a LOST word is an error
(R181). -/
def State.engineWrite (s : State) (pa n v : Nat) : Except Cause State :=
  (s.revokeNow pa).map fun s => s.poke pa n v

/-- Read `n` bytes that lie in one aligned word, as a load request at the home (09 R168); from the host window, the host's
byte (24 R406). -/
def State.engineRead (s : State) (pa n : Nat) : Except Cause Nat :=
  if isHost pa then .ok (s.hostNum (pa - hostBase) n)
  else match s.cohWord pa with
    | .ok w => .ok (w.toNat / 256 ^ (pa % 8) % 256 ^ n)
    | .error c => .error c

/-- `TVAL` of a cause that the read of a word brings: ECC names the word's physical address (14 Table 1). -/
def Cause.at_ (c : Cause) (va pa : Nat) : Nat := if c == .ecc then pa / 8 * 8 else va

/-- The bytes from a physical address upward, word by word, as load requests. -/
def State.engineBytes (s : State) (pa n : Nat) : Except Cause (List Byte) :=
  match n with
  | 0 => .ok []
  | k + 1 => match s.engineRead pa 1 with
    | .error c => .error c
    | .ok b => match State.engineBytes s (pa + 1) k with
      | .error c => .error c
      | .ok bs => .ok (BitVec.ofNat 8 b :: bs)

end Sys2Proof.Machine
end

