-- ==== Sys2Proof/Machine/Cache.lean ====
section
/-! DEFINITION. The cache portion of a core (09 R166, R175, R176; 11 R206, R212): its capacity, filling and evicting lines,
pooled lines, self-invalidation, and the stores that write its words. -/

namespace Sys2Proof.Machine

/-- An absent word. -/
def CWord.empty : CWord := { st := .inv, data := 0, mask := 0, merge := false }

/-- `SPLIT.SPM` of the core's group. -/
def State.spmOf (s : State) (core : Nat) : Nat :=
  match s.group core with
  | some g => g.spm
  | none => 0

/-- Is the core's cache portion empty (11 R206)? -/
def State.noCache (s : State) (core : Nat) : Bool := s.spmOf core ≥ 24

/-- The lines that the cache portion has room for: 1,024 in each SRAM unit (11 R206). -/
def State.lineRoom (s : State) (core : Nat) : Nat := (24 - s.spmOf core) * 1024

/-! ## Fills in flight -/

/-- A load that leaves no copy of its word. -/
def LoadMsg.bare (m : LoadMsg) : LoadMsg := { m with fill := Option.none, fresh := false }

/-- Loads of the core that are still on their way leave no copy of the words that a test names: their value may be older
than what the core has since invalidated, stored or sent home. -/
def State.noFill (s : State) (core : Nat) (p : Nat → Bool) : State :=
  let g (m : LoadMsg) : LoadMsg := if m.who.core == core && p m.pa then m.bare else m
  let f (m : Msg) : Msg := match m with
    | .loadReq m => .loadReq (g m)
    | .fwdLoad m o => .fwdLoad (g m) o
    | .loadRep m r => .loadRep (g m) r
    | m => m
  { s with net := s.net.map f }

/-! ## Windows (09 R176) -/

/-- Does an INVWIN register's window contain a virtual address? -/
def inWindow (reg : W64) (va : Nat) : Bool :=
  let size := 2 ^ (16 + fld reg 59 55)
  let base := fld reg 54 16 * 2 ^ 16 / size * size
  bitOf reg 63 && base ≤ va && va < base + size

/-- The window bits that a fill records. -/
def Group.winBits (g : Group) (va : Nat) : BitVec 4 :=
  BitVec.ofNat 4 ((List.range 4).foldl (fun m k => if inWindow (vget 0 g.invwin k) va then m + 2 ^ k else m) 0)

/-- The windows that are enabled. -/
def Group.winOn (g : Group) : BitVec 4 :=
  BitVec.ofNat 4 ((List.range 4).foldl (fun m k => if bitOf (vget 0 g.invwin k) 63 then m + 2 ^ k else m) 0)

/-! ## Lines -/

/-- Does a line hold a word in a state? -/
def CLine.has (l : CLine) (st : WSt) : Bool := (List.range 8).any fun j => (vget CWord.empty l.words j).st == st

/-- Does a line hold no word at all? -/
def CLine.empty (l : CLine) : Bool := (List.range 8).all fun j => (vget CWord.empty l.words j).st == WSt.inv

/-- Apply a function to the words of a line. -/
def CLine.mapWords (f : CWord → CWord) (l : CLine) : CLine := 
  let at_ (j : Nat) : CWord := f (vget CWord.empty l.words j)
  { l with words := #v[at_ 0, at_ 1, at_ 2, at_ 3, at_ 4, at_ 5, at_ 6, at_ 7] }

/-- The write-backs of a line's G words, in ascending order. -/
def CLine.writeBacks (l : CLine) (core : Nat) (inc : BitVec 16) (line : Nat) (sel : CWord → Bool) : List Msg :=
  (List.range 8).filterMap fun j =>
    let w := vget CWord.empty l.words j
    if w.st == .g && sel w then some (.ownerData core inc (line * 64 + j * 8) (some w.data)) else Option.none

/-- The lines that a core's SRAM holds: its own, and those that members of its row have pooled there (11 R212). -/
def State.linesIn (s : State) (core : Nat) : Nat :=
  (s.core core).cache.length + s.cores.foldl (fun n (e : Nat × Core) => n + (e.2.pooled.filter fun x => x.2.holder == core).length) 0

/-- How many of them lie in one SRAM unit. -/
def State.linesInUnit (s : State) (core u : Nat) : Nat :=
  ((s.core core).cache.filter fun (e : Nat × CLine) => e.2.unitNo == u).length +
    s.cores.foldl (fun n (e : Nat × Core) => n + (e.2.pooled.filter fun x => x.2.holder == core && x.2.line.unitNo == u).length) 0

/-- An SRAM unit with room for a line: the cache's own placement (11 R206). -/
def State.placeUnit (s : State) (core : Nat) : Nat :=
  let l := (List.range 24).filter fun u => s.spmOf core ≤ u && s.linesInUnit core u < 1024
  (l[Config.freeNat s.freeCtr % l.length]?).getD 23

/-- The V lines of a core that a pooled line can replace (11 R212): those that hold neither a P nor a G word. -/
def Core.vLines (k : Core) : List Nat :=
  (k.cache.filter fun (e : Nat × CLine) => !e.2.has .p && !e.2.has .g).map (·.1)

/-- Where an evicted V line goes (11 R212): the next member of the row's pool that has a free line, or an unpooled V line to replace, or
nowhere. -/
def State.poolTarget (s : State) (core : Nat) : Option Nat :=
  let m := look 0 s.vpool (rowOf core)
  if !m.getLsbD (core % 8) then Option.none
  else (List.range 7).findSome? fun d =>
    let c := core / 8 * 8 + (core + d + 1) % 8
    if m.getLsbD (c % 8) && (s.linesIn c < s.lineRoom c || !(s.core c).vLines.isEmpty) then some c else Option.none

/-- Move an evicted V line into a member's cache portion, which replaces a V line of its own when none is free (11 R212). DESIGN CHOICE: which of
the member's unpooled V lines it replaces is free, and the replaced line is dropped, not pooled in its turn (notes/assumptions/28.md). Safe: R212
has pooling change timing only. -/
def State.poolLine (s : State) (core line c : Nat) (vs : CLine) : State :=
  let s := if s.linesIn c < s.lineRoom c then s
    else match (s.core c).vLines[Config.freeNat s.freeCtr % (s.core c).vLines.length]? with
      | some l =>
        let s := s.noFill c fun pa => pa / 64 == l
        { s.setCore c { s.core c with cache := del (s.core c).cache l } with freeCtr := s.freeCtr + 1 }
      | Option.none => s
  let k := s.core core
  { s.setCore core { k with pooled := set k.pooled line { holder := c, line := { vs with unitNo := s.placeUnit c } } } with
    freeCtr := s.freeCtr + 1 }

/-- Evict a line that holds no P word (09 R166): its G words go home, its V words are dropped or pooled. -/
def State.evictLine (s : State) (core line : Nat) : State :=
  let k := s.core core
  match find k.cache line with
  | Option.none => s
  | some l =>
    if l.has .p then s
    else
      let s := s.noFill core fun pa => pa / 64 == line
      let wb := l.writeBacks core k.inc line fun _ => true
      let s := { s with net := s.net ++ wb }
      let vs := l.mapWords fun w => if w.st == .v then w else CWord.empty
      let pool := if vs.has .v && !l.has .g then s.poolTarget core else Option.none
      let s := s.setCore core { k with cache := del k.cache line }
      match pool with
      | some c => s.poolLine core line c vs
      | Option.none => s

/-- A line that may be evicted to make room, the core's own or one that another member has pooled there: the spec leaves the choice open. -/
def State.victim (s : State) (core : Nat) : Option (Nat × Nat) :=
  let own := ((s.core core).cache.filter fun (e : Nat × CLine) => !e.2.has .p).map fun e => (core, e.1)
  let pooled := s.cores.flatMap fun (e : Nat × Core) => (e.2.pooled.filter fun x => x.2.holder == core).map fun x => (e.1, x.1)
  let l := own ++ pooled
  l[Config.freeNat s.freeCtr % l.length]?

/-- Make room in a core's cache portion: its own line is evicted, another member's pooled line dropped. -/
def State.makeRoom (s : State) (core : Nat) (v : Nat × Nat) : State :=
  let s := { s with freeCtr := s.freeCtr + 1 }
  if (find (s.core v.1).pooled v.2).any fun p => p.holder == core then
    s.setCore v.1 { s.core v.1 with pooled := del (s.core v.1).pooled v.2 }
  else s.evictLine core v.2

/-- Give the line of a physical address a place in the cache portion (09 R166): it stays where it is, comes back from the
pool, or takes a place, evicting a line when none is free; none while every candidate holds a P word. A line that holds no
word is filled anew by the access (R176). -/
def State.allocate (s : State) (core pa va reuse : Nat) : Option State :=
  let line := pa / 64
  let win := match s.group core with
    | some g => g.winBits va
    | Option.none => 0
  let k := s.core core
  match find k.cache line with
  | some l =>
    if l.empty then some (s.setCore core { k with cache := set k.cache line { l with va := w64 (va / 64 * 64), win := win, reuse := reuse } })
    else some s
  | Option.none =>
    let back := find k.pooled line
    let s := s.setCore core { k with pooled := del k.pooled line }
    let room (s : State) : Option State :=
      if s.linesIn core < s.lineRoom core then some s else (s.victim core).map (s.makeRoom core)
    (room s).map fun s =>
      let k := s.core core
      let l : CLine := match back with
        | some p => { p.line with unitNo := s.placeUnit core }
        | Option.none => { va := w64 (va / 64 * 64), win := win, unitNo := s.placeUnit core, reuse := reuse,
                           words := Vector.replicate 8 CWord.empty }
      { s.setCore core { k with cache := set k.cache line l } with freeCtr := s.freeCtr + 1 }

/-- A line that the core has pooled comes back when one of its words is wanted (11 R212). -/
def State.unpool (s : State) (core pa : Nat) : State :=
  if (find (s.core core).pooled (pa / 64)).isSome then (s.allocate core pa 0 0).getD s else s

/-- Fill a word with a clean copy (09 R166): a word that is I takes it, and one that is V takes the newer value, so that no later load reads
an older one (R173). Its line records the windows that contain the filling access's address (R176). -/
def State.fillWord (s : State) (core pa va reuse : Nat) (v : W64) : State :=
  if s.noCache core then s
  else match s.allocate core pa va reuse with
    | Option.none => s
    | some s =>
      let k := s.core core
      match k.cword pa with
      | some (_, w) =>
        if w.st == WSt.inv || w.st == WSt.v then
          let k := k.setCword pa { st := WSt.v, data := v, mask := 0, merge := false }
          let win := match s.group core with
            | some g => g.winBits va
            | Option.none => 0
          s.setCore core (match find k.cache (pa / 64) with
            | some l => { k with cache := set k.cache (pa / 64) { l with win := l.win ||| win } }
            | Option.none => k)
        else s
      | Option.none => s

/-- A load that fills nothing brings a V copy of its word up to date (09 R173), pooled or not. -/
def State.refreshWord (s : State) (core pa : Nat) (v : W64) : State :=
  let k := s.core core
  let fresh (w : CWord) : CWord := if w.st == WSt.v then { w with data := v } else w
  match k.cword pa, find k.pooled (pa / 64) with
  | some (_, w), _ => s.setCore core (k.setCword pa (fresh w))
  | Option.none, some p => s.setCore core { k with pooled := set k.pooled (pa / 64) { p with line := { p.line with
      words := vset p.line.words (pa / 8 % 8) (fresh (vget CWord.empty p.line.words (pa / 8 % 8))) } } }
  | Option.none, Option.none => s

/-! ## Invalidation (09 R175, R176; 10 R202; 11 R212) -/

/-- Make every V word of the lines that a test names I, pooled lines included. -/
def State.dropV (s : State) (core : Nat) (p : Nat → CLine → Bool) : State :=
  let s := s.noFill core fun _ => true
  let k := s.core core
  let f (e : Nat × CLine) : Nat × CLine :=
    if p e.1 e.2 then (e.1, e.2.mapWords fun w => if w.st == .v then CWord.empty else w) else e
  s.setCore core { k with cache := k.cache.map f, pooled := k.pooled.filter fun (e : Nat × PoolLine) => !p e.1 e.2.line }

/-- An acquire above core scope of an instruction that issued in step `stamp` (09 R175): every V word, or those of lines whose window bits meet a
window that is enabled for it (07 R130). -/
def State.selfInvalidate (s : State) (core stamp : Nat) : State :=
  match (s.group core).map fun g => g.asOf stamp with
  | some g => if g.winOn == 0 then s.dropV core fun _ _ => true else s.dropV core fun _ l => l.win &&& g.winOn != 0
  | Option.none => s

/-- An agent that acquires above `th` owes, at its releases, what other agents of its core have published, and their pending registrations, of
which it may have read the word (09 R178). -/
def State.joinCore (s : State) (w : Who) : State :=
  s.noteJrnl w.core (fun e => !e.owes w.issuer && (e.pub || e.parts.any fun p => p.kind matches .reg _)) fun e =>
    { e with also := e.also ++ [w.issuer] }

/-- An agent that has stored to a word which another agent of its core has pending owes its registration (09 R178). -/
def State.joinWord (s : State) (w : Who) (pa : Nat) : State :=
  s.noteJrnl w.core (fun e => !e.owes w.issuer && e.parts.any (JPart.isReg pa)) fun e => { e with also := e.also ++ [w.issuer] }

/-- An order's acquire at a scope (09 R175): `th` and `core` invalidate nothing. -/
def State.acquire (s : State) (core : Nat) (o : MemOrd) (sc : Scope) : State :=
  match o, sc with
  | .weak, _ | .rel, _ | _, .th => s
  | _, .core => s.joinCore s.cur
  | _, _ => (s.joinCore s.cur).selfInvalidate core (s.me.elim s.stepNo (·.issued))

/-- Make a V copy of one word I (09 R172), in a pooled line too (11 R212). -/
def State.dropWord (s : State) (core pa : Nat) : State :=
  let s := s.noFill core fun p => p / 8 == pa / 8
  let k := s.core core
  let k := match find k.pooled (pa / 64) with
    | some p => { k with pooled := set k.pooled (pa / 64) { p with line := { p.line with
        words := vset p.line.words (pa / 8 % 8) CWord.empty } } }
    | Option.none => k
  match k.cword pa with
  | some (_, w) => s.setCore core (if w.st == WSt.v then k.setCword pa CWord.empty else k)
  | Option.none => s.setCore core k

/-- Does the cache portion hold a V copy of a word? -/
def State.isClean (s : State) (core pa : Nat) : Bool :=
  match (s.core core).cword pa with
  | some (_, w) => w.st == WSt.v
  | Option.none => false

/-! ## Stores (09 R166, R167) -/

/-- The mask of `n` bytes from byte `b` of a word. -/
def byteMask (b n : Nat) : BitVec 8 := BitVec.ofNat 8 ((2 ^ n - 1) * 2 ^ b)

/-- The low `n` bytes of a value in place within a word from byte `b`. -/
def inPlace (b : Nat) (v : W64) : W64 := w64 (v.toNat * 256 ^ b)

/-- Does a store to this word need a registration: is it I or V (10 Table 3)? -/
def State.needsReg (s : State) (core pa : Nat) : Bool :=
  match (s.core core).cword pa with
  | some (_, w) => !(w.st == WSt.p || w.st == WSt.g)
  | Option.none => true

/-- Is a word P: its registration is not acknowledged? -/
def State.isPending (s : State) (core pa : Nat) : Bool :=
  match (s.core core).cword pa with
  | some (_, w) => w.st == WSt.p
  | Option.none => false

/-- Write `n` bytes of a tracked word in the cache portion (09 R166); a word that was I or V becomes P and its registration
is sent, with data when the store is narrow (R167). None while no place can be given to its line. -/
def State.cacheStore (s : State) (core pa va n : Nat) (v : W64) : Option State :=
  match s.allocate core pa va 0 with
  | Option.none => Option.none
  | some s =>
    let k := s.core core
    match k.cword pa with
    | Option.none => Option.none
    | some (_, w) =>
      let m := byteMask (pa % 8) n
      let data := mergeBytes w.data (inPlace (pa % 8) v) m
      if w.st == WSt.p || w.st == WSt.g then
        let mask := if w.merge then w.mask ||| m else w.mask
        some (s.setCore core (k.setCword pa { w with data := data, mask := mask }))
      else
        let narrow := n < 8
        let s := s.noFill core fun p => p / 8 == pa / 8
        let s := s.setCore core (k.setCword pa { st := WSt.p, data := data, mask := m, merge := narrow })
        some (s.send (.registration { core := core, inc := k.inc, pa := pa / 8 * 8, narrow := narrow }))

end Sys2Proof.Machine
end

