-- ==== Sys2Proof/Machine/Operands.lean ====
section
/-! DEFINITION. Operands: scalar registers with their liveness (07 R108 to R115), vector registers (08 R134 to R137),
immediates (07 R123, R126), and the checks that reading a register makes. -/

namespace Sys2Proof.Machine

/-! ## Scalar registers -/

/-- Is `xr` live? `x0` always is (R108). -/
def Thread.liveX (th : Thread) (r : Reg) : Bool := r == 0 || th.xlive.getLsbD r.toNat

/-- Read `xr`: `x0` and a dead register read as zero (R108, R111). -/
def Thread.rx (th : Thread) (r : Reg) : W64 := if r == 0 then 0 else if th.liveX r then vget 0 th.x r.toNat else 0

/-- One bit in place `k` of a 32-bit set. -/
def bit32 (k : Nat) : BitVec 32 := BitVec.ofNat 32 (2 ^ k)

/-- Write `xr`, which makes it live; a write to `x0` is discarded (R108, R111). -/
def Thread.wx (th : Thread) (r : Reg) (v : W64) : Thread :=
  if r == 0 then th else { th with x := vset th.x r.toNat v, xlive := th.xlive ||| bit32 r.toNat }

/-- Mark dead every register of `x1` to `x31` whose bit is set; a dead register holds zero (R111, R112). -/
def Thread.markDead (th : Thread) (mask : BitVec 32) : Thread :=
  let m := mask &&& ~~~(1 : BitVec 32)
  { th with xlive := th.xlive &&& ~~~m }

/-! ## Vector registers -/

/-- Read `vr`: a dead one reads as zero bits, raw, sidecar zero (08 R137). -/
def Thread.rv (th : Thread) (r : Reg) : VReg :=
  let v := vget { data := 0, tag := 0, side := 0, live := false } th.v r.toNat
  if v.live then v else { data := 0, tag := 0, side := 0, live := false }

/-- Is a format tag block-scaled (06 Table 4)? -/
def blockTag (tag : BitVec 4) : Bool := tag == 6 || tag == 7 || tag == 12

/-- The bits of a vector register as an instruction reads them: bits `[7:6]` of a T6 element are ignored (06 R91). -/
def VReg.bits (v : VReg) : W256 :=
  if v.tag == 7 then v.data &&& 0x3F3F3F3F3F3F3F3F3F3F3F3F3F3F3F3F3F3F3F3F3F3F3F3F3F3F3F3F3F3F3F3F else v.data
/-- Write `vr`, which makes it live (08 R136); the sidecar is zero unless the tag is block-scaled (06 R94). -/
def Thread.wv (th : Thread) (r : Reg) (data : W256) (tag : BitVec 4) (side : W64) : Thread :=
  { th with v := vset th.v r.toNat { data := data, tag := tag, side := if blockTag tag then side else 0, live := true } }

/-! ## DEAD_READ (07 R113, 08 R137) -/

/-- The lowest-numbered register of a list that satisfies a test. -/
def lowest (p : Reg → Bool) (rs : List Reg) : Option Nat :=
  rs.foldl (fun m r => if p r then (match m with
    | some k => some (min k r.toNat)
    | none => some r.toNat) else m) none

/-- `TVAL` of the DEAD_READ that reading these scalar and vector registers raises in user mode with `DRE` = 1. -/
def Thread.deadRead (th : Thread) (xs vs : List Reg) : Option W64 :=
  if th.kernel || !bitOf th.cvmask 0 then none
  else match lowest (fun r => !th.liveX r) xs, lowest (fun r => !(th.rv r).live) vs with
    | some k, _ => some (w64 k)
    | none, some k => some (w64 (k + 256))
    | none, none => none

/-- Raise DEAD_READ if reading these registers must; a feed core's registers are never dead (07 R115). -/
def needLive (s : State) (th : Thread) (xs vs : List Reg) : Do Unit :=
  if s.cur.issuer.isFeed then .ok ()
  else match th.deadRead xs vs with
    | some v => raise s .deadRead v
    | none => .ok ()

/-! ## Immediates -/

/-- The immediate of a form with `IMM16` or `IMM32` (07 R123). -/
def immA (i : ImmA) : W64 :=
  match i with
  | .i16 v => v.signExtend 64
  | .i32 v => v.signExtend 64

/-- The length in bytes of such a form (03 R34). -/
def sizeA (i : ImmA) : Nat :=
  match i with
  | .i16 _ => 8
  | .i32 _ => 12

/-- The immediate of `li` (07 R123). -/
def immL (i : ImmL) : W64 :=
  match i with
  | .i16 v => v.signExtend 64
  | .i32 v => v.signExtend 64
  | .i64 v => v

/-- The length in bytes of `li` (07 R123). -/
def sizeL (i : ImmL) : Nat :=
  match i with
  | .i16 _ => 8
  | .i32 _ => 12
  | .i64 _ => 16

/-! ## Checks that a meaning makes first (03 Table 6) -/

/-- ILL_FIELD in execution: `TVAL` holds the instruction's bits `[63:0]` (03 R49). -/
def illField {α : Type} (s : State) (i : Instr) : Do α := raise s .illField (lowBits i)

/-- The allotment check of 16 R274, at order 5: every tile and accumulator named is the group's. -/
def needAllot (s : State) (g : Group) (i : Instr) (tiles accs : List Reg) : Do Unit :=
  if (tiles.all fun t => t.toNat < g.nt) && (accs.all fun a => a.toNat < g.na) then .ok () else illField s i

/-- The mode check, at order 6: kernel mode only (03 R48). -/
def needKernel (s : State) (th : Thread) (i : Instr) : Do Unit := if th.kernel then .ok () else raise s .priv (lowBits i)

/-- Retire the instruction with its result in `xd`. -/
def State.retireX (s : State) (d : Reg) (v : W64) (len : Nat) : State :=
  match s.me with
  | some th => s.retire ((th.wx d v).advance len)
  | none => s

/-- Retire the instruction. -/
def State.retireNext (s : State) (len : Nat) : State :=
  match s.me with
  | some th => s.retire (th.advance len)
  | none => s

/-! ## Instructions of one thread's registers -/

/-- An instruction that reads scalar registers and changes only its thread (07 R120): the check of R113, then its effect, which
retires. -/
def scalar (s : State) (xs : List Reg) (f : Thread → Thread) : Host.Outcome State Fault Refusal :=
  finish s.cur (do
    let th ← getMe s
    needLive s th xs []
    .ok (s.retire (f th)))

/-- Such an instruction whose result goes to `xd`, and whose length is `len` bytes. -/
def toX (s : State) (len : Nat) (d : Reg) (xs : List Reg) (f : Thread → W64) : Host.Outcome State Fault Refusal :=
  scalar s xs fun th => (th.wx d (f th)).advance len

end Sys2Proof.Machine
end

