-- ==== Sys2Proof/Machine/Alu.lean ====
section
/-! DEFINITION. IALU, IALUI, IMUL and BITF (07 R121 to R125). Operands are the low n bits of their registers as numbers;
the result's low n bits are sign-extended (R121). -/

namespace Sys2Proof.Machine

/-- The low n bits of a register, as a number (R121). -/
def lo (n : Nat) (v : W64) : Nat := v.toNat % 2 ^ n

/-- An exact number modulo 2^n. -/
def modN (n : Nat) (z : Int) : Nat := (z % (2 : Int) ^ n).toNat

/-- `shl` (R122). -/
def shl (n a k : Nat) : Nat := a * 2 ^ k % 2 ^ n
/-- `shr` (R122). -/
def shr (a k : Nat) : Nat := a / 2 ^ k
/-- `sra`: the floor of the signed quotient (R122). -/
def sra (n a k : Nat) : Nat := modN n (sv n a / (2 : Int) ^ k)
/-- Rotation left within n bits (R122). -/
def rol (n a k : Nat) : Nat := a * 2 ^ (k % n) % 2 ^ n + a / 2 ^ (n - k % n)

/-- The signed quotient, toward zero (R124). -/
def divS (n a b : Nat) : Nat :=
  if b = 0 then 2 ^ n - 1
  else if sv n a = -(2 : Int) ^ (n - 1) ∧ sv n b = -1 then a
  else modN n ((sv n a).tdiv (sv n b))
/-- The signed remainder, with the sign of the dividend (R124). -/
def remS (n a b : Nat) : Nat :=
  if b = 0 then a
  else if sv n a = -(2 : Int) ^ (n - 1) ∧ sv n b = -1 then 0
  else modN n (sv n a - sv n b * (sv n a).tdiv (sv n b))

/-- The number of leading zero bits within n bits (R125). -/
def clz (n a : Nat) : Nat :=
  match n with
  | 0 => 0
  | k + 1 => if a / 2 ^ k % 2 = 1 then 0 else 1 + clz k a
/-- The number of trailing zero bits within n bits (R125). -/
def ctz (n a : Nat) : Nat :=
  match n with
  | 0 => 0
  | k + 1 => if a % 2 = 1 then 0 else 1 + ctz k (a / 2)
/-- The number of one bits within n bits (R125). -/
def popc (n a : Nat) : Nat :=
  match n with
  | 0 => 0
  | k + 1 => a % 2 + popc k (a / 2)
/-- The n bits in reverse order (R125). -/
def brev (n a : Nat) : Nat :=
  match n with
  | 0 => 0
  | k + 1 => a % 2 * 2 ^ k + brev k (a / 2)
/-- The bytes of an n-byte number in reverse order (R125). -/
def bswap (n a : Nat) : Nat :=
  match n with
  | 0 => 0
  | k + 1 => a % 256 * 256 ^ k + bswap k (a / 256)
/-- A number with its bits `[pos+len−1:pos]` replaced (R125). -/
def bfi (b a pos len : Nat) : Nat := b / 2 ^ (pos + len) * 2 ^ (pos + len) + a % 2 ^ len * 2 ^ pos + b % 2 ^ pos

/-- A register form of R121 and R122. -/
def alu (s : State) (sz : ISz) (d a b : Reg) (f : Nat → Nat → Nat → Nat) : Host.Outcome State Fault Refusal :=
  let n := sz.bitsN
  toX s 8 d [a, b] fun th => sext n (f n (lo n (th.rx a)) (lo n (th.rx b)))

/-- An immediate form of R123. -/
def aluImm (s : State) (sz : ISz) (d a : Reg) (imm : W64) (len : Nat) (f : Nat → Nat → Nat → Nat) :
    Host.Outcome State Fault Refusal :=
  let n := sz.bitsN
  toX s len d [a] fun th => sext n (f n (lo n (th.rx a)) (lo n imm))

/-- A one-operand form of R125: the value written is the given one. -/
def unary (s : State) (sz : ISz) (d a : Reg) (f : Nat → Nat → W64) : Host.Outcome State Fault Refusal :=
  let n := sz.bitsN
  toX s 8 d [a] fun th => f n (lo n (th.rx a))

/-! ## IALU (R122) -/

/-- `add`, R122. -/
def execAdd (sz : ISz) (d a b : Reg) (s : State) : Host.Outcome State Fault Refusal :=
  alu s sz d a b fun _ a b => a + b

/-- `sub`, R122. -/
def execSub (sz : ISz) (d a b : Reg) (s : State) : Host.Outcome State Fault Refusal :=
  alu s sz d a b fun n a b => a + 2 ^ n - b

/-- `and`, R122. -/
def execAnd (sz : ISz) (d a b : Reg) (s : State) : Host.Outcome State Fault Refusal :=
  alu s sz d a b fun _ a b => a &&& b

/-- `or`, R122. -/
def execOr (sz : ISz) (d a b : Reg) (s : State) : Host.Outcome State Fault Refusal :=
  alu s sz d a b fun _ a b => a ||| b

/-- `xor`, R122. -/
def execXor (sz : ISz) (d a b : Reg) (s : State) : Host.Outcome State Fault Refusal :=
  alu s sz d a b fun _ a b => a ^^^ b

/-- `andn`, R122. -/
def execAndn (sz : ISz) (d a b : Reg) (s : State) : Host.Outcome State Fault Refusal :=
  alu s sz d a b fun n a b => a &&& (2 ^ n - 1 - b)

/-- `shl`, R122. -/
def execShl (sz : ISz) (d a b : Reg) (s : State) : Host.Outcome State Fault Refusal :=
  alu s sz d a b fun n a b => shl n a (b % n)

/-- `shr`, R122. -/
def execShr (sz : ISz) (d a b : Reg) (s : State) : Host.Outcome State Fault Refusal :=
  alu s sz d a b fun n a b => shr a (b % n)

/-- `sra`, R122. -/
def execSra (sz : ISz) (d a b : Reg) (s : State) : Host.Outcome State Fault Refusal :=
  alu s sz d a b fun n a b => sra n a (b % n)

/-- `rol`, R122. -/
def execRol (sz : ISz) (d a b : Reg) (s : State) : Host.Outcome State Fault Refusal :=
  alu s sz d a b fun n a b => rol n a (b % n)

/-- `ror`, R122. -/
def execRor (sz : ISz) (d a b : Reg) (s : State) : Host.Outcome State Fault Refusal :=
  alu s sz d a b fun n a b => rol n a (n - b % n)

/-- `min`, R122. -/
def execMin (sz : ISz) (d a b : Reg) (s : State) : Host.Outcome State Fault Refusal :=
  alu s sz d a b fun n a b => if sv n a ≤ sv n b then a else b

/-- `max`, R122. -/
def execMax (sz : ISz) (d a b : Reg) (s : State) : Host.Outcome State Fault Refusal :=
  alu s sz d a b fun n a b => if sv n b ≤ sv n a then a else b

/-- `minu`, R122. -/
def execMinu (sz : ISz) (d a b : Reg) (s : State) : Host.Outcome State Fault Refusal :=
  alu s sz d a b fun _ a b => if a ≤ b then a else b

/-- `maxu`, R122. -/
def execMaxu (sz : ISz) (d a b : Reg) (s : State) : Host.Outcome State Fault Refusal :=
  alu s sz d a b fun _ a b => if b ≤ a then a else b

/-- `slt`, R122. -/
def execSlt (sz : ISz) (d a b : Reg) (s : State) : Host.Outcome State Fault Refusal :=
  alu s sz d a b fun n a b => if sv n a < sv n b then 1 else 0

/-- `sltu`, R122. -/
def execSltu (sz : ISz) (d a b : Reg) (s : State) : Host.Outcome State Fault Refusal :=
  alu s sz d a b fun _ a b => if a < b then 1 else 0

/-- `seq`, R122. -/
def execSeq (sz : ISz) (d a b : Reg) (s : State) : Host.Outcome State Fault Refusal :=
  alu s sz d a b fun _ a b => if a = b then 1 else 0

/-- `sel`, R122: `x[C]` is tested in all 64 bits. -/
def execSel (sz : ISz) (d a b c : Reg) (s : State) : Host.Outcome State Fault Refusal :=
  let n := sz.bitsN
  toX s 8 d [a, b, c] fun th => sext n (if th.rx c != 0 then lo n (th.rx a) else lo n (th.rx b))

/-! ## IALUI (R123) -/

/-- `addi`, R123. -/
def execAddi (sz : ISz) (d a : Reg) (imm : ImmA) (s : State) : Host.Outcome State Fault Refusal :=
  aluImm s sz d a (immA imm) (sizeA imm) fun _ a b => a + b

/-- `andi`, R123. -/
def execAndi (sz : ISz) (d a : Reg) (imm : ImmA) (s : State) : Host.Outcome State Fault Refusal :=
  aluImm s sz d a (immA imm) (sizeA imm) fun _ a b => a &&& b

/-- `ori`, R123. -/
def execOri (sz : ISz) (d a : Reg) (imm : ImmA) (s : State) : Host.Outcome State Fault Refusal :=
  aluImm s sz d a (immA imm) (sizeA imm) fun _ a b => a ||| b

/-- `xori`, R123. -/
def execXori (sz : ISz) (d a : Reg) (imm : ImmA) (s : State) : Host.Outcome State Fault Refusal :=
  aluImm s sz d a (immA imm) (sizeA imm) fun _ a b => a ^^^ b

/-- `shli`, R123. -/
def execShli (sz : ISz) (d a : Reg) (sh : BitVec 6) (s : State) : Host.Outcome State Fault Refusal :=
  unary s sz d a fun n a => sext n (shl n a sh.toNat)

/-- `shri`, R123. -/
def execShri (sz : ISz) (d a : Reg) (sh : BitVec 6) (s : State) : Host.Outcome State Fault Refusal :=
  unary s sz d a fun n a => sext n (shr a sh.toNat)

/-- `srai`, R123. -/
def execSrai (sz : ISz) (d a : Reg) (sh : BitVec 6) (s : State) : Host.Outcome State Fault Refusal :=
  unary s sz d a fun n a => sext n (sra n a sh.toNat)

/-- `li`, R123. -/
def execLi (sz : ISz) (d : Reg) (imm : ImmL) (s : State) : Host.Outcome State Fault Refusal :=
  toX s (sizeL imm) d [] fun _ => sext sz.bitsN (immL imm).toNat

/-- `pcadd`, R123: `PC` is the address of the `pcadd` itself. -/
def execPcadd (d : Reg) (imm : ImmA) (s : State) : Host.Outcome State Fault Refusal :=
  toX s (sizeA imm) d [] fun th => th.pc + immA imm

/-! ## IMUL (R124) -/

/-- `mul`, R124. -/
def execMul (sz : ISz) (d a b : Reg) (s : State) : Host.Outcome State Fault Refusal :=
  alu s sz d a b fun _ a b => a * b

/-- `mulh`, R124. -/
def execMulh (sz : ISz) (d a b : Reg) (s : State) : Host.Outcome State Fault Refusal :=
  alu s sz d a b fun n a b => modN n (sv n a * sv n b / (2 : Int) ^ n)

/-- `mulhu`, R124. -/
def execMulhu (sz : ISz) (d a b : Reg) (s : State) : Host.Outcome State Fault Refusal :=
  alu s sz d a b fun n a b => a * b / 2 ^ n

/-- `mulhsu`, R124. -/
def execMulhsu (sz : ISz) (d a b : Reg) (s : State) : Host.Outcome State Fault Refusal :=
  alu s sz d a b fun n a b => modN n (sv n a * (b : Int) / (2 : Int) ^ n)

/-- `div`, R124. -/
def execDiv (sz : ISz) (d a b : Reg) (s : State) : Host.Outcome State Fault Refusal :=
  alu s sz d a b fun n a b => divS n a b

/-- `divu`, R124. -/
def execDivu (sz : ISz) (d a b : Reg) (s : State) : Host.Outcome State Fault Refusal :=
  alu s sz d a b fun n a b => if b = 0 then 2 ^ n - 1 else a / b

/-- `rem`, R124. -/
def execRem (sz : ISz) (d a b : Reg) (s : State) : Host.Outcome State Fault Refusal :=
  alu s sz d a b fun n a b => remS n a b

/-- `remu`, R124. -/
def execRemu (sz : ISz) (d a b : Reg) (s : State) : Host.Outcome State Fault Refusal :=
  alu s sz d a b fun _ a b => if b = 0 then a else a % b

/-- `madd`, R124. -/
def execMadd (sz : ISz) (d a b c : Reg) (s : State) : Host.Outcome State Fault Refusal :=
  let n := sz.bitsN
  toX s 8 d [a, b, c] fun th => sext n (lo n (th.rx a) * lo n (th.rx b) + lo n (th.rx c))

/-! ## BITF (R125) -/

/-- `clz`, R125. -/
def execClz (sz : ISz) (d a : Reg) (s : State) : Host.Outcome State Fault Refusal :=
  unary s sz d a fun n a => w64 (clz n a)

/-- `ctz`, R125. -/
def execCtz (sz : ISz) (d a : Reg) (s : State) : Host.Outcome State Fault Refusal :=
  unary s sz d a fun n a => w64 (ctz n a)

/-- `popc`, R125. -/
def execPopc (sz : ISz) (d a : Reg) (s : State) : Host.Outcome State Fault Refusal :=
  unary s sz d a fun n a => w64 (popc n a)

/-- `bfx`, R125. -/
def execBfx (sz : ISz) (d a : Reg) (pos : BitVec 6) (len : BitVec 7) (s : State) : Host.Outcome State Fault Refusal :=
  unary s sz d a fun _ a => sext len.toNat (a / 2 ^ pos.toNat)

/-- `bfxu`, R125. -/
def execBfxu (sz : ISz) (d a : Reg) (pos : BitVec 6) (len : BitVec 7) (s : State) : Host.Outcome State Fault Refusal :=
  unary s sz d a fun _ a => w64 (a / 2 ^ pos.toNat % 2 ^ len.toNat)

/-- `bfi`, R125. -/
def execBfi (sz : ISz) (d a b : Reg) (pos : BitVec 6) (len : BitVec 7) (s : State) : Host.Outcome State Fault Refusal :=
  alu s sz d a b fun _ a b => bfi b a pos.toNat len.toNat

/-- `bswap`, R125. -/
def execBswap (sz : ISz) (d a : Reg) (s : State) : Host.Outcome State Fault Refusal :=
  unary s sz d a fun n a => sext n (bswap (n / 8) a)

/-- `brev`, R125. -/
def execBrev (sz : ISz) (d a : Reg) (s : State) : Host.Outcome State Fault Refusal :=
  unary s sz d a fun n a => sext n (brev n a)

/-- `sext`, R125. -/
def execSext (sz : ISz) (d a : Reg) (s : State) : Host.Outcome State Fault Refusal :=
  unary s sz d a fun n a => sext n a

/-- `zext`, R125. -/
def execZext (sz : ISz) (d a : Reg) (s : State) : Host.Outcome State Fault Refusal :=
  unary s sz d a fun _ a => w64 a

end Sys2Proof.Machine
end

