-- ==== Sys2Proof/Machine/Journal.lean ====
section
/-! DEFINITION. The posted-store journal (10 R193, R194), the waits of a release (09 R177), and the report of a refused
store (14 R263). -/

namespace Sys2Proof.Machine

/-- Is a core's every agent in a scope taken for an agent of core `w` (09 R174)? -/
def State.inScope (s : State) (w : Who) (sc : Scope) (core : Nat) : Bool :=
  match sc with
  | .th => false
  | .core => core == w.core
  | .g => core == w.core || match s.group w.core with
    | some g => match find s.gangs g.gang with
      | some k => k.cores.contains core
      | none => false
    | none => false
  | .cl => clusterOf core == clusterOf w.core
  | .mod | .sys => true

/-- A release at `core` or above covers what an agent owes: whoever acquires from it owes it too (09 R178). -/
def State.publish (s : State) (w : Who) : State := s.noteJrnl w.core (fun e => e.owes w.issuer && !e.pub) fun e => { e with pub := true }

/-- Does a release at a scope wait for a piece of the thread's own journal (09 R177)? -/
def State.covers (s : State) (w : Who) (sc : Scope) (p : JPart) : Bool :=
  match sc, p.kind with
  | .th, _ => false
  | .core, .reg _ => false
  | .core, .home _ _ | .core, .host _ => true
  | _, .far c _ => s.inScope w sc c
  | _, _ => true

/-- Does it wait for a piece of another agent's entry that happens before it (09 R178)? A `seq` access at `th` or `core` joins the one order of
all `seq` accesses, so it waits for such a registration. -/
def State.coversToo (s : State) (w : Who) (o : MemOrd) (sc : Scope) (p : JPart) : Bool :=
  match sc, p.kind with
  | .th, .reg _ | .core, .reg _ => o == .seq
  | _, _ => s.covers w sc p

/-- The bytes that a piece of a store or an access reaches: the base of a core's scratchpad or of physical memory, and the
offset. -/
def JKind.place (k : JKind) : Option Nat × Nat :=
  match k with
  | .reg pa | .host pa => (none, pa)
  | .home pa _ => (none, pa)
  | .far c off => (some c, off)

/-- Do two ranges of bytes meet? -/
def meets (a n b m : Nat) : Bool := a < b + m && b < a + n

/-- Does an access to `n` bytes at a place overlap a piece (R193)? -/
def JPart.overlaps (p : JPart) (place : Option Nat × Nat) (n : Nat) : Bool :=
  let q := p.kind.place
  let base := if p.kind matches .reg _ then q.2 + p.addr.toNat % 8 else q.2
  q.1 == place.1 && meets base p.n place.2 n

/-- The width code of a refused store (14 R263, coding I); a piece of another width reads as bytes. -/
def widthCode (n : Nat) : Nat :=
  match n with
  | 2 => 1 | 4 => 2 | 8 => 3 | _ => 0

/-- The first refused piece of an entry: the one whose address and data the handler sees (14 R264). -/
def JEnt.refusedPiece (e : JEnt) : Option JPart := e.parts.find? fun p => p.bad

/-- Alter the first refused piece. -/
def JEnt.alter (f : JPart → JPart) (e : JEnt) : JEnt :=
  match findIdx (fun p : JPart => p.bad) e.parts with
  | some (j, p) => { e with parts := setAt e.parts j (f p) }
  | none => e

/-- `TVAL` of STORE_REFUSED for an entry, with `VSEL` 0 (14 R263). -/
def JEnt.tval (e : JEnt) : W64 :=
  match e.state, e.refusedPiece with
  | .refused reason code, some p | .reported reason code, some p =>
    w64 (e.idx + reason * 2 ^ 8 + widthCode p.n * 2 ^ 12 + code * 2 ^ 16)
  | _, _ => w64 e.idx

/-- The entry with an index. -/
def Core.jent (k : Core) (idx : Nat) : Option JEnt := k.jrnl.find? fun e => e.idx == idx

/-- Change the entry with an index. -/
def Core.mapJent (k : Core) (idx : Nat) (f : JEnt → JEnt) : Core :=
  { k with jrnl := k.jrnl.map fun e => if e.idx == idx then f e else e }

/-- Free the entry with an index. -/
def Core.freeJent (k : Core) (idx : Nat) : Core := { k with jrnl := k.jrnl.filter fun e => e.idx != idx }

/-- An entry whose refusal is reported now (10 R194). -/
def JEnt.report (e : JEnt) : JEnt :=
  match e.state with
  | .refused r c => { e with state := .reported r c }
  | _ => e

/-- Is an entry refused, and its refusal not reported? -/
def JEnt.isRefused (e : JEnt) : Bool :=
  match e.state with
  | .refused _ _ => true
  | _ => false

/-- Is its refusal reported? -/
def JEnt.isReported (e : JEnt) : Bool :=
  match e.state with
  | .reported _ _ => true
  | _ => false

/-- Refuse pieces of an entry, with the reason and tag code of its first refusal. -/
def JEnt.refuse (sel : JPart → Bool) (reason code : Nat) (e : JEnt) : JEnt :=
  { e with
    parts := e.parts.map fun p => if sel p then { p with bad := true } else p,
    state := if e.state == .out || e.state == .late then .refused reason code else e.state }

/-- An entry whose refusal has been dealt with: its refused pieces leave, and nothing waits for others that are outstanding still (10 R194). -/
def JEnt.cleared (e : JEnt) : JEnt := { e with parts := e.parts.filter fun p => !p.bad, state := if e.state == .out then .out else .late }

/-- Raise STORE_REFUSED for a refused entry, precisely; its refusal is not held pending as well (10 R194, 14 R255). -/
def raiseRefused {α : Type} (s : State) (w : Who) (e : JEnt) : Do α :=
  let k := s.core w.core
  let s := s.setCore w.core (k.mapJent e.idx JEnt.report)
  let s := match s.agent w with
    | some th => s.setAgent w { th with pend := th.pend.filter fun a => a.jidx != some e.idx }
    | none => s
  .error (.trap s { cause := .storeRefused, tval := e.tval, tepc := none })

/-- Does something wait for the entry? One whose refusal is reported counts as complete, all of it (10 R194). -/
def JEnt.isWaited (e : JEnt) : Bool := !e.isReported && e.state != .late

/-- Wait until every piece of the thread's own journal that a test names is acknowledged; a refusal among them that is not
reported yet is raised (10 R194). -/
def waitJournal (s : State) (w : Who) (p : JPart → Bool) (why : Wait) : Do Unit :=
  let mine := (s.core w.core).jrnl.filter fun e => e.owner == w.issuer
  match mine.find? fun e => e.isRefused && e.parts.any fun q => q.bad && p q with
  | some e => raiseRefused s w e
  | none => if mine.any fun e => e.isWaited && e.parts.any fun q => !q.bad && p q then waitFor s why else .ok ()

/-- The wait of a release, `seq` or acquire-release access at a scope (09 R177), for what other agents of the core have done before it too
(R178). -/
def releaseWait (s : State) (w : Who) (o : MemOrd) (sc : Scope) : Do State :=
  match o with
  | .rel | .ar | .seq => do
    waitJournal s w (s.covers w sc) .memory
    if (s.core w.core).jrnl.any fun e => e.also.contains w.issuer && e.isWaited && e.parts.any fun q => !q.bad && s.coversToo w o sc q then
      waitFor s .memory
    else .ok (if sc == .th then s else s.publish w)
  | .weak | .acq => .ok s

/-- The indices of free entries, ascending (10 R193: 32 in all). -/
def Core.freeIdx (k : Core) : List Nat := (List.range 32).filter fun i => (k.jent i).isNone

/-- Clear the refusal of an entry (14 R265): an entry with no piece left frees. -/
def Core.clearJent (k : Core) (idx : Nat) : Core :=
  { k with jrnl := ((k.mapJent idx JEnt.cleared).jrnl).filter fun e => !e.parts.isEmpty }

/-- Enter a store's pieces in the journal. -/
def Core.enter (k : Core) (idx : Nat) (owner : Issuer) (rel : Nat) (parts : List JPart) : Core :=
  { k with jrnl := k.jrnl ++ [{ idx := idx, owner := owner, rel := rel, parts := parts, state := .out, pub := rel != 0, also := [] }] }

end Sys2Proof.Machine
end

