-- ==== Sys2Proof/Machine/Scratch.lean ====
section
/-! DEFINITION. The scratchpad (11): tags and window classes, the action table, one step on a word or on the words of a
vector window, and parking and waking (R222 to R225). -/

namespace Sys2Proof.Machine

/-- The access kinds of 11 Table 4. -/
inductive Kind where
  | ld | st | amo | egr | egw | rld | rst | feed
  deriving DecidableEq, Repr

/-- The code of a kind (11 Table 4). -/
def Kind.code (k : Kind) : Nat :=
  match k with
  | .ld => 0 | .st => 1 | .amo => 2 | .egr => 3 | .egw => 4 | .rld => 5 | .rst => 6 | .feed => 7

/-- The tag of a word. -/
def Group.tagOf (g : Group) (word : Nat) : Nat := (look 0 g.spTags word).toNat

/-- Does a TWIN register's window contain a word (R213)? -/
def twinHas (reg : W64) (word : Nat) : Bool := bitOf reg 63 && fld reg 17 0 ≤ word && word < fld reg 49 32

/-- The class of a word: the highest window that contains it, else 0 (R213). -/
def Group.classOf (g : Group) (word : Nat) : Nat :=
  if twinHas (vget 0 g.twin 3) word then 3
  else if twinHas (vget 0 g.twin 2) word then 2
  else if twinHas (vget 0 g.twin 1) word then 1
  else 0

/-- The active table's entry for an access (R215). -/
def Group.entry (g : Group) (k : Kind) (word : Nat) : Nat :=
  (look 0 g.act (g.classOf word * 128 + k.code * 16 + g.tagOf word)).toNat

/-- What an entry makes of an access (R216). -/
inductive Act where
  | pass (newtag : Option Nat) | wait | redirect (newtag : Nat) | trap (code : Nat) | drop
  deriving DecidableEq, Repr

/-- Does an access only write (R216)? -/
def SpReq.writes (q : SpReq) : Bool :=
  match q with
  | .store => true
  | _ => false

/-- The action of an entry (R216). -/
def actOf (entry : Nat) (q : SpReq) : Act :=
  match entry % 8 with
  | 0 => .pass none
  | 1 => .pass (some (bitsOf entry 6 3))
  | 2 => .wait
  | 3 => .redirect (bitsOf entry 6 3)
  | 4 => .trap (bitsOf entry 10 7)
  | 5 => if q.writes then .drop else .trap 15
  | _ => .trap 15

/-- Set the written bit of a word's 4 KiB unit (R210). -/
def Group.touch (g : Group) (word : Nat) : Group :=
  let u := word / 512
  { g with spWritten := if g.spWritten.contains u then g.spWritten else insertBy (u < ·) g.spWritten u }

/-- Change a word's tag (R210, R223): whether it changed. -/
def Group.setTag (g : Group) (word tag : Nat) : Group × Bool :=
  if g.tagOf word == tag then (g, false)
  else ({ g with spTags := put 0 g.spTags word (BitVec.ofNat 4 tag) }.touch word, true)

/-- The atomic functions (10 Table 4) on n bits. -/
def AmoOp.apply (o : AmoOp) (n old b c : Nat) : Nat :=
  match o with
  | .add => (old + b) % 2 ^ n
  | .and => old &&& b
  | .or => old ||| b
  | .xor => old ^^^ b
  | .min => if sv n old ≤ sv n b then old else b
  | .max => if sv n b ≤ sv n old then old else b
  | .minu => if old ≤ b then old else b
  | .maxu => if b ≤ old then old else b
  | .swap => b
  | .cas => if old = b then c else old

/-- Perform a part's access on the data at an offset: the group and the value read. -/
def Group.perform (g : Group) (q : SpReq) (off n : Nat) (data : W64) : Group × W64 :=
  let old := readN g.spData off n
  match q with
  | .load => (g, w64 old)
  | .reach _ => (g, 0)
  | .store => ({ g with spData := writeN g.spData off n data.toNat }.touch (off / 8), 0)
  | .amo o b c =>
    let v := o.apply (8 * n) old (b.toNat % 2 ^ (8 * n)) (c.toNat % 2 ^ (8 * n))
    ({ g with spData := writeN g.spData off n v }.touch (off / 8), w64 old)

/-- The outcome of a bank step: the group and the values read; a word to park on; or a TAG trap with its code, tag, class and word
(R217). `woken`: the words whose waiters are re-evaluated. -/
inductive SpOut where
  | ok (g : Group) (vals : Map W64) (woken : List Nat)
  | wait (word : Nat)
  | trap (code tag cls word : Nat) (woken : List Nat)
  deriving Repr

/-- The words that a step wakes: its own when its tag changed or its entry has `WAKE` (R223). -/
def wakes (word entry : Nat) (changed : Bool) : List Nat := if changed || bitsOf entry 11 11 == 1 then [word] else []

/-- The trap that a word causes: a step all the same of each of the window's words, whose `WAKE` counts but for a WAIT (R223). -/
def Group.tagTrap (g : Group) (k : Kind) (q : SpReq) (code word : Nat) (ws : List Nat) : SpOut :=
  .trap code (g.tagOf word) (g.classOf word) word
    ((ws.filter fun w => actOf (g.entry k w) q != .wait).flatMap fun w => wakes w (g.entry k w) false)

/-- Perform the parts of one word with the word's action, its tag included (R218). -/
def Group.stepAct (g : Group) (q : SpReq) (a : Act) (entry word : Nat) (parts : List SpPart) : Group × Map W64 × List Nat :=
  match a with
  | .pass t =>
    let (g, vals) := parts.foldl (fun (acc : Group × Map W64) (p : SpPart) =>
      let (g, v) := acc.1.perform q p.off p.n p.data
      (g, set acc.2 p.k v)) (g, [])
    match t with
    | some t =>
      let (g, ch) := g.setTag word t
      (g, vals, wakes word entry ch)
    | none => (g, vals, wakes word entry false)
  | _ => (g, parts.map fun p => (p.k, 0), wakes word entry false)

/-- The target of the redirect that a word holds, or none when its value fails the checks of R220. -/
def Group.target (g : Group) (word : Nat) : Option Nat :=
  let w := readN g.spData (word * 8) 8
  if w / 2 ^ 21 != 0 || w % 8 != 0 || w ≥ g.alloc then none else some (w / 8)

/-- Is a kind an engine's, whose accesses are not redirected (R220)? -/
def Kind.engine (k : Kind) : Bool := k == .egr || k == .egw

/-- One step of a scalar access (R218, R220); an engine's access is not redirected. -/
def Group.stepScalar (g : Group) (k : Kind) (q : SpReq) (p : SpPart) : SpOut :=
  let word := p.off / 8
  let e := g.entry k word
  match actOf e q with
  | .trap code => g.tagTrap k q code word [word]
  | .wait => .wait word
  | .redirect newtag =>
    match k.engine, g.target word with
    | true, _ | _, none => g.tagTrap k q 14 word [word]
    | false, some tw =>
        let te := g.entry k tw
        match actOf te q with
        | .redirect _ => g.tagTrap k q 14 tw [tw, word]
        | .trap code => g.tagTrap k q code tw [tw, word]
        | .wait => .wait tw
        | a =>
          let (g, vals, woken) := g.stepAct q a te tw [{ p with off := tw * 8 + p.off % 8 }]
          let (g, ch) := g.setTag word newtag
          .ok g vals (woken ++ wakes word e ch)
  | a =>
    let (g, vals, woken) := g.stepAct q a e word [p]
    .ok g vals woken

/-- The words that parts touch, ascending and without repeats. -/
def wordsOf (parts : List SpPart) : List Nat :=
  parts.foldl (fun ws p => let w := p.off / 8
                           if ws.contains w then ws else insertBy (w < ·) ws w) []

/-- One window of a vector access (R219): the lowest word that traps, else the lowest that waits, else every word. -/
def Group.stepVector (g : Group) (k : Kind) (q : SpReq) (parts : List SpPart) : SpOut :=
  let ws := wordsOf parts
  let trapOf (w : Nat) : Option (Nat × Nat) := match actOf (g.entry k w) q with
    | .trap code => some (w, code)
    | .redirect _ => some (w, 14)
    | _ => none
  match ws.findSome? trapOf with
  | some (w, code) => g.tagTrap k q code w ws
  | none => match ws.find? fun w => actOf (g.entry k w) q == .wait with
    | some w => .wait w
    | none =>
      let r := ws.foldl (fun (acc : Group × Map W64 × List Nat) w =>
        let e := g.entry k w
        let (g', vals, woken) := acc.1.stepAct q (actOf e q) e w (parts.filter fun p => p.off / 8 == w)
        (g', vals.foldl (fun m x => set m x.1 x.2) acc.2.1, acc.2.2 ++ woken)) (g, [], [])
      .ok r.1 r.2.1 r.2.2

/-- The words that an access's window takes in: those it touches, and the target of a redirect (R220). -/
def Group.window (g : Group) (k : Kind) (vec : Bool) (q : SpReq) (parts : List SpPart) : List Nat :=
  match vec, parts with
  | false, [p] => match actOf (g.entry k (p.off / 8)) q, g.target (p.off / 8) with
    | .redirect _, some t => [p.off / 8, t]
    | _, _ => [p.off / 8]
  | _, _ => wordsOf parts

/-- A step of an access: a vector's window, or a scalar's word. -/
def Group.spStep (g : Group) (k : Kind) (vec : Bool) (q : SpReq) (parts : List SpPart) : SpOut :=
  match vec, parts with
  | false, [p] => g.stepScalar k q p
  | _, _ => g.stepVector k q parts

/-- `TVAL` of TAG (R217). -/
def tagTval (core code tag cls word : Nat) (k : Kind) : W64 :=
  w64 (word * 8 + cls * 2 ^ 40 + k.code * 2 ^ 42 + tag * 2 ^ 45 + code * 2 ^ 49 + core * 2 ^ 53)

/-! ## Parking and waking (R222 to R225) -/

/-- The bank of a word (08 R141). -/
def bankOf (word : Nat) : Nat := word / 4 % 3

/-- The word that a requester is parked on. -/
def Waiter.word (q : Waiter) : Nat :=
  match q with
  | .own _ w _ | .far _ w | .job _ w _ => w

/-- The same requester, whatever word it names. -/
def Waiter.same (a b : Waiter) : Bool :=
  match a, b with
  | .own i _ _, .own j _ _ => i == j
  | .far m _, .far n _ => m == n
  | .job i _ _, .job j _ _ => i == j
  | _, _ => false

/-- A bank of a core. -/
def Core.bank (k : Core) (b : Nat) : Bank := vget Bank.init k.banks b
/-- Replace a bank of a core. -/
def Core.setBank (k : Core) (b : Nat) (v : Bank) : Core := { k with banks := vset k.banks b v }

/-- A re-evaluation of a word's waiters is due (R223, R224): each waiter in the order in which it parked, after those due. -/
def State.wake (s : State) (core word : Nat) : State :=
  let k := s.core core
  let b := k.bank (bankOf word)
  let ws := b.queue.filter fun q => q.word == word
  if ws.isEmpty then s
  else
    let s' := s.setCore core (k.setBank (bankOf word) { b with due := b.due ++ ws })
    if b.due.isEmpty then s'.soon (.event .waiterReevaluation core (bankOf word)) else s'

/-- Re-evaluate the waiters of several words. -/
def State.wakeAll (s : State) (core : Nat) (words : List Nat) : State := words.foldl (fun s w => s.wake core w) s

/-- Every waiter due on a word must be stepped before a new request on it (R224). -/
def State.bankBusy (s : State) (core word : Nat) : Bool := ((s.core core).bank (bankOf word)).due.any fun q => q.word == word

/-- Where a requester stands at a core's banks: parked, waiting for room in a full queue, or neither. -/
def State.isParked (s : State) (core : Nat) (q : Waiter) : Bool := (s.core core).banks.toList.any fun b => b.queue.any q.same
/-- Does it wait for room in a full queue? -/
def State.isRetrying (s : State) (core : Nat) (q : Waiter) : Bool := (s.core core).banks.toList.any fun b => b.retry.any q.same

/-- A requester leaves the banks' queues. -/
def State.unpark (s : State) (core : Nat) (q : Waiter) : State :=
  s.setCore core ((s.core core).mapBanks (Bank.keep fun x => !x.same q))

/-- Must a far store wait, since an entry that its core made earlier for one of its words is parked or waits for room (10 R193)? -/
def State.behind (s : State) (core : Nat) (q : Waiter) : Bool :=
  match q with
  | .far m _ =>
    let ws := wordsOf m.parts
    let earlier (x : Waiter) : Bool := match x with
      | .far n _ => n.who.core == m.who.core && !n.jidxs.isEmpty && n.stamp < m.stamp && (wordsOf n.parts).any ws.contains
      | _ => false
    !m.jidxs.isEmpty && ((s.core core).banks.toList.flatMap fun b => b.queue ++ b.retry).any earlier
  | _ => false

/-- A requester waits for room in a bank's queue, behind those that do. -/
def State.putRetry (s : State) (core : Nat) (q : Waiter) : State :=
  if s.isRetrying core q then s
  else
    let s := s.unpark core q
    let k := s.core core
    let b := k.bank (bankOf q.word)
    s.setCore core (k.setBank (bankOf q.word) { b with retry := b.retry ++ [q] })

/-- Park a requester on a word (R222): one that is parked keeps its place; one that finds the queue full, or older requesters
that wait for room, waits for room itself. -/
def State.park (s : State) (core : Nat) (q : Waiter) : State :=
  if ((s.core core).bank (bankOf q.word)).queue.any q.same then
    s.setCore core ((s.core core).mapBanks fun b => { b with queue := b.queue.map fun x => if x.same q then q else x })
  else
    let s := if s.isParked core q then s.unpark core q else s
    let k := s.core core
    let b := k.bank (bankOf q.word)
    let oldest := match b.retry.find? fun x => !s.behind core x with
      | some x => x.same q
      | none => true
    if b.queue.length < 16 && oldest then
      s.setCore core (k.setBank (bankOf q.word) { b with queue := b.queue ++ [q], retry := b.retry.filter fun x => !x.same q })
    else if b.retry.any q.same then s
    else (s.unpark core q).putRetry core q

/-- The parts that lie in words which the scratchpad has lost since their access issued (R208, 07 R130): their accesses complete, with no
word to read or write. The values read are not stated: free values. -/
def State.lostVals (s : State) (parts : List SpPart) : Map W64 × State :=
  parts.foldl (fun (acc : Map W64 × State) p =>
    let (v, s) := acc.2.freeWord
    (set acc.1 p.k v, s)) ([], s)

/-- A redirect to a word that the scratchpad has lost since the access issued (R208, 07 R130): the word that holds it and its new tag. The access
completes under its old size, with no word to read or write. -/
def Group.lostTarget (g : Group) (alloc : Nat) (k : Kind) (vec : Bool) (q : SpReq) (parts : List SpPart) : Option (Nat × Nat) :=
  match vec, parts with
  | false, [p] => match actOf (g.entry k (p.off / 8)) q, g.target (p.off / 8) with
    | .redirect newtag, some t => if !k.engine && alloc ≤ t * 8 then some (p.off / 8, newtag) else none
    | _, _ => none
  | _, _ => none

/-- The group after a step of an access that completes under older register values: the present ones stay. -/
def Group.present (g h : Group) : Group := { h with twin := g.twin, invwin := g.invwin, spm := g.spm }

/-- The outcome of an access at a core's bank. -/
inductive BankOut where
  | ok (s : State) (vals : Map W64) | wait (s : State) | trap (s : State) (code tag cls word : Nat)
  deriving Repr

/-- An access of a requester at a core's bank (R218 to R224), which issued in step `stamp`: `again` when its re-evaluation is in progress.
A parked requester is looked up at its re-evaluation only, and a new one waits for the re-evaluations due on its words. -/
def State.bankStep (s : State) (core : Nat) (g : Group) (q : Nat → Waiter) (again : Bool) (stamp : Nat) (k : Kind) (vec : Bool)
    (r : SpReq) (parts : List SpPart) : BankOut :=
  let parked := s.isParked core (q 0)
  let v := g.asOf stamp
  let here := parts.filter fun p => p.off < g.alloc
  let lost := s.lostVals (parts.filter fun p => g.alloc ≤ p.off)
  if parked && !again then .wait s
  else if !parked && (v.window k vec r here).any (s.bankBusy core) then .wait s
  else if here.isEmpty then .ok (lost.2.unpark core (q 0)) lost.1
  else match v.lostTarget g.alloc k vec r here with
  | some (word, newtag) =>
    let (h, ch) := g.setTag word newtag
    let (vals, t) := s.lostVals parts
    .ok (((t.unpark core (q 0)).setGroup core h).wakeAll core (wakes word (v.entry k word) ch)) vals
  | none => match v.spStep k vec r here with
    | .trap code tag cls word woken => .trap ((s.unpark core (q 0)).wakeAll core woken) code tag cls word
    | .wait word => .wait (s.park core (q word))
    | .ok h vals woken =>
      .ok (((lost.2.unpark core (q 0)).setGroup core (g.present h)).wakeAll core woken)
        (lost.1.foldl (fun m x => set m x.1 x.2) vals)

/-- A waiter that is due is stepped now. -/
def State.popDue (s : State) (core : Nat) (q : Waiter) : State :=
  s.setCore core ((s.core core).mapBanks fun b => match findIdx q.same b.due with
    | some (j, _) => { b with due := dropAt b.due j }
    | none => b)

end Sys2Proof.Machine
end

