-- ==== Sys2Proof/Machine/Access.lean ====
section
/-! DEFINITION. How an instruction reaches memory (10): regions and checks (R184 to R187), the parts of an access, loads,
stores and AMOs with their orders, and what each asks of other agents. -/

namespace Sys2Proof.Machine

/-- The regions of 10 Table 1. -/
inductive Region where
  | near | far (core : Nat) | global | nowhere
  deriving DecidableEq, Repr

/-- The first address of the far window (10 Table 1). -/
def farBase : Nat := 0x4000000000

/-- The region of an address (R184). -/
def regionOf (a : Nat) : Region :=
  if a < 0x180000 then .near
  else if farBase ≤ a && a < farBase + 2 ^ 32 then .far ((a - farBase) / 2 ^ 21)
  else if a < 2 ^ 55 then .global
  else .nowhere

/-- Bytes in a row that one access, or one lane of it, touches: its address, how many, the alignment it needs, its data (for a
store), and the journal entry it shares with other runs. -/
structure Run where
  ea    : Nat
  n     : Nat
  align : Nat
  data  : Nat
  deriving DecidableEq, Repr

/-- The last byte of a run. -/
def Run.last (r : Run) : Nat := (r.ea + r.n - 1) % 2 ^ 64

/-- The lower of an address and the lowest so far. -/
def lower (m : Option Nat) (a : Option Nat) : Option Nat :=
  match m, a with
  | none, a => a
  | m, none => m
  | some x, some y => some (min x y)

/-- The lowest failing address of a list of runs. -/
def lowestOf (f : Run → Option Nat) (rs : List Run) : Option Nat := rs.foldl (fun m r => lower m (f r)) none

/-- Item 1 of R185. -/
def Run.crossing (r : Run) : Option Nat :=
  let a := regionOf r.ea
  let b := regionOf r.last
  if a != b && a != .nowhere && b != .nowhere then some r.ea else none

/-- Item 2 of R185. -/
def Run.noRegion (r : Run) : Option Nat :=
  if regionOf r.ea == .nowhere then some r.ea
  else if regionOf r.last == .nowhere then some (2 ^ 55)
  else none

/-- Item 3 of R185. -/
def Run.beyond (alloc : Nat) (r : Run) : Option Nat :=
  if regionOf r.ea == .near && alloc < r.ea + r.n then some (max r.ea alloc) else none

/-- Item 5 of R185: the lowest address of a run whose translation fails, with its cause. -/
def State.runFault (s : State) (core dom : Nat) (kernel : Bool) (a : Acc) (r : Run) : Option (Nat × Cause) :=
  if regionOf r.ea != .global then none
  else
    let one (va : Nat) : Option (Nat × Cause) := match s.xlate (s.coreCaches core) dom va kernel a with
      | .ok _ => none
      | .error c => some (va, c)
    match one r.ea with
    | some f => some f
    | none => if r.last / 2 ^ 16 != r.ea / 2 ^ 16 then one (r.last / 2 ^ 16 * 2 ^ 16) else none

/-- The lowest of translation faults. -/
def lowestFault (m f : Option (Nat × Cause)) : Option (Nat × Cause) :=
  match m, f with
  | none, f => f
  | m, none => m
  | some x, some y => if y.1 < x.1 then some y else some x

/-- Does a run touch a watched byte of its kind (25 R419)? The lowest one. -/
def Watch.hit (w : Watch) (store : Bool) (r : Run) : Option Nat :=
  let on := if store then w.kind / 2 % 2 == 1 else w.kind % 2 == 1
  if on && meets r.ea r.n w.base.toNat w.len then some (max r.ea w.base.toNat) else none

/-- The lowest watched byte that an access of a core's thread touches. -/
def State.watched (s : State) (w : Who) (load store : Bool) (rs : List Run) : Option Nat :=
  if w.issuer.isFeed then none
  else
    let ws := (s.core w.core).watch
    (List.range 4).foldl (fun m j =>
      let x := vget { kind := 0, base := 0, len := 0 } ws j
      let m := if load then lower m (lowestOf (x.hit false) rs) else m
      if store then lower m (lowestOf (x.hit true) rs) else m) none

/-- The checks of the place of an access that the core makes before any byte moves (R185, R186), in order. -/
def checkPlace (s : State) (w : Who) (g : Group) (th : Thread) (a : Acc) (rs : List Run) : Do Unit :=
  match lowestOf Run.crossing rs, lowestOf Run.noRegion rs, lowestOf (Run.beyond g.alloc) rs with
  | some x, _, _ => raise s .align (w64 x)
  | none, some x, _ => raise s .xlateNone (w64 x)
  | none, none, some x => raise s .xlateNone (w64 x)
  | none, none, none =>
    match rs.foldl (fun m r => lowestFault m (s.runFault w.core g.dom th.kernel a r)) none with
    | some (x, c) => raise (s.forget w.core g.dom x) c (w64 (s.faultAt (s.coreCaches w.core) g.dom c x))
    | none =>
      match lowestOf (fun r => if r.ea % r.align != 0 then some r.ea else none) rs with
      | some x => raise s .align (w64 x)
      | none => .ok ()

/-- The watchpoints on the bytes of an access (25 R419). -/
def watchRuns (s : State) (w : Who) (a : Acc) (rs : List Run) : Do Unit :=
  match s.watched w (a == .read || a == .both) (a == .write || a == .both) rs with
  | some x => raise s .brk (w64 (x + 2 ^ 63))
  | none => .ok ()

/-- The checks that the core makes of a whole access (R185, R186), and its watchpoints (25 R419). -/
def checkRuns (s : State) (w : Who) (g : Group) (th : Thread) (a : Acc) (rs : List Run) : Do Unit := do
  checkPlace s w g th a rs
  watchRuns s w a rs

/-- The check of a far-window access at the target core (R185 item 4, R209), which issued in step `stamp`: its offset lies in the near
window and the allocation of a resident group of the same domain. -/
def State.farRefusal (s : State) (dom core off n stamp : Nat) : Option Cause :=
  if (s.core core).fenced || (s.core core).dead then some .xlateNone
  else match s.group core with
    | none => some .xlateNone
    | some g =>
      if off + n > 0x180000 || off + n > g.allocOf stamp then some .xlateNone
      else if g.dom != dom then some .xlatePerm
      else none

/-- What a core does with an arrival: it takes it, its router holds it, or it is refused. -/
inductive Arrive where
  | take | hold (gang gidx : Nat) | refuse
  deriving DecidableEq, Repr

/-- From the agreed tick of a time slice or pre-emption arrivals are held, in a buffer of 64 messages; from that of a
`co.suspend` they are refused. -/
def State.arrive (s : State) (core : Nat) : Arrive :=
  match s.group core with
  | none => .take
  | some g => match find s.gangs g.gang with
    | some { susp := some u, .. } =>
      if s.gtick < u.agreed then .take
      else if u.why == 0 then .refuse
      else if (s.spill.filter fun h => h.row == rowOf core).length < 64 then .hold g.gang g.gidx
      else .refuse
    | _ => .take

/-- Hold a message for a suspended group (20 R360). -/
def State.holdMsg (s : State) (gang gidx core : Nat) (m : Msg) : State :=
  { s with spill := s.spill ++ [{ gang := gang, gidx := gidx, row := rowOf core, msg := m }] }

/-- The number of the answer that says where a held access acts (20 R360): no instruction numbers a part or a word of its own so. -/
def reachPart : Nat := 4096

/-- The access of an instruction that acts at a far core itself is held by the router there: it goes on with the core that answers (20 R360). -/
def reachLater {α : Type} (s : State) (th : Thread) (g : Group) (gang gidx core off n : Nat) : Do α :=
  let (seq, s) := s.fresh
  let m : FarMsg := { who := s.cur, stamp := th.issued, seq := seq, jidxs := [], target := core, dom := g.dom, vec := false,
                      req := .reach none, parts := [{ k := reachPart, off := off, n := n, data := 0 }] }
  .error (.wait ((s.holdMsg gang gidx core (.far m)).setMe { th with wait := .memory, prog := { th.prog with
    seq := seq, asked := [reachPart], stage := if th.prog.stage == 0 then 22 else th.prog.stage, note := 0 } }))

/-- The access of an instruction that acts at a far core itself: the core where it acts, once its router does not hold it (20 R360). It
raises the cause of the lowest byte that the target core refuses (R185 item 4). -/
def farPlace (s : State) (g : Group) (core off n : Nat) : Do Nat := do
  let th ← getMe s
  let addr (o : Nat) : W64 := w64 (farBase + core * 2 ^ 21 + o)
  let at_ := ((find th.prog.got reachPart).map (·.toNat)).getD core
  match th.prog.asked.contains reachPart, th.prog.reply with
  | true, _ => waitHeld s .memory
  | false, some (.trap c v) => raise s c v
  | false, _ => match s.arrive at_, s.farRefusal g.dom at_ off n th.issued with
    | .hold gang gidx, _ => reachLater s th g gang gidx at_ off n
    | .refuse, _ => raise s .xlateNone (addr off)
    | .take, none => .ok at_
    | .take, some c =>
      let first := (List.range n).find? fun k => (s.farRefusal g.dom at_ (off + k) 1 th.issued).isSome
      raise s c (addr (off + first.getD 0))

/-- Where a byte of a checked access is. -/
def State.tgtOf (s : State) (w : Who) (g : Group) (th : Thread) (a : Acc) (ea : Nat) : Option Tgt :=
  match regionOf ea with
  | .near => some (.near ea)
  | .far c => some (.far c (ea % 2 ^ 21))
  | .global => match s.xlate (s.coreCaches w.core) g.dom ea th.kernel a with
    | .ok p => some (.mem p.pa p.trk)
    | .error _ => none
  | .nowhere => none

/-- The pieces of a run that lie in one aligned word each: address, place in the run, width. -/
def piecesFrom (fuel ea off n : Nat) : List (Nat × Nat × Nat) :=
  match fuel with
  | 0 => []
  | f + 1 =>
    if n = 0 then []
    else
      let m := min n (8 - ea % 8)
      (ea, off, m) :: piecesFrom f (ea + m) (off + m) (n - m)

/-- The parts of the runs of an access, numbered from `k`. -/
def State.partsFrom (s : State) (w : Who) (g : Group) (th : Thread) (a : Acc) (k j : Nat) (rs : List Run) : List Part :=
  match rs with
  | [] => []
  | r :: rest =>
    let ps := (piecesFrom r.n r.ea 0 r.n).filterMap fun p => (s.tgtOf w g th a p.1).map fun t => (p, t)
    let nums := List.range ps.length
    let mine := (ps.zip nums).map fun x : ((Nat × Nat × Nat) × Tgt) × Nat =>
      { k := k + x.2, run := j, at_ := x.1.1.2.1, ea := x.1.1.1, n := x.1.1.2.2,
        data := w64 (r.data / 256 ^ x.1.1.2.1 % 256 ^ x.1.1.2.2), tgt := x.1.2 : Part }
    mine ++ State.partsFrom s w g th a (k + ps.length) (j + 1) rest

/-- The value of each run from the values of its parts. -/
def runVals (ps : List Part) (got : Map W64) (n : Nat) : List Nat :=
  (List.range n).map fun j =>
    ((ps.filter fun p => p.run == j).map fun p => (look 0 got p.k).toNat % 256 ^ p.n * 256 ^ p.at_).foldl (· + ·) 0

/-- The place of a part, for the overlaps of R193. -/
def Part.place (core : Nat) (p : Part) : Option Nat × Nat :=
  match p.tgt with
  | .near off => (some core, off)
  | .far c off => (some c, off)
  | .mem pa _ => (none, pa)

/-- The near parts of an access. -/
def nearParts (ps : List Part) : List SpPart :=
  ps.filterMap fun p => match p.tgt with
    | .near off => some { k := p.k, off := off, n := p.n, data := p.data }
    | _ => none

/-- The far cores of an access, without repeats. -/
def farCores (ps : List Part) : List Nat :=
  ps.foldl (fun cs p => match p.tgt with
    | .far c _ => if cs.contains c then cs else cs ++ [c]
    | _ => cs) []

/-- The parts in one far core's scratchpad. -/
def farParts (ps : List Part) (core : Nat) : List SpPart :=
  ps.filterMap fun p => match p.tgt with
    | .far c off => if c == core then some { k := p.k, off := off, n := p.n, data := p.data } else none
    | _ => none

/-- Wait for the overlapping pieces of the thread's own journal (R193). -/
def overlapWait (s : State) (w : Who) (ps : List Part) : Do Unit :=
  waitJournal s w (fun q => ps.any fun p => q.overlaps (p.place w.core) p.n) .memory

/-- The near kind of an access (R187). -/
def nearKind (w : Who) (k : Kind) : Kind := if w.issuer.isFeed then .feed else k

/-- An agent's access to words of its own scratchpad. -/
def ownWaiter (w : Who) (ps : List SpPart) (word : Nat) : Waiter := .own w.issuer word ps

/-- Step an agent's own scratchpad words (R218, R219): the values, a wait, or TAG. An access that parks has issued. -/
def ownBank (s : State) (w : Who) (g : Group) (th : Thread) (k : Kind) (vec : Bool) (r : SpReq) (ps : List SpPart) :
    Do (State × Map W64) :=
  if ps.isEmpty then .ok (s, [])
  else match s.bankStep w.core g (ownWaiter w ps) (th.prog.note == 1) th.issued (nearKind w k) vec r ps with
    | .ok s vals => .ok (s, vals)
    | .wait s => if s.isParked w.core (ownWaiter w ps 0) then waitHeld s .tag else waitFor s .memory
    | .trap s code tag cls word => raise s .tag (tagTval w.core code tag cls word (nearKind w k))

/-! ## Loads (R189, R190, R199) -/

/-- How a load asks the cache portion and the home for one word: a hit's value, or a wait for merge data, or a miss. -/
inductive Hit where
  | hit (v : W64) | merge | miss
  deriving DecidableEq, Repr

/-- Look a tracked word up in the cache portion (09 R166). -/
def State.lookup (s : State) (core pa : Nat) : Hit :=
  match (s.core core).cword pa with
  | none => .miss
  | some (_, w) =>
    match w.st with
    | .inv => .miss
    | .v => .hit w.data
    | .p | .g => if w.merge then .merge else .hit w.data

/-- A `seq` load takes its place in the one order of all `seq` accesses (09 R178): the core evicts a V copy of the word first (R166), which may be
older than an earlier `seq` access of the thread (notes/assumptions/32.md). -/
def State.seqEvict (s : State) (core pa : Nat) (o : MemOrd) : State :=
  if o == .seq && s.isClean core pa then s.dropWord core pa else s

/-- What a load's part comes to at issue. -/
inductive LoadOut where
  | got (v : W64) | asked | later
  deriving Repr

/-- The load request of an agent for `k` of request `seq`. -/
def State.loadMsg (s : State) (w : Who) (seq k pa : Nat) (va : W64) : LoadMsg :=
  { who := w, inc := (s.core w.core).inc, seq := seq, k := k, pa := pa, va := va, untracked := false, sys := false, fill := none,
    fresh := true }

/-- Issue one global part of a load. One that allocates takes its line's place now, and waits while there is none (09 R166). A `seq` load of a P
word waits until the store is registered, so that every core finds the two in one order (R178). -/
def State.loadPart (s : State) (w : Who) (seq : Nat) (o : MemOrd) (sc : Scope) (reuse : Nat) (p : Part) (pa : Nat) (trk : Bool) :
    State × LoadOut :=
  let sys := sc == .sys && (o == .acq || o == .seq)
  let m := { s.loadMsg w seq p.k pa (w64 p.ea) with untracked := !trk, sys := sys }
  if isHost pa || !trk then (s.send (.loadReq { m with fresh := false }), .asked)
  else
    let s := (s.unpool w.core pa).seqEvict w.core pa o
    match s.lookup w.core pa with
    | .hit v => if o == .seq && s.isPending w.core pa then (s, .later) else (s, .got (w64 (v.toNat / 256 ^ (pa % 8) % 256 ^ p.n)))
    | .merge => (s, .later)
    | .miss =>
      if reuse == 7 || s.noCache w.core then (s.send (.loadReq m), .asked)
      else match s.allocate w.core pa p.ea reuse with
        | some s => (s.send (.loadReq { m with fill := some reuse }), .asked)
        | none => (s, .later)

/-- The step in which an agent's instruction issued (07 R130). -/
def State.issuedBy (s : State) (w : Who) : Nat :=
  match s.agent w with
  | some th => th.issued
  | none => 0

/-- Issue the far parts of a load: one request for each core. -/
def State.loadFar (s : State) (w : Who) (g : Group) (seq : Nat) (vec : Bool) (ps : List Part) : State :=
  (farCores ps).foldl (fun s c => s.send (.far
    { who := w, stamp := s.issuedBy w, seq := seq, jidxs := [], target := c, dom := g.dom, vec := vec, req := .load,
      parts := farParts ps c })) s

/-- Issue the parts of a load that have not issued: every far request, and every global part that does not wait. -/
def State.issueLoads (s : State) (w : Who) (g : Group) (seq : Nat) (vec : Bool) (o : MemOrd) (sc : Scope) (reuse : Nat)
    (ps : List Part) : State × Map W64 × List Nat :=
  let s := s.loadFar w g seq vec ps
  let far := ps.filterMap fun p => if p.tgt matches .far _ _ then some p.k else none
  ps.foldl (fun (acc : State × Map W64 × List Nat) p => match p.tgt with
    | .mem pa trk => match acc.1.loadPart w seq o sc reuse p pa trk with
      | (s, .got v) => (s, set acc.2.1 p.k v, acc.2.2)
      | (s, .asked) => (s, acc.2.1, acc.2.2 ++ [p.k])
      | (s, .later) => (s, acc.2)
    | _ => acc) (s, [], far)

/-- The parts of an instruction that have neither a value nor a request. -/
def Prog.todo (q : Prog) (ps : List Part) : List Part :=
  ps.filter fun p => !q.asked.contains p.k && (find q.got p.k).isNone

/-- Merge values that have been bound. -/
def bind (a b : Map W64) : Map W64 := b.foldl (fun m x => set m x.1 x.2) a

/-- Has an access issued: it has asked another agent for something, or is parked on a scratchpad word (11 R222)? -/
def Prog.hasIssued (q : Prog) : Bool := q.seq != 0 || q.stage == 16

/-- Is an access that a thread waits for parked on a scratchpad word (11 R222), its core's or a far one's? -/
def State.waitsParked (s : State) (w : Who) : Bool :=
  s.cores.any fun (e : Nat × Core) => e.2.banks.toList.any fun b => b.queue.any fun q => !q.notOf w e.1

/-- Has another agent answered a request of the agent's instruction with an effect that must not happen twice (07 R120)? -/
def State.answered (s : State) (w : Who) (q : Prog) : Bool :=
  s.net.any fun m => match m with
    | .amoRep v _ seq _ _ => v == w && seq == q.seq
    | _ => false

/-- Must an instruction go on before anything is taken: it has an answer, or has had an effect? An instruction that only waits,
whatever it has read or stored, is discarded and executes again (14 R254, 07 R120, 10 R205); stages from 16 up are such waits, until the
answer to the request of stage 18 is there, or every acknowledgement of the ordered store of stage 19. -/
def State.underway (s : State) (w : Who) (q : Prog) : Bool :=
  q.reply.isSome || (q.stage != 0 && q.stage < 16 && !s.waitsParked w) || (q.stage == 18 && q.asked.isEmpty) ||
    (q.stage == 19 && q.asked.isEmpty && !(s.core w.core).jrnl.any fun e => e.owner == w.issuer && e.rel == q.seq) ||
    (q.seq != 0 && s.answered w q)

/-- The parts of an access, translated once, when it issues (07 R130, 13 R238): they stay with the instruction. -/
def Prog.partsOr (q : Prog) (ps : List Part) : List Part := if q.hasIssued then q.parts else ps

/-- Keep the parts of an access with the instruction that issues now. -/
def State.holdParts (s : State) (w : Who) (ps : List Part) : State :=
  match s.agent w with
  | some th => s.setAgent w { th with prog := { th.prog with parts := ps } }
  | none => s

/-- Keep an issued instruction's progress and wait. -/
def waitIssued {α : Type} (s : State) (w : Who) (seq : Nat) (asked : List Nat) (got : Map W64) (miss : Bool) (why : Wait) : Do α :=
  match s.agent w with
  | some th => .error (.wait (s.setAgent w { th with wait := why, prog := { th.prog with
      seq := seq, asked := asked, got := got, misses := max th.prog.misses (natOf miss), note := 0 } }))
  | none => .error (.fault .noAgent)

/-- Is a part one of global memory? -/
def Part.isGlobal (p : Part) : Bool := p.tgt matches .mem _ _

/-- Note global loads of an agent's instruction that missed the cache portion, and that hit it: they count when it retires (25 R410). -/
def State.noteLoads (s : State) (w : Who) (misses hits : Nat) : State :=
  match s.agent w with
  | some th => s.setAgent w { th with prog := { th.prog with misses := th.prog.misses + misses, hits := th.prog.hits + hits } }
  | none => s

/-- Note a completed load as a hit, if a part of it is one of global memory and the core asked no other for any. -/
def State.noteLoad (s : State) (w : Who) (ps : List Part) (miss : Bool) : State :=
  if miss || !ps.any Part.isGlobal then s else s.noteLoads w 0 1

/-- Keep a near part of an instruction's own loads, which take cycles of its banks (08 R141). -/
def State.noteNear (s : State) (w : Who) (p : Part) : State :=
  match s.agent w with
  | some th => s.setAgent w { th with prog := { th.prog with parts := th.prog.parts ++ [p] } }
  | none => s

/-- Does a load miss the cache portion: has it asked another core for a global part? -/
def missed (ps : List Part) (asked : List Nat) : Bool := ps.any fun p => p.isGlobal && asked.contains p.k

/-- The checks and waits of a load that has not issued. -/
def loadOpen (s : State) (w : Who) (g : Group) (th : Thread) (o : MemOrd) (sc : Scope) (rs : List Run) (ps : List Part) : Do State :=
  if th.prog.hasIssued then .ok s
  else do
    checkRuns s w g th .read rs
    let s ← releaseWait s w o sc
    overlapWait s w ps
    .ok s

/-- A load of runs of bytes (R189, R190, R198, R199): their values, once every one is bound, with the acquire's
self-invalidation made (09 R175). A `seq` load waits first as a release does (09 R177, R178). -/
def loadRuns (s : State) (vec : Bool) (o : MemOrd) (sc : Scope) (reuse : Nat) (rs : List Run) : Do (State × List Nat) := do
  let w := s.cur
  let th ← getMe s
  let g ← getGroup s
  let q := th.prog
  match q.reply, q.asked with
  | some (.trap c v), [] => raise s c v
  | some (.trap _ _), _ => waitIssued s w q.seq q.asked q.got false .memory
  | _, _ =>
    let ps := q.partsOr (s.partsFrom w g th .read 0 0 rs)
    let s ← loadOpen s w g th o sc rs ps
    let todo := q.todo ps
    let s := s.holdParts w ps
    let (s, vals) ← ownBank s w g th .ld vec .load (nearParts todo)
    let (seq, s) := if q.seq == 0 then s.fresh else (q.seq, s)
    let (s, hits, asked) := s.issueLoads w g seq vec o sc reuse (todo.filter fun p => !(p.tgt matches .near _))
    let got := bind (bind q.got vals) hits
    let asked := q.asked ++ asked
    let miss := q.misses != 0 || missed ps asked
    if ps.all fun p => (find got p.k).isSome then
      .ok ((s.noteLoad w ps miss).acquire w.core o sc, runVals ps got rs.length)
    else waitIssued s w seq asked got miss .memory

/-! ## Stores (R191 to R194, R199, R200) -/

/-- Does a part of a store, ordered or weak, take a journal entry (10 Table 3)? One to a P word takes an entry besides when the store is
ordered, since its own acknowledgement is that of the word's registration (R192). -/
def State.needsEntry (s : State) (core : Nat) (rel : Bool) (p : Part) : Bool :=
  match p.tgt with
  | .near _ => false
  | .far _ _ => true
  | .mem pa trk => isHost pa || !trk || s.noCache core || s.needsReg core pa || (rel && s.isPending core pa)

/-- The journal piece of a part. -/
def State.pieceOf (s : State) (core : Nat) (p : Part) : JPart :=
  let kind : JKind := match p.tgt with
    | .near off => .far core off
    | .far c off => .far c off
    | .mem pa trk =>
      if isHost pa then .host pa
      else if trk && !s.noCache core then .reg (pa / 8 * 8)
      else .home pa trk
  { addr := w64 p.ea, data := p.data, n := p.n, kind := kind, bad := false }

/-- The group of parts that share a journal entry: a line part of a vector access (R186), or a lane or scalar. -/
def Part.lineKey (p : Part) : Nat := p.run * 2 ^ 60 + p.ea / 64

/-- The parts, grouped into the entries they need. -/
def entryGroups (ps : List Part) : List (List Part) :=
  let keys := ps.foldl (fun ks p => if ks.contains p.lineKey then ks else ks ++ [p.lineKey]) []
  keys.map fun k => ps.filter fun p => p.lineKey == k

/-- Send a store of a part to its home (R192). -/
def State.storeHome (s : State) (w : Who) (seq : Nat) (jidx : Option Nat) (sys : Bool) (p : Part) (pa : Nat) (trk : Bool) : State :=
  s.send (.ustore { who := w, seq := seq, k := p.k, jidx := jidx, inc := (s.core w.core).inc, pa := pa, va := w64 p.ea,
                    data := p.data, n := p.n, tracked := trk, sys := sys })

/-- Perform one global part of a store; none while its line can have no place. `rel` says that it is an ordered store, whose
acknowledgement is an answer. -/
def State.storePart (s : State) (w : Who) (seq : Nat) (rel sys : Bool) (jidx : Option Nat) (p : Part) : Option State :=
  match p.tgt with
  | .mem pa trk =>
    if isHost pa then some (s.storeHome w seq (if rel then none else jidx) sys p pa trk)
    else
      let s := s.noteRedo w pa p.n p.data .store
      if !trk || s.noCache w.core then some (s.storeHome w seq (if rel then none else jidx) sys p pa trk)
      else (s.cacheStore w.core pa p.ea p.n p.data).map fun s => s.joinWord w pa
  | _ => some s

/-- Does an ordered store's part wait for an answer? A registration's journal entry is its answer. -/
def State.answers (s : State) (core : Nat) (p : Part) : Bool :=
  match p.tgt with
  | .near _ => false
  | .far _ _ => true
  | .mem pa trk => isHost pa || !trk || s.noCache core

/-- Perform the global parts of a store. -/
def State.storeParts (s : State) (w : Who) (seq : Nat) (rel sys : Bool) (idx : Part → Option Nat) (ps : List Part) : Option State :=
  ps.foldl (fun acc p => match acc with
    | some s => s.storePart w seq rel sys (idx p) p
    | none => none) (some s)

/-- Send the far parts of a store, one request for each core. -/
def State.storeFar (s : State) (w : Who) (g : Group) (seq : Nat) (vec rel : Bool) (idx : Part → Option Nat) (ps : List Part) : State :=
  (farCores ps).foldl (fun s c =>
    let mine := ps.filter fun p => match p.tgt with
      | .far d _ => d == c
      | _ => false
    let js := mine.foldl (fun l p => match idx p with
      | some j => if l.contains j then l else l ++ [j]
      | none => l) []
    s.send (.far { who := w, stamp := s.issuedBy w, seq := seq, jidxs := if rel then [] else js, target := c, dom := g.dom, vec := vec, req := .store,
                   parts := farParts mine c })) s

/-- The fault of lower `TVAL`. -/
def worse (r : Option Reply) (c : Cause) (v : W64) : Reply :=
  match r with
  | some (.trap d u) => if u.toNat ≤ v.toNat then .trap d u else .trap c v
  | _ => .trap c v

/-- An ordered store, performed, waits for its acknowledgements (R192): a refused registration raises OWNER_LOST (09 R181), at the lowest address
that is refused. A `seq` store self-invalidates then, as the acquire that it is too (09 R178). -/
def orderedDone (s : State) (w : Who) (q : Prog) (o : MemOrd) (sc : Scope) : Do State :=
  let k := s.core w.core
  let ours (e : JEnt) : Bool := e.owner == w.issuer && e.rel == q.seq
  let ps := (k.jrnl.filter ours).flatMap (·.parts)
  if !q.asked.isEmpty || ps.any fun p => !p.bad then waitIssued s w q.seq q.asked q.got false .memory
  else match ps.foldl (fun (r : Option Reply) p => some (worse r .ownerLost p.addr)) q.reply with
    | some (.trap c v) => raise (s.setCore w.core { k with jrnl := k.jrnl.filter fun e => !ours e }) c v
    | _ => .ok (s.acquire w.core o sc)

/-- Mark a store as performed: it is not performed again unless it is discarded (R205). -/
def State.performed (s : State) (w : Who) (seq : Nat) (asked : List Nat) : State :=
  match s.agent w with
  | some th => s.setAgent w { th with prog := { th.prog with seq := seq, asked := asked, stage := 19, note := 0 } }
  | none => s

/-- The checks and waits of a store that has not issued. -/
def storeOpen (s : State) (w : Who) (g : Group) (th : Thread) (o : MemOrd) (sc : Scope) (rs : List Run) (ps : List Part) : Do State :=
  if th.prog.stage == 16 then .ok s
  else do
    checkRuns s w g th .write rs
    let s ← releaseWait s w o sc
    overlapWait s w (if o == .weak then ps.filter fun p => !s.needsEntry w.core false p else ps)
    .ok s

/-- Perform the parts of a store (R191 to R194, R198 to R200), all of them or none: they take their journal entries, and wait while there is
no room. -/
def storeDo (s : State) (vec : Bool) (o : MemOrd) (sc : Scope) (ps : List Part) : Do State := do
  let w := s.cur
  let th ← getMe s
  let g ← getGroup s
  let rel := o != .weak
  let groups := entryGroups (ps.filter fun p => s.needsEntry w.core rel p && !(rel && s.answers w.core p))
  let free := (s.core w.core).freeIdx
  if free.length < groups.length then waitFor s .journal
  else
    let named := groups.zip free
    let idx (p : Part) : Option Nat := (named.find? fun x : List Part × Nat => x.1.any fun y => y.k == p.k).map (·.2)
    let entries (seq : Nat) (k : Core) : Core := named.foldl (fun (k : Core) (x : List Part × Nat) =>
      k.enter x.2 w.issuer (if rel then seq else 0) (x.1.map (s.pieceOf w.core))) k
    let sys := rel && sc == .sys
    match ownBank s w g th .st vec .store (nearParts ps) with
    | .error e => .error e
    | .ok _ =>
      let (seq, s1) := s.fresh
      match s1.storeParts w seq rel sys idx ps with
      | none => waitFor s .memory
      | some s1 =>
        let g1 ← getGroup s1
        let (s2, _) ← ownBank s1 w g1 th .st vec .store (nearParts ps)
        let s2 := s2.storeFar w g seq vec rel idx ps
        let s2 := s2.setCore w.core (entries seq (s2.core w.core))
        let asked := (ps.filter fun p => s.answers w.core p).map (·.k)
        if rel then orderedDone (s2.performed w seq asked) w { th.prog with seq := seq, asked := asked, stage := 19 } o sc
        else .ok s2

/-- A part with the bytes that its run has now: a parked store of a counter's record (25 R413) goes on with the record of its own retirement. -/
def Part.fresh (rs : List Run) (p : Part) : Part :=
  { p with data := w64 ((rs.getD p.run { ea := 0, n := 0, align := 1, data := 0 }).data / 256 ^ p.at_ % 256 ^ p.n) }

/-- A store of runs of bytes (R191 to R194, R198 to R200): the state in which it may retire. The core checks all of it, waits as
its order asks, and performs it. -/
def storeRuns (s : State) (vec : Bool) (o : MemOrd) (sc : Scope) (rs : List Run) : Do State := do
  let w := s.cur
  let th ← getMe s
  let g ← getGroup s
  let q := th.prog
  if q.stage == 19 then orderedDone s w q o sc
  else
    let ps := if q.stage == 16 then q.parts.map (Part.fresh rs) else s.partsFrom w g th .write 0 0 rs
    let s ← storeOpen s w g th o sc rs ps
    storeDo (s.holdParts w ps) vec o sc ps

/-! ## AMOs (R195, R196) -/

/-- May an AMO reach the host window (24 R406, R408)? -/
def State.hostAmoOk (s : State) (op : AmoOp) (o : MemOrd) (sc : Scope) : Bool :=
  (o == .acq || o == .rel || o == .ar) && sc == .sys && (s.host.cxl || op == .add || op == .swap || op == .cas)

/-- The instruction waits for the one answer of a request that has an effect (07 R120). -/
def waitEffect {α : Type} (s : State) (w : Who) (seq : Nat) : Do α :=
  match s.agent w with
  | some th => waitIssued (s.setAgent w { th with prog := { th.prog with stage := 18 } }) w seq [0] [] false .memory
  | none => .error (.fault .noAgent)

/-- An AMO on a word of global memory that a replay makes again is noted when it has been performed (25 R422). -/
def State.noteAmo (s : State) (w : Who) (q : Prog) (op : AmoOp) (b c : W64) : State :=
  match q.parts.head? with
  | some p => match p.tgt with
    | .mem pa _ => if isHost pa then s else s.noteRedo w pa p.n b (.amo op c)
    | _ => s
  | none => s

/-- An AMO on the `n` bytes at an address: the state in which it may retire and the old value (R195, R196). -/
def amoRun (s : State) (op : AmoOp) (n : Nat) (o : MemOrd) (sc : Scope) (ea : Nat) (b c : W64) : Do (State × W64) := do
  let w := s.cur
  let th ← getMe s
  let g ← getGroup s
  let q := th.prog
  match q.reply, find q.got 0 with
  | some (.trap c v), _ => raise s c v
  | _, some v => .ok ((s.noteAmo w q op b c).acquire w.core o sc, v)
  | _, none =>
    if q.seq != 0 then waitIssued s w q.seq q.asked q.got false .memory
    else
      let rs : List Run := [{ ea := ea, n := n, align := n, data := 0 }]
      checkRuns s w g th .both rs
      let ps := s.partsFrom w g th .both 0 0 rs
      match ps.head? with
      | some p =>
        let hostBad := match p.tgt with
          | .mem pa _ => isHost pa && !s.hostAmoOk op o sc
          | _ => false
        if hostBad then raise s .xlatePerm (w64 ea)
        else
          let s ← releaseWait s w o sc
          overlapWait s w ps
          let s := s.holdParts w ps
          match p.tgt with
          | .near off =>
            let (s, vals) ← ownBank s w g th .amo false (.amo op b c) [{ k := 0, off := off, n := n, data := 0 }]
            .ok (s.acquire w.core o sc, look 0 vals 0)
          | .far core off =>
            let (seq, s) := s.fresh
            let s := s.send (.far { who := w, stamp := th.issued, seq := seq, jidxs := [], target := core, dom := g.dom, vec := false,
                                    req := .amo op b c, parts := [{ k := 0, off := off, n := n, data := 0 }] })
            waitEffect s w seq
          | .mem pa trk =>
            let (seq, s) := s.fresh
            let s := s.send (.amo { who := w, inc := (s.core w.core).inc, seq := seq, pa := pa, va := w64 ea, sys := sc == .sys, trk := trk, op := op, n := n,
                                    b := b, c := c })
            waitEffect s w seq
      | none => raise s .xlateNone (w64 ea)

end Sys2Proof.Machine
end

