-- ==== Sys2Proof/Machine/Mem.lean ====
section
/-! DEFINITION. LD, ST, AMO and MEMC (10 R188 to R204). -/

namespace Sys2Proof.Machine

/-- The width of an access in bytes. -/
def bytesI (sz : ISz) : Nat := sz.bitsN / 8

/-- `x[A] + disp`, modulo 2^64 (R189). -/
def eaDisp (th : Thread) (a : Reg) (imm : ImmA) : Nat := (th.rx a + immA imm).toNat

/-- `x[A] + (x[B] << log2(n/8)) + disp`, modulo 2^64 (R189). -/
def eaIndex (th : Thread) (sz : ISz) (a b : Reg) (imm : ImmA) : Nat :=
  (th.rx a + th.rx b * w64 (bytesI sz) + immA imm).toNat

/-- A scalar access's run of bytes. -/
def scalarRun (sz : ISz) (ea : Nat) (data : W64) : List Run :=
  [{ ea := ea, n := bytesI sz, align := bytesI sz, data := data.toNat % 2 ^ sz.bitsN }]

/-- A scalar load of `n` bits, sign-extended (R189). -/
def loadX (s : State) (sz : ISz) (o : MemOrd) (sc : Scope) (reuse : BitVec 3) (d : Reg) (xs : List Reg) (len : Nat)
    (ea : Thread → Nat) : Host.Outcome State Fault Refusal :=
  finish s.cur (do
    let th ← getMe s
    needLive s th xs []
    let (s, vals) ← loadRuns s false o sc reuse.toNat (scalarRun sz (ea th) 0)
    .ok (s.retireX d (sext sz.bitsN (vals.headD 0)) len))

/-- A scalar store of the low `n` bits of `x[B]` (R191). -/
def storeX (s : State) (sz : ISz) (o : MemOrd) (sc : Scope) (b : Reg) (xs : List Reg) (len : Nat) (ea : Thread → Nat) :
    Host.Outcome State Fault Refusal :=
  finish s.cur (do
    let th ← getMe s
    needLive s th xs []
    let s ← storeRuns s false o sc (scalarRun sz (ea th) (th.rx b))
    .ok (s.retireNext len))

/-- `ld`, R189. -/
def execLd (sz : ISz) (ord : MemOrd) (scope : Scope) (reuse : BitVec 3) (d a : Reg) (imm : ImmA) (s : State) :
    Host.Outcome State Fault Refusal :=
  loadX s sz ord scope reuse d [a] (sizeA imm) fun th => eaDisp th a imm

/-- `ldx`, R189. -/
def execLdx (sz : ISz) (ord : MemOrd) (scope : Scope) (reuse : BitVec 3) (d a b : Reg) (imm : ImmA) (s : State) :
    Host.Outcome State Fault Refusal :=
  loadX s sz ord scope reuse d [a, b] (sizeA imm) fun th => eaIndex th sz a b imm

/-- `st`, R191. -/
def execSt (sz : ISz) (ord : MemOrd) (scope : Scope) (a b : Reg) (imm : ImmA) (s : State) :
    Host.Outcome State Fault Refusal :=
  storeX s sz ord scope b [a, b] (sizeA imm) fun th => eaDisp th a imm

/-- `stx`, R191: the index is `x[C]`. -/
def execStx (sz : ISz) (ord : MemOrd) (scope : Scope) (a b c : Reg) (imm : ImmA) (s : State) :
    Host.Outcome State Fault Refusal :=
  storeX s sz ord scope b [a, b, c] (sizeA imm) fun th => eaIndex th sz a c imm

/-- The width of an AMO in bits. -/
def bitsA (sz : ASz) : Nat :=
  match sz with
  | .w => 32
  | .d => 64

/-- An AMO (R195): the old value, sign-extended, to `xd`. -/
def amoX (s : State) (op : AmoOp) (sz : ASz) (o : MemOrd) (sc : Scope) (d a b : Reg) (c : Option Reg) :
    Host.Outcome State Fault Refusal :=
  finish s.cur (do
    let th ← getMe s
    needLive s th ([a, b] ++ c.toList) []
    let cv := match c with
      | some c => th.rx c
      | none => 0
    let (s, old) ← amoRun s op (bitsA sz / 8) o sc (th.rx a).toNat (th.rx b) cv
    .ok (s.retireX d (sext (bitsA sz) old.toNat) 8))

/-- `amo.add`, R195. -/
def execAmoAdd (sz : ASz) (ord : MemOrd) (scope : Scope) (d a b : Reg) (s : State) : Host.Outcome State Fault Refusal :=
  amoX s .add sz ord scope d a b none

/-- `amo.and`, R195. -/
def execAmoAnd (sz : ASz) (ord : MemOrd) (scope : Scope) (d a b : Reg) (s : State) : Host.Outcome State Fault Refusal :=
  amoX s .and sz ord scope d a b none

/-- `amo.or`, R195. -/
def execAmoOr (sz : ASz) (ord : MemOrd) (scope : Scope) (d a b : Reg) (s : State) : Host.Outcome State Fault Refusal :=
  amoX s .or sz ord scope d a b none

/-- `amo.xor`, R195. -/
def execAmoXor (sz : ASz) (ord : MemOrd) (scope : Scope) (d a b : Reg) (s : State) : Host.Outcome State Fault Refusal :=
  amoX s .xor sz ord scope d a b none

/-- `amo.min`, R195. -/
def execAmoMin (sz : ASz) (ord : MemOrd) (scope : Scope) (d a b : Reg) (s : State) : Host.Outcome State Fault Refusal :=
  amoX s .min sz ord scope d a b none

/-- `amo.max`, R195. -/
def execAmoMax (sz : ASz) (ord : MemOrd) (scope : Scope) (d a b : Reg) (s : State) : Host.Outcome State Fault Refusal :=
  amoX s .max sz ord scope d a b none

/-- `amo.minu`, R195. -/
def execAmoMinu (sz : ASz) (ord : MemOrd) (scope : Scope) (d a b : Reg) (s : State) : Host.Outcome State Fault Refusal :=
  amoX s .minu sz ord scope d a b none

/-- `amo.maxu`, R195. -/
def execAmoMaxu (sz : ASz) (ord : MemOrd) (scope : Scope) (d a b : Reg) (s : State) : Host.Outcome State Fault Refusal :=
  amoX s .maxu sz ord scope d a b none

/-- `amo.swap`, R195. -/
def execAmoSwap (sz : ASz) (ord : MemOrd) (scope : Scope) (d a b : Reg) (s : State) : Host.Outcome State Fault Refusal :=
  amoX s .swap sz ord scope d a b none

/-- `amo.cas`, R195. -/
def execAmoCas (sz : ASz) (ord : MemOrd) (scope : Scope) (d a b c : Reg) (s : State) : Host.Outcome State Fault Refusal :=
  amoX s .cas sz ord scope d a b (some c)

/-! ## MEMC -/

/-- `fence`, R201: the wait of a release, then the self-invalidation of an acquire. -/
def execFence (ord : MemOrd) (scope : Scope) (s : State) : Host.Outcome State Fault Refusal :=
  finish s.cur (do
    let s ← releaseWait s s.cur ord scope
    .ok ((s.acquire s.cur.core ord scope).retireNext 8))

/-- Is a line in the virtual range of `inval` and `wb` (R202)? -/
def inRange (lo hi : Nat) (l : CLine) : Bool := lo / 64 * 64 ≤ l.va.toNat && l.va.toNat < hi

/-- `inval`, R202: every V word of the range becomes I. R202 has `inval` and `wb` fault on nothing beyond 03 Table 6, which does not hold
DEAD_READ; 07 R113 exempts `pf` alone. DESIGN CHOICE: R113 counts, so a dead `x[A]` or `x[B]` in user mode under `DRE` raises DEAD_READ here
and in `wb` (notes/assumptions/32.md). Safe only for a claim that no effect happens: hardware may run on. Unsafe otherwise. -/
def execInval (a b : Reg) (s : State) : Host.Outcome State Fault Refusal :=
  finish s.cur (do
    let th ← getMe s
    needLive s th [a, b] []
    let lo := (th.rx a).toNat
    let hi := lo + (th.rx b).toNat
    let s := if th.rx b == 0 then s else s.dropV s.cur.core fun _ l => inRange lo hi l
    .ok (s.retireNext 8))

/-- Send home the G words of the lines that a test names, leaving each as `after` says, and the words sent. -/
def State.sendHome (s : State) (core : Nat) (p : CLine → Bool) (after : CWord → CWord) : State × List Nat :=
  let k := s.core core
  let ls := k.cache.filter fun (e : Nat × CLine) => p e.2
  let ms := ls.flatMap fun (e : Nat × CLine) => e.2.writeBacks core k.inc e.1 fun _ => true
  let words := ms.filterMap fun m => match m with
    | .ownerData _ _ pa _ => some (pa / 8)
    | _ => none
  let f (e : Nat × CLine) : Nat × CLine :=
    if p e.2 then (e.1, e.2.mapWords fun w => if w.st == .g then after w else w) else e
  ({ s.setCore core { k with cache := k.cache.map f } with net := s.net ++ ms }, words)

/-- Wait for the acknowledgements of write-backs (R202, 11 R207). -/
def waitWriteBacks {α : Type} (s : State) (words : List Nat) : Do α :=
  match s.me with
  | some th => .error (.wait (s.setMe { th with wait := .memory, prog := { th.prog with stage := 20, asked := words } }))
  | none => .error (.fault .noAgent)

/-- The words whose write-backs of a core have not been acknowledged: a `wb` or `SPLIT` write that was discarded (R205) and executes again
waits for those it had sent. -/
def State.writingBack (s : State) (core : Nat) : List Nat :=
  s.net.filterMap fun m => match m with
    | .ownerData c inc pa (some _) => if c == core && inc == (s.core core).inc && (s.regEnt pa).any (fun e => e.owner == core && e.inc == inc && !e.lost) then some (pa / 8) else none
    | .wbAck c pa => if c == core then some (pa / 8) else none
    | _ => none

/-- `wb`, R202, with the choice that `execInval` names about dead operands: wait for the range's P words, send its G words home, and wait
for every acknowledgement. -/
def execWb (a b : Reg) (s : State) : Host.Outcome State Fault Refusal :=
  finish s.cur (do
    let th ← getMe s
    if th.prog.stage == 20 then
      if th.prog.asked.isEmpty then .ok (s.retireNext 8) else waitWriteBacks s th.prog.asked
    else
      needLive s th [a, b] []
      let lo := (th.rx a).toNat
      let hi := lo + (th.rx b).toNat
      if th.rx b == 0 then .ok (s.retireNext 8)
      else if (s.core s.cur.core).cache.any fun (e : Nat × CLine) => inRange lo hi e.2 && e.2.has .p then waitFor s .memory
      else
        let (s, words) := s.sendHome s.cur.core (inRange lo hi) fun w => { w with st := WSt.v }
        let words := words ++ (s.writingBack s.cur.core).filter fun x => !words.contains x
        if words.isEmpty then .ok (s.retireNext 8) else waitWriteBacks s words)

/-- Ask for the words of a line that the core does not hold (R203). -/
def State.prefetch (s : State) (w : Who) (pa va : Nat) : State :=
  (List.range 8).foldl (fun s j =>
    let p := pa / 64 * 64 + 8 * j
    match s.lookup w.core p with
    | .miss => s.send (.loadReq { s.loadMsg w 0 j p (w64 (va / 64 * 64 + 8 * j)) with fill := some 0 })
    | _ => s) s

/-- `pf`, R203: it reads a dead register as zero and never faults; it waits while its line can have no place (09 R166). -/
def execPf (a : Reg) (imm : BitVec 16) (s : State) : Host.Outcome State Fault Refusal :=
  finish s.cur (do
    let th ← getMe s
    let g ← getGroup s
    let ea := (th.rx a + imm.signExtend 64).toNat
    if regionOf ea != .global || s.noCache s.cur.core then .ok (s.retireNext 8)
    else match s.xlate (s.coreCaches s.cur.core) g.dom ea th.kernel .read with
      | .error _ => .ok (s.retireNext 8)
      | .ok p =>
        if !p.trk || isHost p.pa then .ok (s.retireNext 8)
        else match s.allocate s.cur.core p.pa ea 0 with
          | some s => .ok ((s.prefetch s.cur p.pa ea).retireNext 8)
          | none => waitFor s .memory)

/-- The translation caches in the scope of `tlb.inv` that may hold an entry (13 R251). -/
def State.cachesIn (s : State) (core : Nat) (sc : Scope) : List CacheId :=
  let cores (p : Nat → Bool) : List CacheId :=
    s.cores.filterMap fun (e : Nat × Core) => if p e.1 then some (.core e.1) else none
  match sc with
  | .cl => cores (fun c => clusterOf c == clusterOf core) ++ [.cluster (clusterOf core)]
  | .mod => cores (fun _ => true) ++ s.clusters.map (fun (e : Nat × Cluster) => CacheId.cluster e.1) ++
      s.dieWalk.map fun (e : Nat × List TlbEnt) => CacheId.die e.1
  | _ => [.core core]

/-- `tlb.inv`, R204: kernel only; it retires when every cache in its scope has dropped the selected entries. -/
def execTlbInv (scope : Scope) (a b : Reg) (s : State) : Host.Outcome State Fault Refusal :=
  finish s.cur (do
    let th ← getMe s
    needKernel s th (.tlbInv scope a b)
    let q := th.prog
    if q.seq != 0 then
      if q.asked.isEmpty then .ok (s.retireNext 8) else waitIssued s s.cur q.seq q.asked [] false .memory
    else
      needLive s th [a, b] []
      let v := th.rx b
      if fld v 63 6 != 0 then illField s (.tlbInv scope a b)
      else
        let sel : TlbSel := { all := bitOf v 4, alldom := bitOf v 5, dom := fld v 3 0, va := th.rx a }
        let (seq, s) := s.fresh
        let cs := s.cachesIn s.cur.core scope
        let s := cs.foldl (fun (s : State) c => s.send (.tlbReq c s.cur seq sel)) s
        waitIssued s s.cur seq (List.range cs.length) [] false .memory)

end Sys2Proof.Machine
end

