-- ==== Sys2Proof/Machine/Que.lean ====
section
/-! DEFINITION. Queue registers (18 R346 to R348): QUE, and `send` to a queue register. -/

namespace Sys2Proof.Machine

/-- Raise QUEUE with a code of 18 Table 8 (R349). -/
def queueTrap {α : Type} (s : State) (code : Nat) : Do α := raise s .queue (w64 code)

/-- May an agent write a queue register (18 Table 8a)? -/
def Issuer.writesQueue (i : Issuer) (q : Reg) : Bool :=
  match i with
  | .thread _ => 4 ≤ q.toNat
  | .loader => q.toNat < 4
  | .storer | .departed => false

/-- May an agent read it (18 Table 8a)? -/
def Issuer.readsQueue (i : Issuer) (q : Reg) : Bool :=
  match i with
  | .thread _ => q.toNat < 4
  | .loader | .departed => false
  | .storer => 4 ≤ q.toNat

/-- The entries of a queue register, the oldest first. -/
def Group.queue (g : Group) (q : Nat) : List W64 := vget [] g.queues q
/-- Replace the entries of a queue register. -/
def Group.setQueue (g : Group) (q : Nat) (es : List W64) : Group := { g with queues := vset g.queues q es }

/-- QUEUE code 1 unless Table 8a allows the use. -/
def needRole (s : State) (ok : Bool) : Do Unit := if ok then .ok () else queueTrap s 1

/-- `q.cnt`, R347. -/
def execQCnt (d a : Reg) (s : State) : Host.Outcome State Fault Refusal :=
  finish s.cur (do
    let g ← getGroup s
    needRole s (s.cur.issuer.readsQueue a || s.cur.issuer.writesQueue a)
    .ok (s.retireX d (w64 (g.queue a.toNat).length) 8))

/-- The head of a queue register, for which the agent waits while it is empty (R347). -/
def qHead (s : State) (a : Reg) : Do (Group × W64 × List W64) := do
  let g ← getGroup s
  needRole s (s.cur.issuer.readsQueue a)
  match g.queue a.toNat with
  | [] => waitFor s .sync
  | e :: rest => .ok (g, e, rest)

/-- `q.peek`, R347. -/
def execQPeek (d a : Reg) (s : State) : Host.Outcome State Fault Refusal :=
  finish s.cur (do
    let r ← qHead s a
    .ok (s.retireX d r.2.1 8))

/-- `q.peek.pop`, R347; the acquire at `core` of R346 invalidates nothing. -/
def execQPeekPop (d a : Reg) (s : State) : Host.Outcome State Fault Refusal :=
  finish s.cur (do
    let r ← qHead s a
    .ok ((s.setGroup s.cur.core (r.1.setQueue a.toNat r.2.2)).retireX d r.2.1 8))

/-- `q.flush`, R347. -/
def execQFlush (a : Reg) (s : State) : Host.Outcome State Fault Refusal :=
  finish s.cur (do
    let g ← getGroup s
    needRole s (s.cur.issuer.writesQueue a)
    .ok ((s.setGroup s.cur.core (g.setQueue a.toNat [])).retireNext 8))

/-- `send` to a queue register, R338, R346: it waits while the register is full. -/
def execSendQueue (d b : Reg) (s : State) : Host.Outcome State Fault Refusal :=
  finish s.cur (do
    let th ← getMe s
    let g ← getGroup s
    needLive s th [b] []
    needRole s (s.cur.issuer.writesQueue d)
    if (g.queue d.toNat).length ≥ 8 then waitFor s .sync
    else .ok ((s.setGroup s.cur.core (g.setQueue d.toNat (g.queue d.toNat ++ [th.rx b]))).retireNext 8))

end Sys2Proof.Machine
end

