-- ==== Sys2Proof/Machine/Rings.lean ====
section
/-! DEFINITION. Mailbox rings (18 R339 to R343): their descriptor, deposits and the deposits that wait, and the scratchpad
writes that bypass the action table. -/

namespace Sys2Proof.Machine

/-- The first byte of a ring's slots (R340). -/
def MRing.base (r : MRing) : Nat := fld r.desc 20 6 * 64
/-- The number of a ring's slots; 0 disables it (R340). -/
def MRing.nslot (r : MRing) : Nat := fld r.desc 30 24
/-- A ring of a group. -/
def Group.ring (g : Group) (r : Nat) : MRing := vget { desc := 0, head := 0, tail := 0, msgs := [], waiting := [] } g.rings r
/-- Replace a ring of a group. -/
def Group.setRing (g : Group) (r : Nat) (v : MRing) : Group := { g with rings := vset g.rings r v }

/-- Write doublewords from an offset upward, bypassing the action table: tags stay, written bits are set (R341, 11 R210). -/
def Group.pour (g : Group) (off : Nat) (ws : List W64) : Group :=
  match ws with
  | [] => g
  | w :: rest => Group.pour ({ g with spData := write64 g.spData off w }.touch (off / 8)) (off + 8) rest

/-- A deposit into a ring with room (R341): the words at the tail slot, and the tail and count advanced. -/
def Group.deposit (g : Group) (r : Nat) (d : Deposit) : Group :=
  let m := g.ring r
  let g := g.pour (m.base + m.tail * 64) d.words
  g.setRing r { m with
    tail := (m.tail + 1) % m.nslot, msgs := m.msgs ++ [{ slot := m.tail, nw := d.words.length, sender := d.who.core }] }

/-- The acknowledgement of a deposit to its sender. -/
def Deposit.ack (d : Deposit) : Msg := .amoRep d.who none d.seq [0] (.ok [(0, 0)])
/-- The refusal of a deposit: XLATE_NONE or XLATE_PERM with `TVAL` the target as `x[A]` names it, or QUEUE code 2 (R339). -/
def Deposit.refuse (d : Deposit) (c : Cause) : Msg :=
  .amoRep d.who none d.seq [0] (.trap c (if c == .queue then 2 else w64 (d.core + d.ring * 2 ^ 12)))

/-- Serve the deposits that wait on a ring while it has room, in their order of arrival (R341, R343): the group and the
acknowledgements. -/
def Group.serveRing (fuel : Nat) (g : Group) (r : Nat) : Group × List Msg :=
  match fuel with
  | 0 => (g, [])
  | f + 1 =>
    let m := g.ring r
    match m.waiting with
    | [] => (g, [])
    | d :: rest =>
      if m.msgs.length ≥ m.nslot then (g, [])
      else
        let g := (g.setRing r { m with waiting := rest }).deposit r d
        let (g, ms) := Group.serveRing f g r
        (g, d.ack :: ms)

/-- Disable a ring (11 R208, R340): its messages are discarded, and each waiting deposit is refused. -/
def Group.disableRing (g : Group) (r : Nat) : Group × List Msg :=
  let m := g.ring r
  (g.setRing r { desc := m.desc &&& ~~~(w64 (0x7F * 2 ^ 24)), head := 0, tail := 0, msgs := [], waiting := [] },
    m.waiting.map fun d => d.refuse .queue)

end Sys2Proof.Machine
end

