-- ==== Sys2Proof/Machine/Fetch.lean ====
section
/-! DEFINITION. Fetching an instruction (03 R34 to R37) and the causes that its bits decide (03 R48, orders 1 to 5). What the
group's allotment (16 R274) and the thread's mode (order 6) decide, each meaning checks first. -/

namespace Sys2Proof.Machine

/-- The key of a fetch block that a core holds: the domain and the block's number. -/
def blockKey (dom va : Nat) : Nat := dom * 2 ^ 60 + va / 32

/-- The 32 bytes of a fetch block, read as a load request at its home (25 R420). -/
def State.readBlock (s : State) (pa : Nat) : Except Cause (List Byte) := s.engineBytes (pa / 32 * 32) 32

/-- The bytes of the fetch block that holds a thread's PC (03 R37): the block the core holds, or the memory's. An address
outside the global region has no code (notes/assumptions/6.md). -/
def State.codeBlock (s : State) (core : Nat) (g : Group) (th : Thread) : Except (Cause × Nat) (List Byte) :=
  let va := th.pc.toNat
  if va ≥ 2 ^ 55 || va < 0x180000 || (0x4000000000 ≤ va && va < 0x4100000000) then .error (.xlateNone, va)
  else match s.xlate (s.coreCaches core) g.dom va th.kernel .fetch with
    | .error c => .error (c, s.faultAt (s.coreCaches core) g.dom c va)
    | .ok ph => match find (s.core core).fetch (blockKey g.dom va) with
      | some bs => .ok bs
      | none => match s.readBlock ph.pa with
        | .ok bs => .ok bs
        | .error c => .error (c, c.at_ va (ph.pa / 32 * 32))

/-- The bytes of the block that holds a feed core's PC (02 R30): its instruction store ends at 16 KiB. -/
def feedBlock (f : Feed) : Except (Cause × Nat) (List Byte) :=
  let a := f.th.pc.toNat
  if a ≥ 16384 then .error (.xlateNone, a) else .ok (bytesAt f.istore (a / 32 * 32) 32)

/-- The decode causes as causes. -/
def decodeCause (c : DecodeCause) : Cause :=
  match c with
  | .illLen => .illLen | .illClass => .illClass | .illOp => .illOp | .illField => .illField

/-- The instruction at an offset of a fetch block, or its decode cause and `TVAL` (03 R48, R49). -/
def decodeAt (feed : Bool) (pc : Nat) (block : List Byte) : Except (Cause × W64) Instr :=
  let w := bitsOfBytes (block.drop (pc % 32))
  let n := lenBytes (w.extractLsb' 0 2)
  if n == 0 then .error (.illLen, w64 (w.toNat % 2 ^ 32))
  else if pc % 32 + n > 32 then .error (.straddle, w64 pc)
  else
    let low := w64 w.toNat
    match decodeBits feed w with
    | .error c => .error (decodeCause c, low)
    | .ok i => .ok i

/-- The next instruction of an agent (03 R37, R48), or the cause its fetch or decode raises, with `TVAL`. A fetch fault's
`TVAL` is the PC, but for ECC (14 Table 1). -/
def State.fetch (s : State) (w : Who) (g : Group) (th : Thread) : Except (Cause × W64) Instr :=
  let blk := match w.issuer with
    | .thread _ => s.codeBlock w.core g th
    | .loader => feedBlock g.loader
    | .storer => feedBlock g.storer
    | .departed => .error (.xlateNone, th.pc.toNat)
  match blk with
  | .error c => .error (c.1, w64 c.2)
  | .ok bs => decodeAt w.issuer.isFeed th.pc.toNat bs

end Sys2Proof.Machine
end

