-- ==== Sys2Proof/Machine/Jobs.lean ====
section
/-! DEFINITION. Engine jobs as data (18 R324, R325, R330): the fields of a card, which engine and checker a job is in, and which job
can take its next step. -/

namespace Sys2Proof.Machine

/-! ## Cards (R325) -/

/-- A word of a card. -/
def cardWord (ws : List W64) (k : Nat) : W64 := (ws[k]?).getD 0
/-- `OPCODE`. -/
def cardOp (ws : List W64) : Nat := fld (cardWord ws 0) 7 0
/-- `BAR`. -/
def cardBar (ws : List W64) : Nat := (cardWord ws 1).toNat
/-- `ARG0` to `ARG2`. -/
def cardArg (ws : List W64) (k : Nat) : W64 := cardWord ws (3 + k)
/-- A region: `RD0` to `RD2` are 0 to 2, `WR0` and `WR1` are 3 and 4. -/
def cardRegion (ws : List W64) (k : Nat) : Nat × Nat := ((cardWord ws (6 + 2 * k)).toNat, (cardWord ws (7 + 2 * k)).toNat)

/-- `JOBID`. -/
def cardId (ws : List W64) : Nat := fld (cardWord ws 0) 63 32

/-! ## Engines and the checker -/

/-- The engine of a job: a cluster's copy engines and gather/scatter engine, or a die's collective engine (R324). -/
def Job.engine (j : Job) : Nat := if j.kind == 3 then 256 + j.cluster / 8 else j.cluster * 4 + j.kind

/-- Has a job not completed (R331)? -/
def Job.open_ (j : Job) : Bool :=
  match j.st with
  | .reply _ => false
  | _ => true

/-- Does a job take an inbox entry (R324, R329)? -/
def Job.inInbox (j : Job) : Bool :=
  match j.st with
  | .inbox | .held _ _ _ => true
  | _ => false

/-- Does a job take one of its engine's four run slots (R324)? A REDUCE card takes none (R329). -/
def Job.inSlot (j : Job) : Bool :=
  cardOp j.card != 0x20 && match j.st with
    | .running _ _ | .sub _ _ _ | .ended _ _ _ => true
    | _ => false

/-- Do two regions share a virtual byte? -/
def regionsMeet (a b : Nat × Nat) : Bool := meets a.1 a.2 b.1 b.2

/-- The regions of a card that a list names. -/
def Job.regions (j : Job) (ks : List Nat) : List (Nat × Nat) := (ks.map (cardRegion j.card)).filter fun r => r.2 != 0

/-- Does job `j` wait for the earlier job `p` of its checker (R330)? REDUCE cards of one key do not wait for one another (R329). -/
def Job.edge (j p : Job) : Bool :=
  let rd (x : Job) : List (Nat × Nat) := x.regions [0, 1, 2]
  let wr (x : Job) : List (Nat × Nat) := x.regions [3, 4]
  let any2 (xs ys : List (Nat × Nat)) : Bool := xs.any fun x => ys.any fun y => regionsMeet x y
  let sameKey := cardOp j.card == 0x20 && cardOp p.card == 0x20 && cardArg j.card 0 == cardArg p.card 0
  p.open_ && clusterOf p.origin == clusterOf j.origin && p.dom == j.dom && !sameKey &&
    (any2 (rd j) (wr p) || any2 (wr j) (rd p) || any2 (wr j) (wr p))

/-- Is a job held by the checker: is an earlier job that it waits for incomplete (R330)? -/
def State.checked (s : State) (id : Nat) (j : Job) : Bool := s.jobs.any fun (e : Nat × Job) => e.1 < id && j.edge e.2

/-- May a job of an inbox start (R324)? It is the first of its engine's inbox, the checker does not hold it, and a run slot is
free unless it is a REDUCE card. -/
def State.startable (s : State) (id : Nat) (j : Job) : Bool :=
  j.st == JobSt.inbox && !s.checked id j &&
    (!s.jobs.any fun (e : Nat × Job) => e.1 < id && e.2.engine == j.engine && e.2.st == JobSt.inbox) &&
    (cardOp j.card == 0x20 ||
      (s.jobs.filter fun (e : Nat × Job) => e.2.engine == j.engine && e.2.inSlot).length < 4)

/-- Is a job parked on a scratchpad word (11 R222)? -/
def State.jobParked (s : State) (id : Nat) : Bool := s.cores.any fun (e : Nat × Core) => e.2.banks.toList.any fun b => b.queue.any (Waiter.same (.job id 0 0))

/-- The core of the group that a job belongs to, while the group is resident there. -/
def State.jobGroup (s : State) (j : Job) : Option Group :=
  match s.group j.origin with
  | some g => if g.gang == j.gang then some g else none
  | none => none

/-- Is a job in a complete REDUCE set (18 R329)? -/
def Job.inSet (set : Nat) (j : Job) : Bool :=
  match j.st with
  | .held k _ _ => k == set
  | _ => false

/-- Is a card of a complete REDUCE set parked? -/
def State.setParked (s : State) (set : Nat) : Bool := s.jobs.any fun (e : Nat × Job) => e.2.inSet set && s.jobParked e.1

/-- The event of a job's next step, when it can take one. -/
def State.jobEvent (s : State) (id : Nat) (j : Job) : Option Instr :=
  match j.st with
  | .inbox => if s.startable id j then some .jobStart else none
  | .held set _ _ => if set == id && !s.setParked set then some .reduceSetComplete else none
  | .running _ _ => if s.jobParked id then none else some .engineUnit
  | .sub _ _ _ => some .engineUnit
  | .ended st _ _ => some (if st == 0 then .jobComplete else .jobFail)
  | .reply _ => none

/-- A job that can take its next step: the oldest first, or another from a place in the list. -/
def State.jobTurn (s : State) (k : Nat) : Option Turn :=
  let js := s.jobs.filterMap fun (e : Nat × Job) => (s.jobEvent e.1 e.2).map fun i => Turn.event i e.1 0
  js[k % js.length]?

end Sys2Proof.Machine
end

