-- ==== Sys2Proof/Machine/Time.lean ====
section
/-! DEFINITION. Time passes: the core clock, the thread counters that count it (25 R409 to R411), and the sampling pulse
that falls on a tick (25 R415). -/

namespace Sys2Proof.Machine

/-- A counter while `cycles` pass (25 Table 2), of a thread that is not ready, or parked on a tag WAIT, or stalled on a full journal: `free`
stands for what the spec leaves to the core's timing. -/
def Counter.elapse (waiting parked full : Bool) (cycles ticks free : Nat) (c : Counter) : Counter :=
  if !bitOf c.control 8 then c
  else
    let n := match fld c.control 7 0 with
      | 2 => if waiting then cycles else free % (cycles + 1)
      | 3 => free % (cycles + 1)
      | 6 => if parked then cycles else 0
      | 7 => if full then cycles else 0
      | 9 => ticks
      | _ => 0
    { c with value := c.value + w64 n }

/-- Apply a function to a thread's counters. -/
def Thread.mapCtrs (f : Counter → Counter) (th : Thread) : Thread :=
  let at_ (j : Nat) : Counter := f (vget { value := 0, start := 0, stop := none, control := 0 } th.ctrs j)
  { th with ctrs := #v[at_ 0, at_ 1, at_ 2, at_ 3, at_ 4, at_ 5, at_ 6, at_ 7] }

/-- A thread while cycles pass: one that a debugger halts counts nothing (R411). -/
def Thread.elapse (parked : Bool) (cycles ticks free : Nat) (th : Thread) : Thread :=
  if th.status == Status.halted then th
  else th.mapCtrs (Counter.elapse (th.wait != Wait.none || th.status != Status.running) parked (th.wait == .journal) cycles ticks free)

/-- The last cycle that a group's counters count: a suspension's agreed tick pauses them (R411). -/
def State.countedTo (s : State) (g : Group) (cycle : Nat) : Nat :=
  match find s.gangs g.gang with
  | some { susp := some u, .. } => min cycle (2 * u.agreed)
  | _ => cycle

/-- The cycle that the module reaches when `n` pass: none while its clocks are stopped, and none beyond the named tick at which
they stop (25 R424). -/
def State.cycleAfter (s : State) (n : Nat) : Nat :=
  if s.stopped then s.cycle
  else match s.stopAt with
    | some t => if s.cycle ≤ 2 * t then min (s.cycle + n) (2 * t) else s.cycle + n
    | none => s.cycle + n

/-- Does a sampling pulse fall at the present tick (25 R415) that has not been taken? -/
def State.pulseDue (s : State) : Bool :=
  let p := s.trace.period.toNat
  !s.pulsed && !s.stopped && s.trace.en && p != 0 && s.gtick % p == 0

/-- The cycles that pass before the next step: those that the spec leaves open, at least one tick, and none beyond the next sampling pulse
(25 R415), which is a step of its own after the one that moves in its tick, and takes no time. Every other step has a tick of its own, so no
two operations of different agents fall into one (notes/assumptions/7.md). -/
def State.stepCycles (s : State) : Nat :=
  if s.pulseDue then 0
  else
    let n := 2 + Config.cyclesTaken s.stepNo
    let p := s.trace.period.toNat
    if p == 0 || !s.trace.en then n else min n (2 * ((s.gtick / p + 1) * p) - s.cycle)

/-- Does a debugger halt a group, or a thread of it? Its hub watchdog does not run then (17 R317). -/
def Group.debugged (g : Group) : Bool := g.halted || g.threads.any fun th => th.status == Status.halted

/-- The threads of a group while cycles pass: those of a group that a debugger has halted count nothing (R411), and the period of its
watchdog stands still (17 R317). -/
def State.elapseGroup (s : State) (core cycle : Nat) (g : Group) : Group :=
  let g := if g.debugged then { g with lastRetire := g.lastRetire + (cycle / 2 - s.gtick) } else g
  if g.halted then g
  else
    let lo := s.countedTo g s.cycle
    let hi := s.countedTo g cycle
    let one (e : Thread × Nat) : Thread :=
      e.1.elapse (s.waitsParked { core := core, issuer := .thread e.2 }) (hi - lo) (hi / 2 - lo / 2) (Config.freeNat s.stepNo)
    { g with threads := (g.threads.zip (List.range g.threads.length)).map one }

/-- Time passes. -/
def State.elapse (s : State) (n : Nat) : State :=
  let c := s.cycleAfter n
  { s with cycle := c, cores := s.cores.map fun (e : Nat × Core) => (e.1, { e.2 with group := e.2.group.map (s.elapseGroup e.1 c) }) }

end Sys2Proof.Machine
end

