-- ==== Sys2Proof/Machine/Schedule.lean ====
section
/-! DEFINITION. The model's own schedule: which agents can take a turn (07 R118, 02 R23, 20 R359), which machine event a
message in flight is, and which turn comes next when the agenda names none (notes/assumptions/7.md). -/

namespace Sys2Proof.Machine

/-- Do the gang's agents issue now: from its common start tick on (02 R23), and not from a suspension's agreed tick on
(20 R359)? -/
def Gang.issues (g : Gang) (tick : Nat) : Bool :=
  g.start ≤ tick && match g.susp with
    | some u => !u.stopped && tick < u.agreed
    | none => true

/-- Does a suspended gang go on to an instruction boundary of its agents: its agreed tick has come, and it has not stopped (20 R359)? -/
def Gang.draining (g : Gang) : Bool :=
  match g.susp with
  | some u => !u.stopped
  | none => false

/-- Has the time of a launch's next maquette come (25 R422)? Its gangs go to an instruction boundary then. -/
def State.maquetteDue (s : State) (home slot : Nat) : Bool :=
  match find (s.hub home).slots slot with
  | some l => l.claimed && l.nextMq ≤ s.gtick
  | none => false

/-- Has an agent requested the suspension of its gang that is under way? It does nothing more until the agreed tick, and takes no trap (20 R368). -/
def Gang.suspendedBy (k : Gang) (w : Who) : Bool :=
  match k.susp with
  | some { byWho := some (v, _), .. } => v == w
  | _ => false

/-- Can an agent take a turn? -/
def State.canRun (s : State) (w : Who) : Bool :=
  let k := s.core w.core
  s.live && !s.stopped && !k.fenced && !k.dead && !k.gated && match k.group with
    | none => false
    | some g =>
      let busy := match g.agent w.issuer with
        | some th => s.underway w th.prog
        | none => false
      (match find s.gangs g.gang with
        | some gg => !gg.suspendedBy w && (gg.issues s.gtick || (gg.draining && busy)) && (busy || !s.maquetteDue gg.home gg.slot)
        | none => true) && !g.halted && (busy || !g.halting) &&
      match w.issuer with
        | .thread t => match g.threads[t]? with
          | some th => th.status == .running
          | none => false
        | .loader => g.loader.run
        | .storer => g.storer.run
        | .departed => false

/-- The agents that can take a turn, in order. -/
def State.runnable (s : State) : List Who :=
  (s.cores.flatMap fun (e : Nat × Core) => if e.2.group.isSome then agentsOf e.1 else []).filter s.canRun

/-- The place of an agent in the order of agents. -/
def Who.rank (w : Who) : Nat :=
  w.core * 6 + match w.issuer with
    | .thread t => t
    | .loader => 4
    | .storer | .departed => 5

/-- The next agent after the one that moved last (07 R118: the one that issued least recently). -/
def State.nextAgent (s : State) : Option Who :=
  let l := s.runnable
  match l.find? fun w => s.cur.rank < w.rank with
  | some w => some w
  | none => l.head?

/-- The machine event that serves a message in flight. -/
def Msg.served (m : Msg) : Instr :=
  match m with
  | .loadReq .. => .homeLoadRequest
  | .fwdLoad .. => .forwardedLoad
  | .loadRep .. => .loadReply
  | .registration _ => .homeRegistration
  | .revoke .. => .revoke
  | .forceWb .. => .forcedWriteBackAtOwner
  | .ownerData .. => .ownerDataArrival
  | .regAck .. => .registrationAck
  | .mergeData .. => .mergeData
  | .wbAck .. => .writeBackAck
  | .amo _ => .homeAmo
  | .amoRep .. => .amoReply
  | .ustore _ => .untrackedStoreAtHome
  | .far _ => .farAccess
  | .jAck .. => .journalAck
  | .jRefuse .. => .storeRefusal
  | .tlbReq .. => .tlbShootdownRequest
  | .tlbAck .. => .tlbShootdownAck
  | .deposit _ => .mailboxDeposit
  | .reply _ => .replyDeposit
  | .card .. => .jobAccept
  | .record _ => .recordAccept
  | .retired .. => .gangRetirementReport
  | .stealReq .. => .stealReq
  | .stealOffer .. => .stealOffer
  | .stealAck .. => .stealAck
  | .stealNak .. => .stealNak
  | .stealConfirm .. => .stealConfirm
  | .stealPlaced .. => .stealPlaced
  | .stealLate .. => .stealLate
  | .incarnation .. => .incarnationAnnouncement

/-- A suspension that has reached its next step (20 R359, R361). -/
def State.suspTurn (s : State) : Option Turn :=
  s.gangs.findSome? fun (e : Nat × Gang) => match e.2.susp with
    | some u => if u.stopped then some (.event .saveBodyWrite e.1 0) else if u.agreed ≤ s.gtick then some (.event .agreedTick e.1 0) else none
    | none => none

/-- A requester that finds a bank's wait queue full presents itself again (11 R222), when it is not an agent that does so in its
own turn: each of those that retry in its turn. -/
def State.retryTurn (s : State) : Option Turn :=
  let all := s.cores.flatMap fun (e : Nat × Core) => (List.range 3).flatMap fun b =>
    ((e.2.bank b).retry.zip (List.range (e.2.bank b).retry.length)).filterMap fun (x : Waiter × Nat) => match x.1 with
      | .own _ _ _ => none
      | _ => some (Turn.event .waitQueueRetry e.1 (b + 3 * x.2))
  all[s.stepNo / 32 % all.length]?

/-- A copy of a member's own block that is to be made (22 R390). -/
def State.putTurn (s : State) : Option Turn :=
  (List.range 12).findSome? fun k => match (s.ring k).sess with
    | some se => if se.put.isSome then some (.event .putCopyComplete k 0) else none
    | none => none

/-- A launch whose next maquette is due (25 R422). -/
def State.maquetteTurn (s : State) : Option Turn :=
  s.hubs.findSome? fun (h : Nat × Hub) => h.2.slots.findSome? fun (e : Nat × Launch) =>
    if s.maquetteDue h.1 e.1 then some (.event .maquette h.1 e.1) else none

/-- A mailbox command that waits (26 R429): for a register that a write must wait for, or for a group that is no longer halting. -/
def State.mailTurn (s : State) : Option Turn :=
  let core := (vget 0 s.mgmt.margs 0).toNat
  let halting := match s.group core with
    | some g => g.halting
    | none => false
  if !s.mgmt.busy then none
  else if s.mgmt.mcmd == 0x0037 then some (.event .writeState 0 0)
  else if s.mgmt.mcmd == 0x0034 && !halting then some (.event .haltGroup core 1)
  else none

/-- A group that a debugger halts, whose agents stand at instruction boundaries (25 R423). -/
def State.haltTurn (s : State) : Option Turn :=
  s.cores.findSome? fun (e : Nat × Core) => match e.2.group with
    | some g =>
      if g.halting && (agentsOf e.1).all fun w => match g.agent w.issuer with
        | some th => !s.underway w th.prog
        | none => true
      then some (.event .haltGroup e.1 1) else none
    | none => none

/-- The turn that comes next when the agenda names none: a step of the machine's own that is due, then, in rotation, a
message in flight, an agent, a suspension, a job, a hub's cycle. Before bring-up the controller brings the module up with
every unit passing its tests. -/
def State.defaultTurn (s : State) : Turn :=
  if !s.live then
    if s.mgmt.state == 0 then
      .event (.moduleReset { arrays := [], cores := [], clusters := [], hbmFail := [], ports := [] }) 0 0
    else .event .hubCycle 0 0
  else
    let k := s.headOf (s.stepNo / 4 % s.net.length)
    let msg := (s.net[k]?).map fun m => Turn.event m.served k 0
    let agent := s.nextAgent.map Turn.agent
    let susp := s.suspTurn
    let own := match s.stepNo / 4 % 8 with
      | 0 => s.retryTurn
      | 1 => s.putTurn
      | 2 => s.haltTurn
      | 3 => s.maquetteTurn
      | 4 => s.mailTurn
      | _ => none
    let job := match own with
      | some t => some t
      | none => s.jobTurn (s.stepNo / 8)
    let hub := Turn.event .hubCycle (s.stepNo / 8 % 8) 0
    let pick (l : List (Option Turn)) : Turn := (l.findSome? id).getD hub
    match s.stepNo % 4 with
    | 0 => pick [msg, agent, susp, job]
    | 1 => pick [agent, susp, job, msg]
    | 2 => pick [susp, job, msg, agent]
    | _ => if s.stepNo % 8 == 3 then hub else pick [job, susp, agent, msg]

/-- The oldest pending asynchronous cause that a thread may take: none while a handler holds its trap state (14 R254). -/
def Thread.pendingCause (th : Thread) : Option Async := if th.inh then none else th.pend.head?

/-- The pending cause that a thread of a core takes next, but for refusals that `own` names: the oldest, and refusals among each other
in the order of their journal entries (14 R254). -/
def State.dueCause (s : State) (core : Nat) (th : Thread) (own : Nat → Bool) : Option Async :=
  match th.pendingCause with
  | none => none
  | some _ =>
    let l := th.pend.filter fun a => !a.jidx.any own
    l.head?.map fun a =>
      if a.jidx.isNone then a
      else ((s.core core).jrnl.findSome? fun e => l.find? fun b => b.jidx == some e.idx).getD a

/-- The fetch block of an address, kept by a core (03 R37). -/
def State.keepBlock (s : State) (core va : Nat) : State :=
  match s.group core with
  | none => s
  | some g => match s.xlate (s.coreCaches core) g.dom va true .fetch with
    | .error _ => s
    | .ok ph => match s.readBlock ph.pa with
      | .ok bs => let k := s.core core
                  s.setCore core { k with fetch := set k.fetch (blockKey g.dom va) bs }
      | .error _ => s

/-- A fetch block dropped by a core (03 R37). -/
def State.dropBlock (s : State) (core va : Nat) : State :=
  let k := s.core core
  s.setCore core { k with fetch := k.fetch.filter fun e => e.1 % 2 ^ 60 != va / 32 }

end Sys2Proof.Machine
end

