-- ==== Sys2Proof/Machine/Bar.lean ====
section
/-! DEFINITION. Barrier objects (18 R334 to R337): where one is, its two words, the steps on it, and EVT 0x08 to 0x0B. -/

namespace Sys2Proof.Machine

/-- Where a barrier object is: at its home, or in a core's scratchpad (R334). -/
inductive BarAt where
  | mem (pa : Nat) | sp (core off : Nat)
  deriving DecidableEq, Repr

/-! ## The two words -/

/-- `PEND` of word 0 (18 Table 5). -/
def barPend (w : W64) : Nat := fld w 63 24
/-- `ARR` of word 0. -/
def barArr (w : W64) : Nat := fld w 23 0
/-- `PHASE` of word 1 (18 Table 6). -/
def barPhase (w : W64) : Nat := fld w 62 32
/-- `INIT` of word 1. -/
def barInitOf (w : W64) : Nat := fld w 23 0
/-- Word 0 of its fields. -/
def barWord0 (pend arr : Nat) : W64 := w64 (arr + pend * 2 ^ 24)

/-- A step that leaves `ARR` and `PEND` zero completes the phase (R335). -/
def barSettle (w : W64 × W64) : W64 × W64 :=
  if w.1 != 0 then w
  else (w64 (barInitOf w.2), w64 (fld w.2 31 0 + (barPhase w.2 + 1) % 2 ^ 31 * 2 ^ 32 + fld w.2 63 63 * 2 ^ 63))

/-- Read both words in one step: a global object's registrations are revoked first (R335). -/
def State.barRead (s : State) (b : BarAt) : Except Cause (State × W64 × W64) :=
  match b with
  | .sp core off => match s.group core with
    | some g => .ok (s, read64 g.spData off, read64 g.spData (off + 8))
    | none => .error .xlateNone
  | .mem pa => if s.stackFails pa then .error .ecc else match s.revokeNow pa with
    | .error c => .error c
    | .ok s => match s.revokeNow (pa + 8) with
      | .error c => .error c
      | .ok s =>
        let s := s.served pa 16
        .ok (s, s.homeWord pa, s.homeWord (pa + 8))

/-- Write both words: tags stay as they are (R335). -/
def State.barSet (s : State) (b : BarAt) (w : W64 × W64) : State :=
  match b with
  | .sp core off => match s.group core with
    | some g => s.setGroup core (g.pour off [w.1, w.2])
    | none => s
  | .mem pa => (s.poke pa 8 w.1.toNat).poke (pa + 8) 8 w.2.toNat

/-! ## Instructions (R336) -/

/-- The write of an instruction: a global object's is one that a replay makes again (25 R422). -/
def State.barWrite (s : State) (b : BarAt) (w : W64 × W64) : State :=
  match b with
  | .sp _ _ => s.barSet b w
  | .mem pa => ((s.noteRedo s.cur pa 8 w.1 .store).noteRedo s.cur (pa + 8) 8 w.2 .store).barSet b w

/-- The access of a barrier instruction: 16 bytes, aligned to 16. -/
def barRun (ea : Nat) : Run := { ea := ea, n := 16, align := 16, data := 0 }

/-- The place of a checked barrier object; a far one is checked at its core too (R185). The host window, where the CXL agent
performs no such step, is refused as 24 R408 refuses an AMO. -/
def barPlace (s : State) (w : Who) (g : Group) (th : Thread) (ea : Nat) : Do BarAt :=
  match s.tgtOf w g th .both ea with
  | some (.near off) => .ok (.sp w.core off)
  | some (.far core off) => do
    let core ← farPlace s g core off 16
    .ok (.sp core off)
  | some (.mem pa _) => if isHost pa then raise s .xlatePerm (w64 ea) else .ok (.mem pa)
  | none => raise s .xlateNone (w64 ea)

/-- Are waiters due on a word of a barrier object, so that no new request on it comes before them (11 R224)? -/
def State.barBusy (s : State) (b : BarAt) : Bool :=
  match b with
  | .sp core off => s.bankBusy core (off / 8) || s.bankBusy core (off / 8 + 1)
  | .mem _ => false

/-- The checks and waits of a barrier instruction that reads and writes an object as `a` says, at an address, and then both words of the object
in one step. -/
def barOpen (s : State) (a : Acc) (o : MemOrd) (sc : Scope) (ea : Nat) : Do (State × BarAt × W64 × W64) := do
  let w := s.cur
  let th ← getMe s
  let g ← getGroup s
  checkPlace s w g th .both [barRun ea]
  watchRuns s w a [barRun ea]
  let s ← releaseWait s w o sc
  overlapWait s w (s.partsFrom w g th .both 0 0 [barRun ea])
  let b ← barPlace s w g th ea
  if s.barBusy b then waitFor s .memory
  match s.barRead b with
  | .ok (s, w0, w1) =>
    let s := match b with
      | .mem pa => (s.dropWord w.core pa).dropWord w.core (pa + 8)
      | .sp _ _ => s
    .ok (s, b, w0, w1)
  | .error c => raise s c (match c, b with
    | .ecc, .mem pa => w64 pa
    | _, _ => w64 ea)

/-- `bar.init`, R336. -/
def execBarInit (ord : MemOrd) (scope : Scope) (a b : Reg) (s : State) : Host.Outcome State Fault Refusal :=
  finish s.cur (do
    let th ← getMe s
    needLive s th [a, b] []
    let r ← barOpen s .both ord scope (th.rx a).toNat
    let n := (th.rx b).toNat
    if n == 0 || 2 ^ 24 ≤ n then queueTrap s 3 else .ok ((r.1.barWrite r.2.1 (w64 n, w64 n)).retireNext 8))

/-- `bar.arrive`, R336. -/
def execBarArrive (ord : MemOrd) (scope : Scope) (d a : Reg) (s : State) : Host.Outcome State Fault Refusal :=
  finish s.cur (do
    let th ← getMe s
    needLive s th [a] []
    let (t, b, w0, w1) ← barOpen s .both ord scope (th.rx a).toNat
    if barArr w0 == 0 then queueTrap s 3
    else .ok ((t.barWrite b (barSettle (barWord0 (barPend w0) (barArr w0 - 1), w1))).retireX d (w64 (barPhase w1)) 8))

/-- `bar.expect`, R336. -/
def execBarExpect (a b : Reg) (s : State) : Host.Outcome State Fault Refusal :=
  finish s.cur (do
    let th ← getMe s
    needLive s th [a, b] []
    let (t, at_, w0, w1) ← barOpen s .both .weak .th (th.rx a).toNat
    let pend := (th.rx b).toNat + barPend w0
    if 2 ^ 40 ≤ pend then queueTrap s 4
    else .ok ((t.barWrite at_ (barSettle (barWord0 pend (barArr w0), w1))).retireNext 8))

/-- `bar.wait` on the issuing agent, R336: it observes word 1 until `PHASE` differs; an `acq` wait then acts as an acquire
(R337). -/
def barWait (ord : MemOrd) (scope : Scope) (d a b : Reg) (s : State) : Host.Outcome State Fault Refusal :=
  finish s.cur (do
    let th ← getMe s
    needLive s th [a, b] []
    let (s, _, _, w1) ← barOpen s .read ord scope (th.rx a).toNat
    if barPhase w1 != fld (th.rx b) 30 0 then .ok ((s.acquire s.cur.core ord scope).retireX d w1 8)
    else .error (.wait (s.setMe { th with wait := .sync, prog := { th.prog with
      inst := some (.barWait ord scope d a b), stage := if th.prog.stage == 0 then 16 else th.prog.stage, note := 0 } })))

/-- `bar.wait`, R336. -/
def execBarWait (ord : MemOrd) (scope : Scope) (d a b : Reg) (s : State) : Host.Outcome State Fault Refusal :=
  barWait ord scope d a b s

/-- An agent, by its core and its place in the order of the core's agents. -/
def whoAt (core k : Nat) : Who :=
  { core := core, issuer := if k == 4 then .loader else if k == 5 then .storer else .thread k }

/-- The waiting `bar.wait` of agent `selB` of core `selA` observes its object again (R336). -/
def execBarWaitPoll (s : State) : Host.Outcome State Fault Refusal :=
  let w := whoAt s.selA s.selB
  match s.agent w with
  | some th => match th.prog.inst, s.canRun w with
    | some (.barWait o sc d a b), true => barWait o sc d a b { s with cur := w }
    | _, _ => event s
  | none => event s

end Sys2Proof.Machine
end

