-- ==== Sys2Proof/Machine/Retire.lean ====
section
/-! DEFINITION. The retirement of a group and of its gang (02 R26), and what it leaves to those who wait on the group's
scratchpad and rings. -/

namespace Sys2Proof.Machine

/-- The address in `TVAL` of the XLATE_NONE that releases an access parked on a word (R208, 14 Table 1): its lowest byte at or above the new
allocation; a redirected access has none there, and the word's own address stands (notes/assumptions/32.md). -/
def releaseTval (alloc word : Nat) (parts : List SpPart) : W64 :=
  let l := (parts.filter fun p => alloc < p.off + p.n).map fun p => max p.off alloc
  w64 (l.foldl min (l.headD (word * 8)))

/-- Release the requesters parked on words at or above a new allocation with XLATE_NONE (R208): an own access raises it when its agent
moves next, a far request is answered, and an engine's job finds it when it looks again. R208 speaks of requesters that are parked. DESIGN
CHOICE: one that only waits for room in a full queue is released alike (notes/assumptions/14.md). Unsafe: hardware may look it up again. -/
def State.releaseParked (s : State) (core alloc : Nat) : State :=
  let beyond (q : Waiter) : Bool := alloc ≤ q.word * 8
  let all := (s.core core).banks.toList.flatMap fun b => b.queue ++ b.retry
  let ms := (all.filter beyond).flatMap fun q => match q with
    | .far m _ =>
      let at_ := (releaseTval alloc q.word m.parts).toNat
      if m.jidxs.isEmpty then
        [Msg.amoRep m.who none m.seq (m.parts.map (·.k)) (.trap .xlateNone (w64 (farBase + core * 2 ^ 21 + at_)))]
      else m.jidxs.map fun j => .jRefuse m.who.core j 0 0 0
    | _ => []
  let s := { s.setCore core ((s.core core).mapBanks (Bank.keep fun q => !beyond q)) with net := s.net ++ ms }
  (all.filter beyond).foldl (fun (s : State) q => match q with
    | .own i word parts =>
      let w : Who := { core := core, issuer := i }
      match s.agent w with
      | some th => s.setAgent w { th with prog := { th.prog with reply := some (.trap .xlateNone (releaseTval alloc word parts)) } }
      | none => s
    | .job id _ _ => s.refuseJob id core
    | .far _ _ => s) s

/-- Every deposit that waits on a ring of a core's group is refused (18 R339). -/
def Group.refuseDeposits (g : Group) (c : Cause) : List Msg :=
  (List.range 4).flatMap fun j => (g.ring j).waiting.map fun d => d.refuse c

/-- Has a group's last thread ended, and have both of its feed cores stopped (02 R26)? -/
def Group.over (g : Group) : Bool :=
  (g.threads.all fun th => th.status == Status.ended || th.status == Status.idle) && !g.loader.run && !g.storer.run

/-- The group leaves its core: who waits on its scratchpad or rings is refused with XLATE_NONE (10 R185, 18 R339), no refusal of its stores is
kept (14 R262), and stores of its feed cores that are outstanding go on, of no agent of the core (02 R26, R30). -/
def State.clearGroup (s : State) (core : Nat) (g : Group) : State :=
  let s := s.releaseParked core 0
  let k := s.core core
  { s.setCore core { k with
      group := none,
      jrnl := (k.jrnl.map fun e => { e.cleared with owner := .departed, rel := 0, also := [] }).filter fun e => !e.parts.isEmpty } with net := s.net ++ g.refuseDeposits .xlateNone }

/-- The gang retires when its last group has (02 R26), which its home hub hears of (17 R311). -/
def State.gangOver (s : State) (gang : Nat) : State :=
  match find s.gangs gang with
  | none => s
  | some k =>
    if k.cores.any (s.holds gang) then s
    else ({ s with gangs := del s.gangs gang }).send (.retired k.home k.slot k.num none)

/-- Is the gang of a group being suspended? Such a group does not retire (02 R25). -/
def State.suspending (s : State) (gang : Nat) : Bool :=
  match find s.gangs gang with
  | some k => k.susp.isSome
  | none => false

/-- The group of a core retires if nothing of it runs any more (02 R26); one that is being suspended is saved first (02 R25). -/
def State.groupOver (s : State) (core : Nat) : State :=
  match s.group core with
  | none => s
  | some g => if g.over && !s.suspending g.gang then (s.clearGroup core g).gangOver g.gang else s

end Sys2Proof.Machine
end

