-- ==== Sys2Proof/Machine/Branch.lean ====
section
/-! DEFINITION. BR (07 R126, R127) and the marking of registers that calls and returns make (07 R112, 08 R136). -/

namespace Sys2Proof.Machine

/-- A condition on two values (R126). -/
def condHolds (c : Cond) (a b : W64) : Bool :=
  match c with
  | .eq => a == b
  | .ne => a != b
  | .lt => sv 64 a.toNat < sv 64 b.toNat
  | .ge => sv 64 b.toNat ≤ sv 64 a.toNat
  | .ltu => a.toNat < b.toNat
  | .geu => b.toNat ≤ a.toNat

/-- A target by displacement in words from the branch itself, modulo 2^64 (R126). -/
def Thread.near (th : Thread) (imm : ImmA) : W64 := th.pc + 4 * immA imm

/-- A target that has bit 0 or bit 1 set raises ALIGN (R127, 03 R35). -/
def needTarget (s : State) (t : W64) : Do Unit := if fld t 1 0 == 0 then .ok () else raise s .align t

/-- Mark dead the scalar registers that a half of `CVMASK` names and the vector registers that the same half of `VCVMASK`
names (R112, 08 R136). -/
def Thread.mark (th : Thread) (xm vm : W64) : Thread :=
  let th := th.markDead (xm.setWidth 32)
  { th with v := (List.range 32).foldl (fun v j =>
      if bitOf vm j then vset v j { data := 0, tag := 0, side := 0, live := false } else v) th.v }

/-- What `call` and `callr` mark. -/
def Thread.markCall (th : Thread) : Thread := th.mark th.cvmask th.vcvmask
/-- What `ret` marks. -/
def Thread.markRet (th : Thread) : Thread := th.mark (th.cvmask >>> 32) (th.vcvmask >>> 32)

/-- `br`, R126. -/
def execBr (cond : Cond) (a b : Reg) (imm : ImmA) (s : State) : Host.Outcome State Fault Refusal :=
  scalar s [a, b] fun th => if condHolds cond (th.rx a) (th.rx b) then th.jumpTo (th.near imm) else th.advance (sizeA imm)

/-- `jmp .` on a feed core (02 R30): it waits until every journal entry of the feed core is acknowledged or refused, and then stops the
feed core at the instruction that follows; the group may retire with it. Refusals among them are causes raised on the `jmp`, which
stop the feed core there and are delivered under 14 R262. -/
def stopFeed (s : State) (len : Nat) : Do State := do
  let th ← getMe s
  if (s.core s.cur.core).jrnl.any fun e => e.owner == s.cur.issuer && e.state == .out then waitHeld s .journal
  if !th.pend.isEmpty then return (s.withdraw s.cur).feedLate s.cur
  let s := s.retire (th.advance len)
  let g ← getGroup s
  let g := if s.cur.issuer == .loader then { g with loader := { g.loader with run := false } }
    else { g with storer := { g.storer with run := false } }
  .ok ((s.setGroup s.cur.core g).groupOver s.cur.core)

/-- `jmp`, R126. -/
def execJmp (imm : ImmA) (s : State) : Host.Outcome State Fault Refusal :=
  if s.cur.issuer.isFeed && immA imm == 0 then finish s.cur (stopFeed s (sizeA imm))
  else scalar s [] fun th => th.jumpTo (th.near imm)

/-- `jmpr`, R126, R127. -/
def execJmpr (a : Reg) (imm : BitVec 16) (s : State) : Host.Outcome State Fault Refusal :=
  finish s.cur (do
    let th ← getMe s
    needLive s th [a] []
    let t := th.rx a + imm.signExtend 64
    needTarget s t
    .ok (s.retire (th.jumpTo t)))

/-- `call`, R126, R112. -/
def execCall (imm : ImmA) (s : State) : Host.Outcome State Fault Refusal :=
  scalar s [] fun th => (th.markCall.wx 1 (th.pc + w64 (sizeA imm))).jumpTo (th.near imm)

/-- `callr`, R126, R112, R127. -/
def execCallr (a : Reg) (imm : BitVec 16) (s : State) : Host.Outcome State Fault Refusal :=
  finish s.cur (do
    let th ← getMe s
    needLive s th [a] []
    let t := th.rx a + imm.signExtend 64
    needTarget s t
    .ok (s.retire ((th.markCall.wx 1 (th.pc + 8)).jumpTo t)))

/-- `ret`, R126, R112, R127. -/
def execRet (s : State) : Host.Outcome State Fault Refusal :=
  finish s.cur (do
    let th ← getMe s
    needLive s th [1] []
    let t := th.rx 1
    needTarget s t
    .ok (s.retire (th.markRet.jumpTo t)))

end Sys2Proof.Machine
end

