-- ==== Sys2Proof/Machine/Number.lean ====
section
/-! DEFINITION. Number formats (06 R86 to R95) and rounding (R100 to R102): every value is read into an exact number, computed
exactly, and rounded once. -/

namespace Sys2Proof.Machine

/-! ## Conditions (06 Table 6) -/

/-- A set of conditions, in the bit positions of `FLAGS`. -/
abbrev Flg := BitVec 6
/-- Invalid operation. -/
def fNV : Flg := 1
/-- Division by zero. -/
def fDZ : Flg := 2
/-- Overflow. -/
def fOF : Flg := 4
/-- Underflow. -/
def fUF : Flg := 8
/-- Inexact. -/
def fNX : Flg := 16
/-- Saturation. -/
def fSAT : Flg := 32
/-- A condition where it holds. -/
def flagIf (p : Bool) (f : Flg) : Flg := if p then f else 0

/-! ## Formats -/

/-- An IEEE format by its exponent and fraction bits (06 Table 1). -/
structure Fp where
  ebits : Nat
  fbits : Nat
  deriving DecidableEq, Repr

/-- The format that coding F names. -/
def fpOf (f : FFmt) : Fp :=
  match f with
  | .f16 => { ebits := 5, fbits := 10 }
  | .bf16 => { ebits := 8, fbits := 7 }
  | .f32 => { ebits := 8, fbits := 23 }
  | .f64 => { ebits := 11, fbits := 52 }

/-- FP32. -/
def fp32 : Fp := fpOf .f32

/-- The width in bits. -/
def Fp.width (f : Fp) : Nat := 1 + f.ebits + f.fbits
/-- The exponent of the smallest normal magnitude. -/
def Fp.emin (f : Fp) : Int := 2 - (2 : Int) ^ (f.ebits - 1)
/-- The bits of +∞. -/
def Fp.infBits (f : Fp) : Nat := (2 ^ f.ebits - 1) * 2 ^ f.fbits
/-- The canonical NaN (06 Table 1). -/
def Fp.nanBits (f : Fp) : Nat := f.infBits + 2 ^ (f.fbits - 1)
/-- Bits with a sign. -/
def Fp.signed (f : Fp) (neg : Bool) (bits : Nat) : Nat := bits + natOf neg * 2 ^ (f.ebits + f.fbits)

/-- A value: a NaN (which may be signalling), an infinity, a zero, or ±m × 2^e with m ≠ 0. -/
inductive Num where
  | nan (sig : Bool) | inf (neg : Bool) | zero (neg : Bool) | fin (neg : Bool) (m : Nat) (e : Int)
  deriving DecidableEq, Repr

/-- The value of bits in an IEEE format (06 R87). -/
def Fp.read (f : Fp) (bits : Nat) : Num :=
  let neg := bits / 2 ^ (f.ebits + f.fbits) % 2 == 1
  let ex := bits / 2 ^ f.fbits % 2 ^ f.ebits
  let fr := bits % 2 ^ f.fbits
  if ex == 2 ^ f.ebits - 1 then
    if fr == 0 then .inf neg else .nan (fr / 2 ^ (f.fbits - 1) == 0)
  else if ex == 0 then
    if fr == 0 then .zero neg else .fin neg fr (f.emin - f.fbits)
  else .fin neg (2 ^ f.fbits + fr) (f.emin - f.fbits + (ex - 1 : Nat))

/-- An integer as a value. -/
def numOfInt (v : Int) : Num := if v = 0 then .zero false else .fin (v < 0) v.natAbs 0

/-- The value with its sign inverted. -/
def Num.neg (x : Num) : Num :=
  match x with
  | .nan s => .nan s
  | .inf n => .inf (!n)
  | .zero n => .zero (!n)
  | .fin n m e => .fin (!n) m e

/-- Is it a NaN? -/
def Num.isNan (x : Num) : Bool :=
  match x with
  | .nan _ => true
  | _ => false

/-- Is it a signalling NaN? -/
def Num.isSig (x : Num) : Bool :=
  match x with
  | .nan s => s
  | _ => false

/-- Its sign. -/
def Num.isNeg (x : Num) : Bool :=
  match x with
  | .nan _ => false
  | .inf n | .zero n => n
  | .fin n _ _ => n

/-- The value times a power of two. -/
def Num.scale (x : Num) (k : Int) : Num :=
  match x with
  | .fin n m e => .fin n m (e + k)
  | x => x

/-! ## Rounding (06 R100 to R102) -/

/-- A rounding mode in force; RSC with the lane's draw. -/
inductive RMode where
  | rne | rtz | rdn | rup | rmm | rsc (draw : W64)
  deriving DecidableEq, Repr

/-- A nonzero exact result: ±m × 2^e, and whether its magnitude lies strictly between that and (m + 1) × 2^e. -/
structure Ex where
  neg : Bool
  m   : Nat
  e   : Int
  more : Bool
  deriving DecidableEq, Repr

/-- The least w with r × 2^w / 2^sh an integer, or 32 (R102). -/
def drawWidth (r sh : Nat) (more : Bool) : Nat :=
  if more then 32 else ((List.range 32).find? fun w => r * 2 ^ w % 2 ^ sh == 0).getD 32

/-- Does a magnitude between two neighbours, `lo` the lower, go to the upper one? The rest above `lo` is r / 2^sh. -/
def roundsUp (mode : RMode) (neg : Bool) (lo r sh : Nat) (more : Bool) : Bool :=
  let half := 2 ^ sh
  match mode with
  | .rne => half < 2 * r || (2 * r == half && (more || lo % 2 == 1))
  | .rtz => false
  | .rdn => neg
  | .rup => !neg
  | .rmm => half ≤ 2 * r
  | .rsc draw =>
    let w := drawWidth r sh more
    2 ^ w ≤ r * 2 ^ w / 2 ^ sh + draw.toNat / 2 ^ (64 - w)

/-- A magnitude rounded to a multiple of 2^q: the multiple, and whether it is inexact. -/
def Ex.roundAt (x : Ex) (mode : RMode) (q : Int) : Nat × Bool :=
  if q ≤ x.e then (x.m * 2 ^ (x.e - q).toNat, x.more)
  else
    let sh := (q - x.e).toNat
    let lo := x.m / 2 ^ sh
    let r := x.m % 2 ^ sh
    if r == 0 && !x.more then (lo, false)
    else (if roundsUp mode x.neg lo r sh x.more then lo + 1 else lo, true)

/-- The exponent of the leading bit. -/
def Ex.top (x : Ex) : Int := x.e + (Nat.log2 x.m : Nat)

/-- Does an overflowing result of this sign stay finite (R101)? -/
def staysFinite (mode : RMode) (neg : Bool) : Bool :=
  match mode with
  | .rtz => true
  | .rdn => !neg
  | .rup => neg
  | .rne | .rmm | .rsc _ => false

/-- Round an exact result to an IEEE format (R101, R102): its bits and conditions. Tininess is detected after rounding. -/
def Fp.round (f : Fp) (mode : RMode) (x : Ex) : Nat × Flg :=
  let low := f.emin - f.fbits
  let q := max (x.top - f.fbits) low
  let (n, inexact) := x.roundAt mode q
  let bits := (q - low).toNat * 2 ^ f.fbits + n
  if f.infBits ≤ bits then
    (f.signed x.neg (if staysFinite mode x.neg then f.infBits - 1 else f.infBits), fOF ||| fNX)
  else
    let (n', _) := x.roundAt mode (x.top - f.fbits)
    let tiny := x.top < f.emin && !(x.top == f.emin - 1 && n' == 2 ^ (f.fbits + 1))
    (f.signed x.neg bits, flagIf inexact fNX ||| flagIf (tiny && inexact) fUF)

/-- A zero in an IEEE format. -/
def Fp.zero (f : Fp) (neg : Bool) : Nat := f.signed neg 0
/-- An infinity. -/
def Fp.inf (f : Fp) (neg : Bool) : Nat := f.signed neg f.infBits

/-- A value rounded to an IEEE format (R87): a NaN is canonical, and a signalling one sets NV. -/
def Fp.ofNum (f : Fp) (mode : RMode) (x : Num) : Nat × Flg :=
  match x with
  | .nan s => (f.nanBits, flagIf s fNV)
  | .inf n => (f.inf n, 0)
  | .zero n => (f.zero n, 0)
  | .fin n m e => f.round mode { neg := n, m := m, e := e, more := false }

/-- A value rounded to an integer: the integer, and whether it is inexact. -/
def roundInt (mode : RMode) (neg : Bool) (m : Nat) (e : Int) : Int × Bool :=
  let (n, inexact) := ({ neg := neg, m := m, e := e, more := false } : Ex).roundAt mode 0
  (if neg then -(n : Int) else n, inexact)

/-! ## Arithmetic (06 R87, 08 R144, R145) -/

/-- The result for NaN operands: canonical, with NV for a signalling one. -/
def Fp.nanOf (f : Fp) (xs : List Num) : Nat × Flg := (f.nanBits, flagIf (xs.any Num.isSig) fNV)

/-- The sign of an exact zero sum of two values (IEEE 754): their common sign, else + unless the mode is RDN. -/
def zeroSign (mode : RMode) (a b : Bool) : Bool := if a == b then a else mode == .rdn

/-- ±m × 2^e as an integer multiple of 2^q, for q ≤ e. -/
def asMultiple (neg : Bool) (m : Nat) (e q : Int) : Int :=
  let v : Int := (m * 2 ^ (e - q).toNat : Nat)
  if neg then -v else v

/-- The sum of two values, rounded. -/
def Fp.add (f : Fp) (mode : RMode) (a b : Num) : Nat × Flg :=
  match a, b with
  | .nan _, _ | _, .nan _ => f.nanOf [a, b]
  | .inf n, .inf k => if n == k then (f.inf n, 0) else (f.nanBits, fNV)
  | .inf n, _ | _, .inf n => (f.inf n, 0)
  | .zero n, .zero k => (f.zero (zeroSign mode n k), 0)
  | .zero _, x | x, .zero _ => f.ofNum mode x
  | .fin n m e, .fin k l d =>
    let q := min e d
    let v := asMultiple n m e q + asMultiple k l d q
    if v = 0 then (f.zero (zeroSign mode n k), 0)
    else f.round mode { neg := v < 0, m := v.natAbs, e := q, more := false }

/-- The exact product of two values that are not NaN; none for infinity times zero. -/
def mulExact (a b : Num) : Option Num :=
  let n := a.isNeg != b.isNeg
  match a, b with
  | .inf _, .zero _ | .zero _, .inf _ => none
  | .inf _, _ | _, .inf _ => some (.inf n)
  | .zero _, _ | _, .zero _ => some (.zero n)
  | .fin _ m e, .fin _ l d => some (.fin n (m * l) (e + d))
  | _, _ => none

/-- A product, rounded. -/
def Fp.mul (f : Fp) (mode : RMode) (a b : Num) : Nat × Flg :=
  if a.isNan || b.isNan then f.nanOf [a, b]
  else match mulExact a b with
    | some p => f.ofNum mode p
    | none => (f.nanBits, fNV)

/-- A product plus a third value, rounded once (R145). -/
def Fp.fma (f : Fp) (mode : RMode) (a b c : Num) : Nat × Flg :=
  if a.isNan || b.isNan then f.nanOf [a, b, c]
  else match mulExact a b with
    | some p => f.add mode p c
    | none => (f.nanBits, fNV)

/-- The bits of a quotient or a root that are computed exactly. -/
def workBits : Nat := 160

/-- A quotient, rounded (R145). -/
def Fp.div (f : Fp) (mode : RMode) (a b : Num) : Nat × Flg :=
  let n := a.isNeg != b.isNeg
  match a, b with
  | .nan _, _ | _, .nan _ => f.nanOf [a, b]
  | .inf _, .inf _ | .zero _, .zero _ => (f.nanBits, fNV)
  | .inf _, _ => (f.inf n, 0)
  | _, .inf _ => (f.zero n, 0)
  | .zero _, _ => (f.zero n, 0)
  | _, .zero _ => (f.inf n, fDZ)
  | .fin _ m e, .fin _ l d =>
    let k := workBits + Nat.log2 l
    let v := m * 2 ^ k
    f.round mode { neg := n, m := v / l, e := e - d - k, more := v % l != 0 }

/-- The integer square root: bits from `k` downward, under the root `r` found so far. -/
def rootFrom (k r v : Nat) : Nat :=
  match k with
  | 0 => r
  | j + 1 =>
    let t := r + 2 ^ j
    rootFrom j (if t * t ≤ v then t else r) v

/-- The integer square root of a number. -/
def isqrt (v : Nat) : Nat := rootFrom (Nat.log2 v / 2 + 1) 0 v

/-- A square root, rounded (R145). -/
def Fp.sqrt (f : Fp) (mode : RMode) (a : Num) : Nat × Flg :=
  match a with
  | .nan _ => f.nanOf [a]
  | .zero n => (f.zero n, 0)
  | .inf false => (f.inf false, 0)
  | .inf true | .fin true _ _ => (f.nanBits, fNV)
  | .fin false m e =>
    let k := 2 * workBits + (if e % 2 == 0 then 0 else 1)
    let v := m * 2 ^ k
    let r := isqrt v
    f.round mode { neg := false, m := r, e := (e - k) / 2, more := r * r != v }

/-! ## Comparison -/

/-- Is a value, not a NaN, below another? −0 equals +0. -/
def Num.below (a b : Num) : Bool :=
  match a, b with
  | .nan _, _ | _, .nan _ => false
  | .inf n, .inf k => n && !k
  | .inf n, _ => n
  | _, .inf k => !k
  | .zero _, .zero _ => false
  | .zero _, .fin k _ _ => !k
  | .fin n _ _, .zero _ => n
  | .fin n m e, .fin k l d =>
    let q := min e d
    asMultiple n m e q < asMultiple k l d q

/-- Do two values compare equal? -/
def Num.same (a b : Num) : Bool := !a.isNan && !b.isNan && !a.below b && !b.below a

/-- Does `a` come before `b` in the order of `fmin` and `fmax`, −0 below +0 (R87)? -/
def Num.before (a b : Num) : Bool :=
  match a, b with
  | .zero n, .zero k => n && !k
  | _, _ => a.below b

/-- `fmin` or `fmax` on two operands given as bits (R87): one of them, or a NaN. -/
def Fp.minMax (f : Fp) (isMax : Bool) (x y : Nat) : Nat × Flg :=
  let a := f.read x
  let b := f.read y
  let fl := flagIf (a.isSig || b.isSig) fNV
  if a.isNan && b.isNan then (f.nanBits, fl)
  else if a.isNan then (y, fl)
  else if b.isNan then (x, fl)
  else if isMax then (if a.before b then y else x, fl)
  else (if b.before a then y else x, fl)

/-- The conditions of `fcmp` (R145): 0 eq, 1 lt, 2 le, 3 un. -/
def Fp.compare (f : Fp) (cond : Nat) (x y : Nat) : Bool × Flg :=
  let a := f.read x
  let b := f.read y
  let unordered := a.isNan || b.isNan
  let sig := flagIf (a.isSig || b.isSig) fNV
  match cond with
  | 0 => (a.same b, sig)
  | 1 => (a.below b, flagIf unordered fNV)
  | 2 => (a.below b || a.same b, flagIf unordered fNV)
  | _ => (unordered, sig)

/-! ## Integers (06 R86) -/

/-- An integer kind: its width and whether it is signed. -/
structure IntFmt where
  width  : Nat
  signed : Bool
  deriving DecidableEq, Repr

/-- The least and greatest values. -/
def IntFmt.lo (i : IntFmt) : Int := if i.signed then -(2 : Int) ^ (i.width - 1) else 0
/-- The greatest value. -/
def IntFmt.hi (i : IntFmt) : Int := (2 : Int) ^ (if i.signed then i.width - 1 else i.width) - 1
/-- A value as bits. -/
def IntFmt.bits (i : IntFmt) (v : Int) : Nat := (v % (2 : Int) ^ i.width).toNat
/-- A value clamped to the range, with SAT when it clamps. -/
def IntFmt.clamp (i : IntFmt) (v : Int) : Nat × Flg :=
  if v < i.lo then (i.bits i.lo, fSAT) else if i.hi < v then (i.bits i.hi, fSAT) else (i.bits v, 0)

/-- An IEEE value to an integer (R86): the nearest bound with NV when it is out of range, 0 with NV for a NaN. -/
def IntFmt.ofIeee (i : IntFmt) (mode : RMode) (x : Num) : Nat × Flg :=
  match x with
  | .nan _ => (0, fNV)
  | .inf n => (i.bits (if n then i.lo else i.hi), fNV)
  | .zero _ => (0, 0)
  | .fin n m e =>
    let (v, inexact) := roundInt mode n m e
    if v < i.lo then (i.bits i.lo, fNV) else if i.hi < v then (i.bits i.hi, fNV) else (i.bits v, flagIf inexact fNX)

/-- A T8 or block-scaled value to an integer (08 R152): rounded, then clamped with SAT. -/
def IntFmt.ofTapered (i : IntFmt) (mode : RMode) (x : Num) : Nat × Flg :=
  match x with
  | .nan _ => (0, fNV)
  | .inf n => (i.bits (if n then i.lo else i.hi), fSAT)
  | .zero _ => (0, 0)
  | .fin n m e =>
    let (v, inexact) := roundInt mode n m e
    let (b, fl) := i.clamp v
    (b, fl ||| flagIf inexact fNX)

/-! ## Tapered formats (06 R89 to R92) -/

/-- The length of the regime run: how many of the bits below place `k` equal `first`. -/
def runLen (code : Nat) (first : Nat) (k : Nat) : Nat :=
  match k with
  | 0 => 0
  | j + 1 => if code / 2 ^ j % 2 == first then 1 + runLen code first j else 0

/-- The magnitude of a positive code of `w` bits: a regime run, `x` exponent bits (1 for T8, 0 for T6), a fraction. -/
def taperedMag (w x code : Nat) : Nat × Int :=
  let first := code / 2 ^ (w - 1) % 2
  let m := runLen code first w
  let k : Int := if first == 1 then (m : Int) - 1 else -(m : Int)
  let rest := w - m - 1
  let fb := rest - x
  let e : Nat := if x == 1 && 1 ≤ rest then code / 2 ^ fb % 2 else 0
  let fr := code % 2 ^ fb
  let ex : Int := if x == 1 then 2 * k + e else k
  (2 ^ fb + fr, ex - fb)

/-- A tapered format by its width and exponent bits: T8 is 8 and 1, T6 is 6 and 0. -/
structure Tap where
  w : Nat
  x : Nat
  deriving DecidableEq, Repr

/-- T8. -/
def t8 : Tap := { w := 8, x := 1 }
/-- T6. -/
def t6 : Tap := { w := 6, x := 0 }

/-- The code of NaR. -/
def Tap.nar (t : Tap) : Nat := 2 ^ (t.w - 1)
/-- The greatest positive code. -/
def Tap.top (t : Tap) : Nat := 2 ^ (t.w - 1) - 1

/-- The value of a code; a T6 code's bits above its width are ignored (R91). NaR reads as a quiet NaN. -/
def Tap.read (t : Tap) (code : Nat) : Num :=
  let c := code % 2 ^ t.w
  if c == 0 then .zero false
  else if c == t.nar then .nan false
  else
    let (m, e) := taperedMag (t.w - 1) t.x (c % 2 ^ (t.w - 1))
    .fin (t.nar ≤ c) m e

/-- The magnitude of a positive code in units of 2^−12 (T8) or 2^−4 (T6). -/
def Tap.units (t : Tap) (code : Nat) : Nat :=
  let (m, e) := taperedMag (t.w - 1) t.x code
  m * 2 ^ (e + (if t.x == 1 then 12 else 4)).toNat

/-- The exponent of the unit. -/
def Tap.unit (t : Tap) : Int := if t.x == 1 then -12 else -4

/-- Does m × 2^e compare above, and does it equal, n × 2^d? -/
def cmpMag (m : Nat) (e : Int) (n : Nat) (d : Int) : Bool × Bool :=
  let q := min e d
  let a := m * 2 ^ (e - q).toNat
  let b := n * 2 ^ (d - q).toNat
  (b < a, a == b)

/-- Round a magnitude to the nearest positive code, a tie to the code with bit 0 clear (R92): it lies between the smallest and
the largest. -/
def Tap.nearest (t : Tap) (m : Nat) (e : Int) : Nat :=
  (List.range (t.top - 1)).foldl (fun c j =>
    let lo := j + 1
    let (above, tie) := cmpMag m e (t.units lo + t.units (lo + 1)) (t.unit - 1)
    if above || (tie && lo % 2 == 1) then lo + 1 else c) 1

/-- Round a value into T8 or T6 (R92): its code and conditions. -/
def Tap.ofNum (t : Tap) (x : Num) : Nat × Flg :=
  match x with
  | .nan s => (t.nar, flagIf s fNV)
  | .zero _ => (0, 0)
  | .inf n => (t.top + natOf n * t.nar, fSAT ||| fNX)
  | .fin n m e =>
    let sign := natOf n * t.nar
    if (cmpMag m e (t.units t.top) t.unit).1 then (t.top + sign, fSAT ||| fNX)
    else if (cmpMag 1 (t.unit - 1) m e).1 then (0, fUF ||| fNX)
    else
      let c := t.nearest m e
      (c + sign, flagIf (!(cmpMag m e (t.units c) t.unit).2) fNX)

/-! ## Elements by format tag (06 Table 4, R93) -/

/-- The width of an element of a tag in bits. -/
def tagBits (tag : Nat) : Nat :=
  match tag with
  | 1 | 5 | 6 | 7 | 12 => 8
  | 2 | 8 | 9 => 16
  | 3 | 10 => 32
  | 4 | 11 => 64
  | _ => 0

/-- Is it a block-scaled tag? -/
def tagBlock (tag : Nat) : Bool := tag == 6 || tag == 7 || tag == 12
/-- Is it an integer tag? -/
def tagInt (tag : Nat) : Bool := 1 ≤ tag && tag ≤ 4
/-- The IEEE format of a tag. -/
def tagFp (tag : Nat) : Option Fp :=
  match tag with
  | 8 => some (fpOf .bf16) | 9 => some (fpOf .f16) | 10 => some (fpOf .f32) | 11 => some (fpOf .f64) | _ => none

/-- The value of an element under its block's scale byte, which the other formats ignore (R93). -/
def elemNum (tag code scale : Nat) : Num :=
  match tagFp tag with
  | some f => f.read code
  | none =>
    if tagInt tag then numOfInt (sv (tagBits tag) code)
    else if tag == 5 then t8.read code
    else if scale == 255 then .nan false
    else
      let x := match tag with
        | 6 => t8.read code
        | 7 => t6.read code
        | _ => numOfInt (sv 8 code)
      x.scale ((scale : Int) - 127)

/-! ## `crand` (08 R158) -/

/-- The rounds of `crand`. -/
def crandFrom (n : Nat) (x k : W64) : W64 :=
  match n with
  | 0 => x
  | j + 1 =>
    let x := (x ^^^ k) * 0xD6E8FEB86659FD93
    crandFrom j (x ^^^ (x >>> 32)) (k + 0x9E3779B97F4A7C15)

/-- `crand(key, ctr)`. -/
def crand (key ctr : W64) : W64 := crandFrom 6 ctr key

/-! ## Special functions of FP32 (08 R157) -/

/-- ln 2 × 2^320, rounded down. -/
def ln2Fixed : Nat := 0xb17217f7d1cf79abc9e3b39803f2f6af40f343267298b62d8a0d175b8baafa2be7b876206debac98

/-- The terms of the exponential series of y / 2^320 from the k-th, added to `acc`. -/
def expSeries (fuel k term y acc : Nat) : Nat :=
  match fuel with
  | 0 => acc
  | f + 1 =>
    let t := term * y / 2 ^ 320 / k
    expSeries f (k + 1) t y (acc + t)

/-- 2^(j / 2^t) × 2^320 for 0 ≤ j < 2^t, within a few units. -/
def exp2Frac (j t : Nat) : Nat := expSeries 90 1 (2 ^ 320) (j * ln2Fixed / 2 ^ t) (2 ^ 320)

/-- 2^x for FP32. -/
def exp2F (mode : RMode) (a : Num) : Nat × Flg :=
  match a with
  | .nan _ => fp32.nanOf [a]
  | .zero _ => fp32.ofNum mode (.fin false 1 0)
  | .inf false => (fp32.inf false, 0)
  | .inf true => (fp32.zero false, 0)
  | .fin n m e =>
    let big := (cmpMag m e 400 0).1
    if big then fp32.round mode { neg := false, m := 1, e := if n then -400 else 400, more := n }
    else
      let t := (-e).toNat
      let v : Int := if n then -((m * 2 ^ e.toNat : Nat) : Int) else (m * 2 ^ e.toNat : Nat)
      let k := v / (2 ^ t : Nat)
      let j := (v % (2 ^ t : Nat)).toNat
      if j == 0 then fp32.round mode { neg := false, m := 1, e := k, more := false }
      else fp32.round mode { neg := false, m := exp2Frac j t, e := k - 320, more := true }

/-- 1/x for FP32. -/
def rcpF (mode : RMode) (a : Num) : Nat × Flg := fp32.div mode (.fin false 1 0) a

/-- 1/√x for FP32. -/
def rsqrtF (mode : RMode) (a : Num) : Nat × Flg :=
  match a with
  | .nan _ => fp32.nanOf [a]
  | .zero n => (fp32.inf n, fDZ)
  | .inf false => (fp32.zero false, 0)
  | .inf true | .fin true _ _ => (fp32.nanBits, fNV)
  | .fin false m e =>
    let m' := if e % 2 == 0 then m else m * 2
    let e' := if e % 2 == 0 then e else e - 1
    let v := 2 ^ (2 * workBits)
    let r := isqrt (v / m')
    fp32.round mode { neg := false, m := r, e := -(e' / 2) - workBits, more := r * r * m' != v }

/-- The terms of the series of 2 artanh(z / 2^320): z^(2k+1) / (2k + 1). -/
def atanhSeries (fuel k pow zz acc : Nat) : Nat :=
  match fuel with
  | 0 => acc
  | f + 1 => atanhSeries f (k + 2) (pow * zz / 2 ^ 320) zz (acc + 2 * pow / k)

/-- log2 of m / 2^b, which lies in [1, 2), times 2^310, within a few units. -/
def log2Frac (m b : Nat) : Nat :=
  let z := (m - 2 ^ b) * 2 ^ 320 / (m + 2 ^ b)
  atanhSeries 110 1 z (z * z / 2 ^ 320) 0 * 2 ^ 310 / ln2Fixed

/-- log2 x for FP32. -/
def log2F (mode : RMode) (a : Num) : Nat × Flg :=
  match a with
  | .nan _ => fp32.nanOf [a]
  | .zero _ => (fp32.inf true, fDZ)
  | .inf false => (fp32.inf false, 0)
  | .inf true | .fin true _ _ => (fp32.nanBits, fNV)
  | .fin false m e =>
    let b := Nat.log2 m
    let k := e + (b : Int)
    if m == 2 ^ b then fp32.ofNum mode (numOfInt k)
    else
      let v : Int := k * (2 : Int) ^ 310 + (log2Frac m b : Int)
      fp32.round mode { neg := v < 0, m := v.natAbs, e := -310, more := true }

end Sys2Proof.Machine
end

