-- ==== Sys2Proof/Machine/Flags.lean ====
section
/-! DEFINITION. What arithmetic does to `FLAGS`, `AMAX`, `SRCTR` and `FLAGUNION` (06 R102 to R107), and the rounding mode in
force (03 R41). -/

namespace Sys2Proof.Machine

/-- The mode with a code of 03 Table 4 and 06 Table 5; RSC draws for lane `j` (06 R102). -/
def Thread.modeNo (th : Thread) (code j : Nat) : RMode :=
  match code with
  | 1 => .rtz | 2 => .rdn | 3 => .rup | 4 => .rmm
  | 5 => .rsc (crand th.srkey (th.srctr + w64 j))
  | _ => .rne

/-- The mode that `RMODE` names; what 6 and 7 name is open. -/
def Thread.rmodeCode (th : Thread) : Nat :=
  let m := fld th.rmode 2 0
  if m < 6 then m else Config.openMode m % 6

/-- The code of the effective mode (03 R41). -/
def Thread.modeCode (th : Thread) (rm : Rm) : Nat :=
  match rm with
  | .thread => th.rmodeCode
  | .rne => 0 | .rtz => 1 | .rdn => 2 | .rup => 3 | .rmm => 4 | .rsc => 5

/-- The effective mode for lane `j`. -/
def Thread.mode (th : Thread) (rm : Rm) (j : Nat) : RMode := th.modeNo (th.modeCode rm) j

/-- The thread after `n` draws, when the mode is RSC (06 R102). -/
def Thread.drawn (th : Thread) (rm : Rm) (n : Nat) : Thread :=
  if th.modeCode rm == 5 then { th with srctr := th.srctr + w64 n } else th

/-- The union of the lanes' conditions. -/
def unionOf (ls : List Flg) : Flg := ls.foldl (· ||| ·) 0

/-- The enabled conditions (06 Table 6). -/
def Thread.enabled (th : Thread) : Flg := th.flags.extractLsb' 8 6

/-- The conditions raised (06 R103). -/
def Thread.raiseFlags (th : Thread) (f : Flg) : Thread := { th with flags := th.flags ||| f.setWidth 64 }

/-- Conditions on their way to the cluster's `FLAGUNION` (06 R105). -/
def State.unite (s : State) (core : Nat) (f : Flg) : State :=
  if f == 0 then s
  else
    let c := s.cluster (clusterOf core)
    let s' := s.setCluster (clusterOf core) { c with raised := c.raised ||| f }
    if c.raised == 0 then s'.soon (.event .flagunionSet (clusterOf core) 0) else s'

/-- FP when a lane raises an enabled condition (06 R104): every condition raised, and the lowest lane that raised an enabled
one. -/
def needQuiet (s : State) (th : Thread) (ls : List Flg) : Do Unit :=
  match findIdx (fun f => f &&& th.enabled != 0) ls with
  | some (j, _) => raise s .fp (w64 ((unionOf ls).toNat + j * 2 ^ 32))
  | none => .ok ()

/-- FP when a step of a reduction raises an enabled condition. R104 names lanes, and a reduction's steps have none: which of its `n`
lanes `TVAL` names is free. -/
def needQuietTree (s : State) (th : Thread) (n : Nat) (f : Flg) : Do Unit :=
  if f &&& th.enabled == 0 then .ok ()
  else
    let (lane, s) := s.freeNat n
    raise s .fp (w64 (f.toNat + lane * 2 ^ 32))

/-- Retire an arithmetic instruction: its lanes' conditions, and its results. -/
def fpRetire (s : State) (th : Thread) (ls : List Flg) (f : Thread → Thread) : Do State := do
  needQuiet s th ls
  .ok ((s.retire ((f th).raiseFlags (unionOf ls))).unite s.cur.core (unionOf ls))

/-- `AMAX` after one source element of a narrowing conversion (06 R106). -/
def amaxStep (a : W64) (x : Num) : W64 :=
  match x with
  | .nan _ => a ||| 0x80000000
  | _ =>
    let m := match x with
      | .fin _ m e => (fp32.round .rup { neg := false, m := m, e := e, more := false }).1
      | .inf _ => fp32.infBits
      | _ => 0
    w64 (a.toNat / 2 ^ 31 * 2 ^ 31 + max (a.toNat % 2 ^ 31) m)

/-- `AMAX` after a narrowing conversion of several elements. -/
def Thread.amaxOf (th : Thread) (narrow : Bool) (xs : List Num) : Thread :=
  if narrow then { th with amax := xs.foldl amaxStep th.amax } else th

end Sys2Proof.Machine
end

