-- ==== Sys2Proof/Machine/Ctl.lean ====
section
/-! DEFINITION. CTL (07 R128 to R132): the control registers of 03 Table 6a, each read and written through its own map, with
the side effects its chapter gives it. -/

namespace Sys2Proof.Machine

/-! ## Reading (R128) -/

/-- `PSTRIDEn` and `pn` are vectors of a thread; `n` is the low three bits of the register's number. -/
def Thread.strideOf (th : Thread) (n : Nat) : W64 := (vget 0 th.pstride n).setWidth 64

/-- `CPCTL` (16 Table 2). -/
def Group.cpctl (g : Group) : W64 := w64 (natOf g.cpValid * 16 + g.cpJoin.toNat * 4 + g.cpNops.toNat)

/-- `JSTAT` (18 Table 4). -/
def Group.jstat (g : Group) : W64 := w64 (g.jinfl % 2 ^ 7 + g.jlast.toNat * 2 ^ 24 + g.jdone.toNat * 2 ^ 32)

/-- The word index of a feed core's next instruction to issue (02 R30, Table 4): while it runs, the one after an instruction that has issued and
not retired. Byte offset 16 KiB, after the store's last word, has no index of 12 bits: it reads as 0, and a start from there is at word 0
(notes/assumptions/17.md). -/
def Feed.index (f : Feed) : Nat :=
  let issued := if f.run then f.th.prog.inst.elim 0 Instr.size else 0
  (f.th.pc.toNat + issued) / 4 % 2 ^ 12

/-- `FEEDCTL` (02 Table 4). -/
def Group.feedctl (g : Group) : W64 :=
  w64 (natOf g.loader.run + natOf g.storer.run * 2 + natOf g.loader.flt * 4 + natOf g.storer.flt * 8 +
    g.loader.index * 2 ^ 16 + g.storer.index * 2 ^ 32)

/-- `WIDLAY`'s widths are loaded from the record; the journal entry that `TVAL` names while `CAUSE` is STORE_REFUSED (14 R264). -/
def State.refusedEntry (s : State) (core : Nat) (th : Thread) : Option JEnt := (s.core core).jent (fld th.tval 4 0)

/-- `TVAL` as a read returns it (14 R264). DESIGN CHOICE: when software has set `CAUSE` to STORE_REFUSED and `TVAL` names no refused entry, a read with
`VSEL` 1 or 2 returns the value that `TVAL` holds, and a write is dropped (notes/assumptions/16.md). Unsafe: R264 gives no value there. -/
def State.tvalRead (s : State) (core : Nat) (th : Thread) : W64 :=
  if th.causeCode != Cause.storeRefused.code then th.tval
  else match th.vsel, s.refusedEntry core th with
    | 1, some e => match e.refusedPiece with
      | some p => p.addr
      | none => th.tval
    | 2, some e => match e.refusedPiece with
      | some p => w64 (p.data.toNat % 256 ^ p.n)
      | none => th.tval
    | _, _ => th.tval

/-- Keep the bits that a map has: a mask as a list of `(hi, lo)` fields. -/
def keep (fields : List (Nat × Nat)) (v : W64) : W64 :=
  w64 (fields.foldl (fun acc f => acc + fld v f.1 f.2 * 2 ^ f.2) 0)

/-- The bits of a control register's value that its map defines; the others are reserved and hold zero (00 R5), whatever a write, an
object or a domain's entry gives them. -/
def ctlBits (n : Nat) (v : W64) : W64 :=
  match n with
  | 0x000 => keep [(13, 8), (5, 0)] v
  | 0x001 => keep [(2, 0)] v
  | 0x002 | 0x011 => keep [(31, 0)] v
  | 0x005 => keep [(63, 33), (31, 0)] v
  | 0x018 | 0x019 | 0x01A | 0x01B | 0x01C | 0x01D | 0x01E | 0x01F => keep [(22, 16), (14, 8), (3, 0)] v
  | 0x022 | 0x023 | 0x024 | 0x025 => keep [(63, 63), (49, 32), (17, 0)] v
  | 0x026 | 0x027 | 0x028 | 0x029 => keep [(63, 63), (59, 16)] v
  | 0x040 => keep [(54, 2)] v
  | 0x041 => keep [(50, 48), (45, 32), (13, 9), (7, 0)] v
  | _ => v

/-- A control register's value (03 Table 6a). -/
def State.ctlRead (s : State) (core : Nat) (g : Group) (th : Thread) (n : Nat) : W64 :=
  match n with
  | 0x000 => th.flags | 0x001 => th.rmode | 0x002 => th.amax | 0x003 => th.srkey | 0x004 => th.srctr
  | 0x005 => th.cvmask | 0x006 => th.vcvmask
  | 0x008 | 0x009 | 0x00A | 0x00B | 0x00C | 0x00D | 0x00E | 0x00F => th.strideOf (n - 8)
  | 0x010 => th.wid | 0x011 => th.widlay | 0x012 => s.gtick64 | 0x013 => w64 g.prio | 0x014 => w64 g.dom
  | 0x018 | 0x019 | 0x01A | 0x01B | 0x01C | 0x01D | 0x01E | 0x01F =>
    (vget { data := [], side := [], shape := 0 } g.tiles (n - 0x18)).shape
  | 0x020 => w64 g.spm
  | 0x021 => (look 0 s.vpool (rowOf core)).setWidth 64
  | 0x022 | 0x023 | 0x024 | 0x025 => vget 0 g.twin (n - 0x22)
  | 0x026 | 0x027 | 0x028 | 0x029 => vget 0 g.invwin (n - 0x26)
  | 0x02A => g.cpctl | 0x02B => g.layValid.setWidth 64 | 0x02C => g.jstat | 0x02D => g.feedctl
  | 0x040 => g.tvec | 0x041 => th.tcause | 0x042 => s.tvalRead core th | 0x043 => th.tepc
  | _ => 0

/-! ## Writing -/

/-- How a control-register instruction combines `x[A]` with the register (R128 Table 9). -/
inductive CtlOp where
  | wr | set | clr
  deriving DecidableEq, Repr

/-- The value that Table 9 computes for RW fields. -/
def CtlOp.value (o : CtlOp) (old x : W64) : W64 :=
  match o with
  | .wr => x
  | .set => old ||| x
  | .clr => old &&& ~~~x

/-- The value written to W1C fields: `ctl.clr` writes no 1. -/
def CtlOp.w1c (o : CtlOp) (x : W64) : W64 :=
  match o with
  | .clr => 0
  | _ => x

/-- Is a `TSHAPE` value one that a write may leave (16 R276)? -/
def shapeOk (v : W64) : Bool :=
  let rows := fld v 14 8
  let cols := fld v 22 16
  let fmt := fld v 3 0
  let wide := if fmt == 8 || fmt == 9 then 2 else 1
  1 ≤ rows && rows ≤ 64 && 1 ≤ cols && cols ≤ 64 && cols * wide ≤ 64 &&
    (fmt == 0 || fmt == 1 || (5 ≤ fmt && fmt ≤ 9) || fmt == 12)

/-- Is a `TWIN` value one that a write may leave (11 R213)? -/
def twinOk (v : W64) : Bool := (!bitOf v 63 || fld v 17 0 < fld v 49 32) && fld v 49 32 ≤ 0x30000

/-- A feed core after a write of its fields of `FEEDCTL` (02 R30): start, stop, or a new word index while it is stopped. -/
def Feed.control (f : Feed) (run : Bool) (index : Nat) : Feed :=
  if f.run then
    if run then f else { f with run := false, th := { f.th with wait := .none, prog := Prog.idle } }
  else
    let f := { f with th := { f.th with pc := w64 (index * 4) } }
    if run then { f with run := true, flt := false } else f

/-- The feed cores that a write of `FEEDCTL` stops (02 R30). -/
def Group.feedStops (g : Group) (v : W64) : List Issuer :=
  (if g.loader.run && !bitOf v 0 then [.loader] else []) ++ (if g.storer.run && !bitOf v 1 then [.storer] else [])

/-- A write of `FEEDCTL` (02 R30); a feed core that stops leaves no request behind, and a refusal that has reached it is delivered. -/
def State.writeFeedctl (s : State) (core : Nat) (g : Group) (v : W64) : State :=
  let off := (g.feedStops v).map fun i => ({ core := core, issuer := i } : Who)
  let s := off.foldl State.withdraw s
  match s.group core with
  | some g => off.foldl State.feedLate (s.setGroup core { g with
      loader := g.loader.control (bitOf v 0) (fld v 27 16), storer := g.storer.control (bitOf v 1) (fld v 43 32) })
  | none => s

/-- A write of `VPOOL` (11 R212): pooled lines held by, or evicted from, a core whose bit it clears are dropped. -/
def State.writeVpool (s : State) (core : Nat) (v : BitVec 8) : State :=
  let row := rowOf core
  let gone (c : Nat) : Bool := rowOf c == row && !v.getLsbD (c % 8)
  let f (e : Nat × Core) : Nat × Core :=
    (e.1, { e.2 with pooled := e.2.pooled.filter fun (p : Nat × PoolLine) => !(gone e.1 || gone p.2.holder) })
  { s with vpool := put 0 s.vpool row v, cores := s.cores.map f }

/-- A write of `TVAL` (14 R258, R264). -/
def State.writeTval (s : State) (w : Who) (th : Thread) (v : W64) : State :=
  if th.causeCode != Cause.storeRefused.code then s.setAgent w { th with tval := v }
  else
    let idx := fld th.tval 4 0
    match th.vsel with
    | 1 => s.setCore w.core ((s.core w.core).mapJent idx (JEnt.alter fun p => { p with addr := v }))
    | 2 => s.setCore w.core ((s.core w.core).mapJent idx (JEnt.alter fun p => { p with data := v }))
    | _ => s

/-! ## `SPLIT` (11 R206 to R208) -/

/-- Is a line's place in units `lo` to `hi` − 1? -/
def CLine.inUnits (lo hi : Nat) (l : CLine) : Bool := lo ≤ l.unitNo && l.unitNo < hi

/-- Lower `SPM` (R208). -/
def State.lowerSplit (s : State) (core : Nat) (g : Group) (spm : Nat) : State :=
  let alloc := spm * 65536
  let n := (g.spm - spm) * 65536
  let g := { g.replaced s.stepNo with
    spm := spm, spData := zeroRange g.spData alloc n, spTags := g.spTags.filter fun e => e.1 < alloc / 8,
    spWritten := g.spWritten.filter fun u => u < alloc / 4096 }
  let r := (List.range 4).foldl (fun (acc : Group × List Msg) j =>
    let m := acc.1.ring j
    if m.nslot != 0 && alloc < m.base + m.nslot * 64 then
      let (g, ms) := acc.1.disableRing j
      (g, acc.2 ++ ms)
    else acc) (g, [])
  ({ s.setGroup core r.1 with net := s.net ++ r.2 }).releaseParked core alloc

/-- The last steps of raising `SPM` (R207): the units' V words leave, those that members of the row have pooled there too, and the new
scratchpad is zero. -/
def State.raiseDone (s : State) (core : Nat) (g : Group) (spm : Nat) : State :=
  let here (l : CLine) : Bool := l.inUnits g.spm spm
  let s := s.dropV core fun _ l => here l
  let f (e : Nat × Core) : Nat × Core :=
    (e.1, { e.2 with pooled := e.2.pooled.filter fun (p : Nat × PoolLine) => !(p.2.holder == core && here p.2.line) })
  let s := { s with cores := s.cores.map f }
  let k := s.core core
  let lo := g.spm * 65536
  let n := (spm - g.spm) * 65536
  let h := { g.replaced s.stepNo with
    spm := spm, spData := zeroRange g.spData lo n, spTags := g.spTags.filter fun e => e.1 < lo / 8 || (lo + n) / 8 ≤ e.1,
    spWritten := g.spWritten.filter fun u => u < lo / 4096 || (lo + n) / 4096 ≤ u }
  s.setCore core { k with group := some h, cache := k.cache.filter fun (e : Nat × CLine) => !here e.2 }

/-- Does another thread's write of `SPLIT`, which has issued, wait for P words or for write-backs (R207)? Those writes take effect in the order in which they issue (07 R129). -/
def Group.splitHeld (g : Group) (me : Nat) : Bool :=
  (g.threads.zip (List.range g.threads.length)).any fun (e : Thread × Nat) =>
    e.2 != me && e.1.prog.stage == 20 && match e.1.prog.inst with
      | some (.ctlWr _ n) | some (.ctlSet _ n) | some (.ctlClr _ n) => n == 0x020
      | _ => false

/-- A write of `SPLIT` (R207, R208): the state in which it may retire. -/
def writeSplit (s : State) (w : Who) (g : Group) (th : Thread) (spm : Nat) : Do State :=
  if th.prog.stage != 20 && g.splitHeld w.issuer.setNo then waitFor s .memory
  else if spm ≤ g.spm then .ok (if spm == g.spm then s else s.lowerSplit w.core g spm)
  else if th.prog.stage == 20 && !th.prog.asked.isEmpty then waitWriteBacks s th.prog.asked
  else
    let here (e : Nat × CLine) : Bool := e.2.inUnits g.spm spm
    if (s.core w.core).cache.any fun e => here e && e.2.has .p then
      waitWriteBacks s []
    else
      let (s, words) := s.sendHome w.core (CLine.inUnits g.spm spm) fun _ => CWord.empty
      let words := words ++ (s.writingBack w.core).filter fun x => !words.contains x
      if words.isEmpty then .ok (s.raiseDone w.core g spm) else waitWriteBacks s words

/-! ## One write -/

/-- The register's write through its map (R128 to R130): `v` is the value for RW fields, `one` the value for W1C fields. A write that stops
a feed core waits for the instruction of it that has had an effect, whose end is its instruction boundary (02 R30, 07 R120). The
state in which the instruction may retire. A write of `FLAGS` sets flag bits, which 06 R105 sends to `FLAGUNION`. DESIGN CHOICE: a bit that
the write, an instruction's or a debugger's, leaves at 1 is not set again; only bits that go from 0 to 1 are sent, while arithmetic sends every
condition that it raises (notes/assumptions/32.md). Unsafe: hardware may send the others too, after a W1C write of `FLAGUNION`. -/
def ctlWrite (s : State) (i : Instr) (w : Who) (g : Group) (th : Thread) (n : Nat) (v one : W64) : Do State :=
  let v := ctlBits n v
  let setTh (t : Thread) : Do State := .ok (s.setAgent w t)
  let setGr (g : Group) : Do State := .ok (s.setGroup w.core g)
  match n with
  | 0x000 =>
    .ok ((s.setAgent w { th with flags := v }).unite w.core ((v &&& ~~~th.flags).setWidth 6))
  | 0x001 => if fld v 2 0 ≥ 6 then illField s i else setTh { th with rmode := v }
  | 0x002 => setTh { th with amax := v }
  | 0x003 => setTh { th with srkey := v }
  | 0x004 => setTh { th with srctr := v }
  | 0x005 => setTh { th with cvmask := v }
  | 0x006 => setTh { th with vcvmask := v }
  | 0x008 | 0x009 | 0x00A | 0x00B | 0x00C | 0x00D | 0x00E | 0x00F =>
    setTh { th with pstride := vset th.pstride (n - 8) (v.setWidth 22) }
  | 0x018 | 0x019 | 0x01A | 0x01B | 0x01C | 0x01D | 0x01E | 0x01F =>
    let t := n - 0x18
    if !shapeOk v then illField s i
    else if s.tileBusy w.core t then waitFor s .latch
    else setGr { g with tiles := vset g.tiles t { vget { data := [], side := [], shape := 0 } g.tiles t with shape := v } }
  | 0x020 => if fld v 4 0 > 24 then illField s i else writeSplit s w g th (fld v 4 0)
  | 0x021 => .ok (s.writeVpool w.core (v.setWidth 8))
  | 0x022 | 0x023 | 0x024 | 0x025 =>
    if !twinOk v then illField s i else setGr { g.replaced s.stepNo with twin := vset g.twin (n - 0x22) v }
  | 0x026 | 0x027 | 0x028 | 0x029 =>
    .ok ((s.setGroup w.core { g.replaced s.stepNo with invwin := vset g.invwin (n - 0x26) v }).dropV w.core fun _ _ => true)
  | 0x02A =>
    if s.cpBusy w.core then waitFor s .latch
    else if bitOf one 4 then setGr { g with cpValid := false, cpJoin := 0, cpNops := 0, ucode := 0 }
    else .ok s
  | 0x02B => setGr { g with layValid := g.layValid &&& ~~~(one.setWidth 16) }
  | 0x02D =>
    if (g.feedStops v).any fun i => (g.agent i).any fun th => s.underway { core := w.core, issuer := i } th.prog then waitFor s .memory
    else .ok (s.writeFeedctl w.core g v)
  | 0x040 => setGr { g with tvec := v }
  | 0x041 => setTh { th with tcause := (v &&& ~~~(0x200 : W64)) ||| (th.tcause &&& 0x200) }
  | 0x042 => .ok (s.writeTval w th v)
  | 0x043 => setTh { th with tepc := v }
  | _ => illField s i

/-- The checks of R46 and R47 that come before execution: the register exists and may be written, its tile is allotted, and it is
accessible in the thread's mode. -/
def ctlCheck (s : State) (i : Instr) (g : Group) (th : Thread) (n : Nat) (write : Bool) : Do Unit :=
  if !ctlExists n || (write && ctlReadOnly n) then illField s i
  else if 0x018 ≤ n && n ≤ 0x01F && g.nt ≤ n - 0x018 then illField s i
  else if ctlKernel n && !th.kernel then raise s .priv (lowBits i)
  else .ok ()

/-- A control-register write (R128). -/
def ctlWr (s : State) (i : Instr) (o : CtlOp) (a : Reg) (num : BitVec 12) : Host.Outcome State Fault Refusal :=
  finish s.cur (do
    let th ← getMe s
    let g ← getGroup s
    let n := num.toNat
    ctlCheck s i g th n true
    needLive s th [a] []
    let s ← ctlWrite s i s.cur g th n (o.value (s.ctlRead s.cur.core g th n) (th.rx a)) (o.w1c (th.rx a))
    .ok (s.retireNext 8))

/-- `ctl.rd`, R128. -/
def execCtlRd (d : Reg) (num : BitVec 12) (s : State) : Host.Outcome State Fault Refusal :=
  finish s.cur (do
    let th ← getMe s
    let g ← getGroup s
    ctlCheck s (.ctlRd d num) g th num.toNat false
    .ok (s.retireX d (s.ctlRead s.cur.core g th num.toNat) 8))

/-- `ctl.wr`, R128. -/
def execCtlWr (a : Reg) (num : BitVec 12) (s : State) : Host.Outcome State Fault Refusal := ctlWr s (.ctlWr a num) .wr a num
/-- `ctl.set`, R128. -/
def execCtlSet (a : Reg) (num : BitVec 12) (s : State) : Host.Outcome State Fault Refusal := ctlWr s (.ctlSet a num) .set a num
/-- `ctl.clr`, R128. -/
def execCtlClr (a : Reg) (num : BitVec 12) (s : State) : Host.Outcome State Fault Refusal := ctlWr s (.ctlClr a num) .clr a num

/-- `yield`, R131: the thread set is now the one that issued most recently. -/
def execYield (s : State) : Host.Outcome State Fault Refusal := finish s.cur (do
  let th ← getMe s
  .ok (s.retire (th.advance 8)))

/-- `tid`, R132: the core id above the thread set's number. -/
def execTid (d : Reg) (s : State) : Host.Outcome State Fault Refusal :=
  toX s 8 d [] fun _ => w64 (s.cur.core * 4 + s.cur.issuer.setNo)

end Sys2Proof.Machine
end

