-- ==== Sys2Proof/Machine/Far.lean ====
section
/-! DEFINITION. What arrives at a core from other agents: far-window accesses (10 R185, R187, 11 R209, R214) and mailbox deposits
(18 R339, R341), held or refused while the core's gang is suspended (20 R360). -/

namespace Sys2Proof.Machine

/-! ## Far accesses -/

/-- The kind of a far access (11 Table 4). -/
def FarMsg.kind (m : FarMsg) : Kind :=
  match m.req with
  | .load | .reach _ => .rld
  | .store => .rst
  | .amo _ _ _ => .amo

/-- The address of a part, as the access named it. -/
def FarMsg.addr (m : FarMsg) (off : Nat) : W64 := w64 (farBase + m.target * 2 ^ 21 + off)

/-- Its lowest offset. -/
def FarMsg.low (m : FarMsg) : Nat := (m.parts.map (·.off)).foldl min ((m.parts.head?.map (·.off)).getD 0)

/-- The answer of an access that is performed. -/
def FarMsg.done (m : FarMsg) (vals : Map W64) : List Msg :=
  if m.jidxs.isEmpty then [.amoRep m.who none m.seq (m.parts.map (·.k)) (.ok vals)] else m.jidxs.map fun j => .jAck m.who.core j 0

/-- The answer of an access that is refused: a cause, or, for a weak store, its reason and code (14 Table 4). -/
def FarMsg.refuse (m : FarMsg) (c : Cause) (tval : W64) (code : Nat) : List Msg :=
  let reason := match c with
    | .xlateNone => 0
    | .xlatePerm => 1
    | _ => 2
  if m.jidxs.isEmpty then [.amoRep m.who none m.seq (m.parts.map (·.k)) (.trap c tval)]
  else m.jidxs.map fun j => .jRefuse m.who.core j 0 reason code

/-- An access is answered: an engine that has asked where the words are learns it at once (20 R360). -/
def State.farAnswer (s : State) (m : FarMsg) (at_ : Option Nat) (ms : List Msg) : State :=
  match m.req with
  | .reach (some (id, named)) => if (find s.jobs id).isSome || 2 ^ 32 ≤ id then { s with reach := set s.reach (reachKey id named) at_ } else s
  | _ => { s with net := s.net ++ ms }

/-- An access is refused. -/
def State.farRefuse (s : State) (m : FarMsg) (c : Cause) (tval : W64) (code : Nat) : State := s.farAnswer m none (m.refuse c tval code)

/-- The checks at the target core (10 R185 item 4, R209): the cause and the lowest failing offset. -/
def State.farCheck (s : State) (m : FarMsg) : Option (Cause × Nat) :=
  m.parts.foldl (fun (r : Option (Cause × Nat)) (p : SpPart) => match s.farRefusal m.dom m.target p.off p.n m.stamp, r with
    | some c, some (d, o) => if p.off < o then some (c, p.off) else some (d, o)
    | some c, none => some (c, p.off)
    | none, r => r) none

/-- One lookup and step of a far access at its bank (11 R218 to R224); none when the bank serves earlier waiters of its words
first. A store behind an earlier one of its core to one of its words presents itself again later (10 R193). -/
def State.farStep (s : State) (m : FarMsg) (again : Bool) : Option State :=
  match s.farCheck m, s.group m.target, m.req with
  | some (c, o), _, _ => some ((s.unpark m.target (.far m 0)).farRefuse m c (m.addr o) 0)
  | none, none, _ => some (s.farRefuse m .xlateNone (m.addr m.low) 0)
  | none, some _, .reach _ => some (s.farAnswer m (some m.target) (m.done [(0, w64 m.target)]))
  | none, some g, _ =>
    if s.behind m.target (.far m 0) then
      some (s.putRetry m.target (.far m ((m.parts.head?.map fun p => p.off / 8).getD 0)))
    else match s.bankStep m.target g (Waiter.far m) again m.stamp m.kind m.vec m.req m.parts with
    | .ok s vals => some (s.farAnswer m none (m.done vals))
    | .trap s code tag cls word => some (s.farRefuse m .tag (tagTval m.target code tag cls word m.kind) code)
    | .wait s => if s.isParked m.target (.far m 0) || s.isRetrying m.target (.far m 0) then some s else none

/-- FAR_ACCESS: a far access reaches the target core. -/
def execFarAccess (s : State) : Host.Outcome State Fault Refusal :=
  event (match s.takeMsg with
    | some (.far m, t) => match t.arrive m.target with
      | .hold gang gidx => t.holdMsg gang gidx m.target (.far m)
      | .refuse => t.farRefuse m .xlateNone (m.addr m.low) 0
      | .take => (t.farStep m false).getD s
    | _ => s)

/-! ## Deposits -/

/-- MAILBOX_DEPOSIT: a mailbox message reaches the target core (18 R339, R341). -/
def execMailboxDeposit (s : State) : Host.Outcome State Fault Refusal :=
  event (match s.takeMsg with
    | some (.deposit d, s) => match s.arrive d.core with
      | .hold gang gidx => s.holdMsg gang gidx d.core (.deposit d)
      | .refuse => s.send (d.refuse .xlateNone)
      | .take =>
        if (s.core d.core).fenced || (s.core d.core).dead then s.send (d.refuse .xlateNone)
        else match s.group d.core with
          | none => s.send (d.refuse .xlateNone)
          | some g =>
            let m := g.ring d.ring
            if g.dom != d.dom then s.send (d.refuse .xlatePerm)
            else if m.nslot == 0 then s.send (d.refuse .queue)
            else if m.msgs.length < m.nslot && m.waiting.isEmpty then
              (s.setGroup d.core (g.deposit d.ring d)).send d.ack
            else s.setGroup d.core (g.setRing d.ring { m with waiting := m.waiting ++ [d] })
    | _ => s)

end Sys2Proof.Machine
end

