-- ==== Sys2Proof/Machine/HostWin.lean ====
section
/-! DEFINITION. The host window (24 R406, R408): the host's memory through the port, and the lines that the CXL agent holds. An
address here is an offset in the window. -/

namespace Sys2Proof.Machine

/-- The aligned word of the host window that holds an offset. -/
def State.hostWord (s : State) (a : Nat) : W64 := w64 (s.hostNum (a / 8 * 8) 8)

/-- Give back a line: modified data goes to the host. -/
def State.hostFlush (s : State) (line : Nat) : State :=
  match find s.host.lines line with
  | none => s
  | some l =>
    let m := if l.st == Mesi.m then putBytes s.hostMem (line * 64) (bytesAt l.data 0 64) else s.hostMem
    { s with hostMem := m, host := { s.host with lines := del s.host.lines line } }

/-- The lines that the CXL agent can hold: 8 MiB of 64 bytes (R399). -/
def agentLines : Nat := 131072

/-- Make room for a line in the agent: a full one gives back a line, and which one is free. -/
def State.hostRoom (s : State) (line : Nat) : State :=
  if (find s.host.lines line).isSome || s.host.lines.length < agentLines then s
  else
    let (k, s) := s.freeNat s.host.lines.length
    match s.host.lines[k]? with
    | some (old, _) => s.hostFlush old
    | none => s

/-- Obtain a line in a state at least as strong as `st`. -/
def State.hostObtain (s : State) (line : Nat) (st : Mesi) : State :=
  let s := s.hostRoom line
  let l : CxlLine := match find s.host.lines line with
    | some l => if st == Mesi.m then { l with st := Mesi.m } else l
    | none => { st := st, data := putBytes [] 0 (bytesAt s.hostMem (line * 64) 64) }
  { s with host := { s.host with lines := set s.host.lines line l } }

/-- Write bytes into a line that the agent holds modified. -/
def State.hostPut (s : State) (a n v : Nat) : State :=
  match find s.host.lines (a / 64) with
  | some l => { s with host := { s.host with
      lines := set s.host.lines (a / 64) { st := .m, data := writeN l.data (a % 64) n v } } }
  | none => { s with hostMem := writeN s.hostMem a n v }

/-- A load's word (24 Table 5): a load that acquires at `sys` through a tracked page obtains S first. -/
def State.hostLoad (s : State) (a : Nat) (tracked sys : Bool) : State × W64 :=
  let s := if tracked && sys && s.host.cxl && (find s.host.lines (a / 64)).isNone then s.hostObtain (a / 64) .s else s
  (s, s.hostWord a)

/-- A store (24 Table 5): a release at `sys` obtains M; another is written into a line held M, or drops the agent's copy and is
written in the host. Through an untracked page, or without CXL, it is a posted write. -/
def State.hostStore (s : State) (a n v : Nat) (tracked sys : Bool) : State :=
  let held : Option Mesi := (find s.host.lines (a / 64)).map (·.st)
  if tracked && s.host.cxl && (sys || held == some Mesi.m) then
    (if sys then s.hostObtain (a / 64) .m else s).hostPut a n v
  else
    let s := s.hostFlush (a / 64)
    { s with hostMem := writeN s.hostMem a n v }

/-- An AMO (24 R406, R408): with CXL it is performed in a line held M, else the host performs it, or reports it as unsupported. -/
def State.hostAmo (s : State) (o : AmoOp) (a n : Nat) (b c : W64) : State × Option W64 :=
  let old := s.hostNum a n
  let v := o.apply (8 * n) old (b.toNat % 2 ^ (8 * n)) (c.toNat % 2 ^ (8 * n))
  if s.host.cxl then ((s.hostObtain (a / 64) .m).hostPut a n v, some (w64 old))
  else
    let s' := { s with freeCtr := s.freeCtr + 1 }
    if Config.freeBool s.freeCtr then ({ s' with hostMem := writeN s.hostMem a n v }, some (w64 old)) else (s', none)

/-- A host snoop of one line (24 Table 5): modified data is supplied; the line stays shared, or leaves. -/
def State.snoopLine (s : State) (line : Nat) (kind : Snoop) : State :=
  match kind, find s.host.lines line with
  | _, none => s
  | .invalidate, some _ => s.hostFlush line
  | .share, some l =>
    let s := s.hostFlush line
    { s with host := { s.host with lines := set s.host.lines line { l with st := .s } } }

/-- The host snoops a line of the agent. -/
def execHostSnoop (line : Nat) (kind : Snoop) (s : State) : Host.Outcome State Fault Refusal := event (s.snoopLine line kind)

end Sys2Proof.Machine
end

