-- ==== Sys2Proof/Machine/Tag.lean ====
section
/-! DEFINITION. TAG (11 R226 to R233): the tags of scratchpad words, and the action tables. -/

namespace Sys2Proof.Machine

/-! ## Tags (R229, R230) -/

/-- The address of `tag.ld`, `tag.st` and `tag.ldw` (R229). -/
def tagEa (th : Thread) (a : Reg) (off : BitVec 16) : Nat := (th.rx a + off.signExtend 64).toNat

/-- The checks of R229 in their order: the near window, the alignment, the allocation. -/
def checkTag (s : State) (g : Group) (ea : Nat) : Do Unit :=
  if 0x180000 ≤ ea then raise s .xlateNone (w64 ea)
  else if ea % 8 != 0 then raise s .align (w64 ea)
  else if g.alloc ≤ ea then raise s .xlateNone (w64 ea)
  else .ok ()

/-- A TAG instruction on a word takes the thread's place at its bank (R221): it waits for the re-evaluations due on the words
(R224) and for the thread's own far stores to them (10 R193). -/
def tagTurn (s : State) (ea n : Nat) : Do Unit := do
  waitJournal s s.cur (fun q => q.overlaps (some s.cur.core, ea) n) .memory
  if (s.core s.cur.core).banks.toList.any fun b => b.due.any fun q => ea ≤ q.word * 8 && q.word * 8 < ea + n then waitFor s .memory
  else .ok ()

/-- Set the tag of a word, which re-evaluates its waiters when it changes (R229, R223). -/
def State.setWordTag (s : State) (core word tag : Nat) : State :=
  match s.group core with
  | none => s
  | some g =>
    let (g, changed) := g.setTag word tag
    let s := s.setGroup core (g.touch word)
    if changed then s.wake core word else s

/-- `tag.ld`, R229. -/
def execTagLd (d a : Reg) (imm : BitVec 16) (s : State) : Host.Outcome State Fault Refusal :=
  finish s.cur (do
    let th ← getMe s
    let g ← getGroup s
    needLive s th [a] []
    let ea := tagEa th a imm
    checkTag s g ea
    tagTurn s ea 8
    .ok (s.retireX d (w64 (g.tagOf (ea / 8))) 8))

/-- `tag.st`, R229. -/
def execTagSt (a b : Reg) (imm : BitVec 16) (s : State) : Host.Outcome State Fault Refusal :=
  finish s.cur (do
    let th ← getMe s
    let g ← getGroup s
    needLive s th [a, b] []
    let ea := tagEa th a imm
    checkTag s g ea
    tagTurn s ea 8
    .ok ((s.setWordTag s.cur.core (ea / 8) (fld (th.rx b) 3 0)).retireNext 8))

/-- `tag.ldw`, R229: `x[C]` after `x[D]`. -/
def execTagLdw (d a c : Reg) (imm : BitVec 16) (s : State) : Host.Outcome State Fault Refusal :=
  finish s.cur (do
    let th ← getMe s
    let g ← getGroup s
    needLive s th [a] []
    let ea := tagEa th a imm
    checkTag s g ea
    match s.watched s.cur true false [{ ea := ea, n := 8, align := 8, data := 0 }] with
    | some x => raise s .brk (w64 (x + 2 ^ 63))
    | none =>
      tagTurn s ea 8
      .ok (s.retire (((th.wx d (read64 g.spData ea)).wx c (w64 (g.tagOf (ea / 8)))).advance 8)))

/-- `tag.fill`, R230. -/
def execTagFill (a b : Reg) (tag : BitVec 4) (s : State) : Host.Outcome State Fault Refusal :=
  finish s.cur (do
    let th ← getMe s
    let g ← getGroup s
    needLive s th [a, b] []
    let lo := (th.rx a).toNat
    let n := (th.rx b).toNat
    if lo % 8 != 0 then raise s .align (w64 lo)
    else if n == 0 then .ok (s.retireNext 8)
    else if 0x30000 < n || g.alloc < lo + n * 8 then raise s .xlateNone (w64 lo)
    else
      tagTurn s lo (n * 8)
      .ok (((List.range n).foldl (fun (s : State) j => s.setWordTag s.cur.core (lo / 8 + j) tag.toNat) s).retireNext 8))

/-! ## Loads one after the other (R231, 17 R302) -/

/-- Issue one of an instruction's own loads, which no earlier answer serves: its value, or its wait. -/
def loadOne (s : State) (g : Group) (th : Thread) (seq : Nat) (again : Bool) (got : Map W64) (j : Nat) (r : Run) :
    Do (State × Map W64) := do
  let w := s.cur
  checkRuns s w g th .read [r]
  let ps := s.partsFrom w g th .read j 0 [r]
  overlapWait s w ps
  match ps with
  | p :: _ => match p.tgt with
    | .near off =>
      let parts : List SpPart := [{ k := j, off := off, n := p.n, data := 0 }]
      match s.bankStep w.core g (ownWaiter w parts) again th.issued .ld false .load parts with
      | .ok s vals => .ok (s.noteNear w p, bind got vals)
      | .wait s => waitIssued s w seq [] got false (if s.isParked w.core (ownWaiter w parts 0) then .tag else .memory)
      | .trap s code tag cls word => raise s .tag (tagTval w.core code tag cls word .ld)
    | .far _ _ => waitIssued (s.loadFar w g seq false ps) w seq [j] got false .memory
    | .mem pa trk => match s.loadPart w seq .weak .th 0 p pa trk with
      | (s, .got v) => .ok (s.noteLoads w 0 1, set got j v)
      | (s, .asked) => waitIssued (s.noteLoads w 1 0) w seq [j] got false .memory
      | (s, .later) => waitIssued s w seq [] got false .memory
  | [] => .ok (s, got)

/-- Weak doubleword loads one after the other. -/
def loadEach (s : State) (seq : Nat) (asked : List Nat) (again : Bool) (got : Map W64) (j : Nat) (rs : List Run) :
    Do (State × Map W64) :=
  match rs with
  | [] => .ok (s, got)
  | r :: rest =>
    if (find got j).isSome then loadEach s seq asked again got (j + 1) rest
    else if asked.contains j then waitIssued s s.cur seq asked got false .memory
    else do
      let g ← getGroup s
      let th ← getMe s
      let (s, got) ← loadOne s g th seq again got j r
      loadEach s seq asked false got (j + 1) rest

/-- The `n` doublewords from an address upward, as weak `ld.d` instructions read them. -/
def loadDoubles (s : State) (ea n : Nat) : Do (State × List W64) := do
  let th ← getMe s
  let q := th.prog
  match q.reply with
  | some (.trap c v) => raise s c v
  | _ =>
    let (seq, s) := if q.seq == 0 then s.fresh else (q.seq, s)
    let runs := (List.range n).map fun j => ({ ea := (ea + 8 * j) % 2 ^ 64, n := 8, align := 8, data := 0 } : Run)
    let (s, got) ← loadEach s seq q.asked (q.note == 1) q.got 0 runs
    .ok (s, (List.range n).map fun j => look 0 got j)

/-! ## Action tables (R226, R227, R231, R232) -/

/-- Is this agent's instruction one that writes or exchanges the group's tables? -/
def Instr.writesTables (i : Instr) : Bool :=
  match i with
  | .actWr _ _ | .actWrImg _ | .actSwap => true
  | _ => false

/-- Has another thread of the core issued a write or exchange of the tables, not yet retired, before step `stamp`? Those take effect in the
order in which they issue (R227, R233). -/
def Group.tablesHeld (g : Group) (me stamp : Nat) : Bool :=
  (g.threads.zip (List.range g.threads.length)).any fun (e : Thread × Nat) =>
    e.2 != me && e.1.issued < stamp && (e.1.prog.seq != 0 || e.1.prog.stage != 0) && e.1.prog.inst.any Instr.writesTables

/-- `act.wr`, R231: one shadow entry. -/
def execActWr (a b : Reg) (s : State) : Host.Outcome State Fault Refusal :=
  finish s.cur (do
    let th ← getMe s
    let g ← getGroup s
    needLive s th [a, b] []
    let i := (th.rx a).toNat
    let v := (th.rx b).toNat
    if i ≥ 512 || v ≥ 2 ^ 12 then illField s (.actWr a b)
    else if g.tablesHeld s.cur.issuer.setNo th.issued then waitFor s .memory
    else .ok ((s.setGroup s.cur.core { g with shadow := put 0 g.shadow i (BitVec.ofNat 16 v) }).retireNext 8))

/-- The entries of a table image: four in each doubleword. -/
def imageEntries (ws : List W64) : List Nat :=
  ws.flatMap fun w => [fld w 15 0, fld w 31 16, fld w 47 32, fld w 63 48]

/-- A table from its entries. -/
def tableOf (j : Nat) (es : List Nat) : Map (BitVec 16) :=
  match es with
  | [] => []
  | e :: rest => if e % 2 ^ 16 == 0 then tableOf (j + 1) rest else (j, BitVec.ofNat 16 e) :: tableOf (j + 1) rest

/-- `act.wr.img`, R231: the whole shadow table, read and checked before any entry is written. -/
def execActWrImg (a : Reg) (s : State) : Host.Outcome State Fault Refusal :=
  finish s.cur (do
    let th ← getMe s
    let g ← getGroup s
    needLive s th [a] []
    if g.tablesHeld s.cur.issuer.setNo th.issued then waitFor s .memory
    let (s, ws) ← loadDoubles s (th.rx a).toNat 128
    let es := imageEntries ws
    match findIdx (fun e => 2 ^ 12 ≤ e) es with
    | some (j, _) => raise s .illField (w64 j)
    | none =>
      let g ← getGroup s
      .ok ((s.setGroup s.cur.core { g with shadow := tableOf 0 es }).retireNext 8))

/-- An entry of a table into `x[D]` (R232). -/
def actRead (s : State) (i : Instr) (d a : Reg) (t : Group → Map (BitVec 16)) : Host.Outcome State Fault Refusal :=
  finish s.cur (do
    let th ← getMe s
    let g ← getGroup s
    needLive s th [a] []
    if (th.rx a).toNat ≥ 512 then illField s i
    else .ok (s.retireX d ((look 0 (t g) (th.rx a).toNat).setWidth 64) 8))

/-- `act.rd`, R232. -/
def execActRd (d a : Reg) (s : State) : Host.Outcome State Fault Refusal := actRead s (.actRd d a) d a Group.act
/-- `act.rd.sh`, R232. -/
def execActRdSh (d a : Reg) (s : State) : Host.Outcome State Fault Refusal := actRead s (.actRdSh d a) d a Group.shadow

/-- The words on which requesters wait in a bank, in the order in which each word's waiters parked. -/
def Bank.words (b : Bank) : List Nat :=
  b.queue.foldl (fun ws q => if ws.contains q.word then ws else ws ++ [q.word]) []

/-- Exchange the tables and re-evaluate every parked waiter (R226). -/
def State.swapTables (s : State) (core : Nat) : State :=
  match s.group core with
  | none => s
  | some g =>
    let words := (s.core core).banks.toList.flatMap Bank.words
    (s.setGroup core { g with act := g.shadow, shadow := g.act }).wakeAll core words

/-- `act.swap`, R226: no window is open between two steps, so the tables swap and it retires in its own step, unless a write of the shadow
table that issued before it has yet to retire; then it waits for the boundary after that. -/
def execActSwap (s : State) : Host.Outcome State Fault Refusal :=
  finish s.cur (do
    let th ← getMe s
    let g ← getGroup s
    if !g.tablesHeld s.cur.issuer.setNo th.issued then .ok ((s.swapTables s.cur.core).retireNext 8)
    else
      let s := if th.prog.stage == 0 then s.soon (.event .actSwapBoundary s.cur.core 0) else s
      waitHeld s .memory)

/-- The boundary of R226 on core `selA`: a waiting `act.swap` before which no other write of the tables issued swaps them and retires. -/
def execActSwapBoundary (s : State) : Host.Outcome State Fault Refusal :=
  let core := s.selA
  match s.group core with
  | none => event s
  | some g =>
    let ready (e : Thread × Nat) : Bool :=
      e.1.prog.inst == some .actSwap && e.1.prog.stage == 16 && !g.tablesHeld e.2 e.1.issued
    match (g.threads.zip (List.range g.threads.length)).find? ready with
    | none => event s
    | some (th, t) => event ((s.swapTables core).retireOf { core := core, issuer := .thread t } (th.advance 8))

end Sys2Proof.Machine
end

