-- ==== Sys2Proof/Machine/Msg.lean ====
section
/-! DEFINITION. MSG: field layouts (18 R344, R345), mailbox rings (R340, R342) and `send` (R338, R339) with the check of a job
card (R325, R326). -/

namespace Sys2Proof.Machine

/-! ## Field layouts -/

/-- The width of field `i` of a descriptor (R344). -/
def layWidth (v : W64) (i : Nat) : Nat := fld v (7 * i + 6) (7 * i)

/-- The widths of the present fields, up to the first absent one. -/
def layFields (v : W64) : List Nat := ((List.range 8).map (layWidth v)).takeWhile (· != 0)

/-- Is a descriptor valid (R344)? -/
def layOk (v : W64) : Bool :=
  let ws := layFields v
  let all := (List.range 8).map (layWidth v)
  fld v 59 56 == 0 && !ws.isEmpty && (all.drop ws.length).all (· == 0) && ws.all (· ≤ 64) && ws.foldl (· + ·) 0 ≤ 64

/-- The position and width of each present field. -/
def layPlaces (pos : Nat) (ws : List Nat) : List (Nat × Nat) :=
  match ws with
  | [] => []
  | w :: rest => (pos, w) :: layPlaces (pos + w) rest

/-- `hdr.lay`, R344. -/
def execHdrLay (a : Reg) (s : State) : Host.Outcome State Fault Refusal :=
  finish s.cur (do
    let th ← getMe s
    let g ← getGroup s
    needLive s th [a] []
    let v := th.rx a
    let n := fld v 63 60
    if !layOk v then queueTrap s 6
    else .ok ((s.setGroup s.cur.core { g with
      layouts := vset g.layouts n v, layValid := g.layValid ||| BitVec.ofNat 16 (2 ^ n) }).retireNext 8))

/-- The places of an installed layout's fields, when they fit the registers from `r` on (R345). -/
def layout (s : State) (g : Group) (n : BitVec 4) (r : Reg) : Do (List (Nat × Nat)) :=
  if !g.layValid.getLsbD n.toNat then queueTrap s 7
  else
    let ps := layPlaces 0 (layFields (vget 0 g.layouts n.toNat))
    if r.toNat + ps.length - 1 > 31 then queueTrap s 8 else .ok ps

/-- The register `k` after `r`. -/
def regAfter (r : Reg) (k : Nat) : Reg := BitVec.ofNat 5 (r.toNat + k)

/-- The fields of consecutive registers, in place (R345). -/
def packFields (th : Thread) (a : Reg) (k : Nat) (ps : List (Nat × Nat)) : Nat :=
  match ps with
  | [] => 0
  | (pos, w) :: rest => (th.rx (regAfter a k)).toNat % 2 ^ w * 2 ^ pos + packFields th a (k + 1) rest

/-- `hdr.pack`, R345. -/
def execHdrPack (d a : Reg) (n : BitVec 4) (s : State) : Host.Outcome State Fault Refusal :=
  finish s.cur (do
    let th ← getMe s
    let g ← getGroup s
    let ps ← layout s g n a
    needLive s th ((List.range ps.length).map (regAfter a)) []
    .ok (s.retireX d (w64 (packFields th a 0 ps)) 8))

/-- Write the fields of a word to consecutive registers (R345). -/
def Thread.unpack (th : Thread) (signed : Bool) (h : Nat) (d : Reg) (k : Nat) (ps : List (Nat × Nat)) : Thread :=
  match ps with
  | [] => th
  | (pos, w) :: rest =>
    let v := h / 2 ^ pos % 2 ^ w
    Thread.unpack (th.wx (regAfter d k) (if signed then sext w v else w64 v)) signed h d (k + 1) rest

/-- `hdr.unpack`, R345. -/
def execHdrUnpack (sgn : Bool) (d a : Reg) (n : BitVec 4) (s : State) : Host.Outcome State Fault Refusal :=
  finish s.cur (do
    let th ← getMe s
    let g ← getGroup s
    let ps ← layout s g n d
    needLive s th [a] []
    .ok (s.retire ((th.unpack sgn (th.rx a).toNat d 0 ps).advance 8)))

/-! ## Mailbox rings -/

/-- `mbx.cnt`, R340: the rings' counts, a byte each. -/
def execMbxCnt (d : Reg) (s : State) : Host.Outcome State Fault Refusal :=
  finish s.cur (do
    let g ← getGroup s
    let n (r : Nat) : Nat := (g.ring r).msgs.length
    .ok (s.retireX d (w64 (n 0 + n 1 * 2 ^ 8 + n 2 * 2 ^ 16 + n 3 * 2 ^ 24)) 8))

/-- A new descriptor in a ring (R340): its messages are discarded, and the deposits that waited are served or refused. -/
def Group.configRing (g : Group) (r : Nat) (v : W64) : Group × List Msg :=
  let m := g.ring r
  if fld v 30 24 == 0 then
    let (g, ms) := g.disableRing r
    (g.setRing r { g.ring r with desc := v }, ms)
  else (g.setRing r { desc := v, head := 0, tail := 0, msgs := [], waiting := m.waiting }).serveRing (m.waiting.length) r

/-- `mbx.cnt.cfg`, R340. -/
def execMbxCntCfg (d a : Reg) (r : BitVec 2) (s : State) : Host.Outcome State Fault Refusal :=
  finish s.cur (do
    let th ← getMe s
    let g ← getGroup s
    needLive s th [a] []
    let v := th.rx a
    let n := fld v 30 24
    if fld v 63 31 != 0 || fld v 23 21 != 0 || fld v 5 0 != 0 || n > 64 then queueTrap s 6
    else if n != 0 && fld v 20 6 * 64 + n * 64 > g.alloc then raise s .xlateNone v
    else
      let (g', ms) := g.configRing r.toNat v
      .ok ({ s.setGroup s.cur.core g' with net := s.net ++ ms }.retireX d (g.ring r.toNat).desc 8))

/-- The highest ring of a mask that holds a message (R342). -/
def Group.ringWith (g : Group) (mask : BitVec 4) : Option (Nat × RingMsg × List RingMsg) :=
  [3, 2, 1, 0].findSome? fun r => match mask.getLsbD r, (g.ring r).msgs with
    | true, m :: rest => some (r, m, rest)
    | _, _ => none

/-- The words of a slot. -/
def Group.slotWords (g : Group) (r : Nat) (m : RingMsg) : List W64 :=
  (List.range m.nw).map fun k => read64 g.spData ((g.ring r).base + m.slot * 64 + 8 * k)

/-- `mbx.take`, R342, R343: the bytes that it writes may be watched (25 R419), and the deposits that wait for room are served after it. -/
def execMbxTake (ord : MemOrd) (scope : Scope) (d a : Reg) (mask : BitVec 4) (s : State) :
    Host.Outcome State Fault Refusal :=
  finish s.cur (do
    let th ← getMe s
    let g ← getGroup s
    needLive s th [a] []
    let ea := (th.rx a).toNat
    if ea % 8 != 0 then raise s .align (w64 ea)
    else if regionOf ea != .near || g.alloc < ea + 64 then raise s .xlateNone (w64 (if regionOf ea == .near then max ea g.alloc else ea))
    else match g.ringWith mask with
      | none => waitFor s .sync
      | some (r, m, rest) =>
        watchRuns s s.cur .write [{ ea := ea, n := 8 * m.nw, align := 8, data := 0 }]
        let ring := g.ring r
        let g' := (g.pour ea (g.slotWords r m)).setRing r { ring with head := (ring.head + 1) % ring.nslot, msgs := rest }
        let (g', ms) := g'.serveRing ring.waiting.length r
        let v := w64 (r + m.nw * 2 ^ 4 + m.sender * 2 ^ 16)
        .ok (({ s.setGroup s.cur.core g' with net := s.net ++ ms }.acquire s.cur.core ord scope).retireX d v 8))

/-! ## Messages that carry words from memory -/

/-- The words that an instruction reads first, as weak `ld.d` instructions; once they are all read they are kept while it waits
for what comes next. -/
def wordsFirst (s : State) (ea n : Nat) : Do (State × List W64) := do
  let th ← getMe s
  let words (m : Map W64) : List W64 := (List.range n).map (look 0 m)
  if th.prog.stage == 17 then .ok (s, words th.prog.got)
  else
    let (s, ws) ← loadDoubles s ea n
    let th ← getMe s
    let (seq, s) := s.fresh
    .ok (s.setMe { th with prog := { th.prog with
      seq := seq, asked := [], got := (List.range n).zip ws, stage := 17, note := 0 } }, ws)

/-- The instruction has sent its message and waits for the one answer. -/
def sentAndWait (s : State) (m : Who → Nat → Msg) (why : Wait) : Do State := do
  let th ← getMe s
  let (seq, s) := s.fresh
  let s := s.setMe { th with wait := why, prog := { th.prog with
    seq := seq, asked := [0], got := [], reply := none, stage := 18, note := 0 } }
  .error (.wait (s.send (m s.cur seq)))

/-- The answer of a message that was sent: it waits until there is one. -/
def answer (s : State) (why : Wait) : Do W64 := do
  let th ← getMe s
  match th.prog.reply, find th.prog.got 0 with
  | some (.trap c v), _ => raise s c v
  | _, some v => .ok v
  | _, none => .error (.wait (s.setMe { th with wait := why }))

/-- Has the instruction sent its message? -/
def Thread.sent (th : Thread) : Bool := th.prog.stage == 18

/-- `send` to a mailbox, R338, R339. -/
def execSendMailbox (ord : MemOrd) (scope : Scope) (a b : Reg) (nw : BitVec 5) (s : State) :
    Host.Outcome State Fault Refusal :=
  finish s.cur (do
    let th ← getMe s
    let g ← getGroup s
    if th.sent then
      let _ ← answer s .sync
      .ok (s.retireNext 8)
    else
      needLive s th [a, b] []
      let v := th.rx a
      if fld v 63 14 != 0 || bitOf v 11 then queueTrap s 2
      else
        let s ← releaseWait s s.cur ord scope
        let (s, ws) ← wordsFirst s (th.rx b).toNat nw.toNat
        sentAndWait s (fun w seq => .deposit
          { who := w, seq := seq, core := fld v 10 0, ring := fld v 13 12, words := ws, dom := g.dom, held := false }) .sync)

/-! ## Job cards (R325 to R327) -/

/-- The scope that `SCOPE` names. -/
def cardScope (ws : List W64) : Option Scope :=
  match fld (cardWord ws 0) 10 8 with
  | 2 => some .g | 3 => some .cl | 4 => some .mod | 5 => some .sys | _ => none

/-- Are regions and arguments that the operation does not name zero? -/
def cardUnused (ws : List W64) (regions args : List Nat) : Bool :=
  (regions.all fun k => cardRegion ws k == (0, 0)) && args.all fun k => cardArg ws k == 0

/-- An element size of GATHER and SCATTER. -/
def gatherSize (e : W64) : Bool := [1, 2, 4, 8, 16, 32, 64].contains e.toNat

/-- The bytes of an element of a REDUCE format; none for another format. -/
def reduceSize (fmt : Nat) : Option Nat :=
  match fmt with
  | 3 | 10 => some 4
  | 4 | 11 => some 8
  | _ => none

/-- Do the regions and arguments meet the conditions of Table 2, on an engine of a kind: 0 and 1 copy, 2 gather/scatter, 3
collective? -/
def cardRegionsOk (ws : List W64) (kind : Nat) : Bool :=
  let rd0 := cardRegion ws 0
  let rd1 := cardRegion ws 1
  let wr0 := cardRegion ws 3
  let e := (cardArg ws 0).toNat
  match cardOp ws with
  | 0x01 => rd0.2 == wr0.2 && !meets rd0.1 rd0.2 wr0.1 wr0.2 && cardUnused ws [1, 2, 4] [0, 1, 2]
  | 0x02 => wr0.2 % 8 == 0 && cardUnused ws [0, 1, 2, 4] [1, 2]
  | 0x10 => kind == 2 && gatherSize (cardArg ws 0) && rd1.2 % 4 == 0 && wr0.2 == rd1.2 / 4 * e && cardUnused ws [2, 4] [1, 2]
  | 0x11 => kind == 2 && gatherSize (cardArg ws 0) && rd1.2 % 4 == 0 && rd0.2 == rd1.2 / 4 * e && cardUnused ws [2, 4] [1, 2]
  | 0x20 =>
    let v := cardArg ws 1
    kind == 3 && rd0.2 == wr0.2 && rd0.2 ≤ 4096 && 1 ≤ fld v 6 0 && fld v 6 0 ≤ 64 && fld v 13 12 ≤ 2 &&
      cardUnused ws [1, 2, 4] [2] && match reduceSize (fld v 11 8) with
        | some n => rd0.2 % n == 0
        | none => false
  | _ => false

/-- Does a card pass the check of R326? -/
def cardOk (ws : List W64) (kind : Nat) : Bool :=
  fld (cardWord ws 0) 31 11 == 0 && (cardScope ws).isSome && cardBar ws % 16 == 0 && fld (cardWord ws 2) 63 5 == 0 &&
    fld (cardWord ws 2) 1 0 < 2 && fld (cardWord ws 2) 4 2 < 4 && ([0, 1, 2, 3, 4].all fun k => (cardRegion ws k).2 < 2 ^ 32) &&
    cardRegionsOk ws kind

/-- The check of the 16 bytes at `BAR` (R326). -/
def checkBar (s : State) (w : Who) (g : Group) (th : Thread) (ea : Nat) : Do Unit :=
  if ea == 0 then .ok ()
  else do
    checkPlace s w g th .both [barRun ea]
    let _ ← barPlace s w g th ea
    .ok ()

/-- The `WID` that stamps a card (R329): a feed core has none, and the value is then free. -/
def State.stampWid (s : State) (w : Who) (th : Thread) : W64 × State := if w.issuer.isFeed then s.freeWord else (th.wid, s)

/-- `send` to an engine, R338, R326, R183. -/
def execSendEngine (a b : Reg) (s : State) : Host.Outcome State Fault Refusal :=
  finish s.cur (do
    let th ← getMe s
    let g ← getGroup s
    if th.sent then
      let _ ← answer s .sync
      .ok (s.retireNext 8)
    else
      needLive s th [a, b] []
      let v := th.rx a
      if fld v 63 10 != 0 || fld v 7 6 != 0 then queueTrap s 2
      else if (th.rx b).toNat % 64 != 0 then raise s .align (th.rx b)
      else
        let (s, ws) ← wordsFirst s (th.rx b).toNat 16
        if !cardOk ws (fld v 9 8) then queueTrap s 5
        else
          checkBar s s.cur g th (cardBar ws)
          let s ← releaseWait s s.cur .rel ((cardScope ws).getD .sys)
          let (wid, s) := s.stampWid s.cur th
          sentAndWait s (fun w seq => .card seq
            { cluster := fld v 5 0, kind := fld v 9 8, origin := w.core, dom := g.dom, kernel := th.kernel, who := w,
              gang := g.gang, wid := wid, card := ws, st := .inbox, recorded := false, cond := 0 }) .sync)

end Sys2Proof.Machine
end

