-- ==== Sys2Proof/Machine/Falu.lean ====
section
/-! DEFINITION. FALU and FCVT (08 R144 to R147): floating point on scalar registers. -/

namespace Sys2Proof.Machine

/-- `x[r]` as a value of a format: the low bits (06 R88). -/
def Thread.fpBits (th : Thread) (f : Fp) (r : Reg) : Nat := (th.rx r).toNat % 2 ^ f.width
/-- Its value. -/
def Thread.fpNum (th : Thread) (f : Fp) (r : Reg) : Num := f.read (th.fpBits f r)

/-- An instruction with one floating-point lane: its bits, zero-extended, to `x[D]`, and its conditions; one that rounds draws
under RSC (R102). -/
def fpScalar (s : State) (d : Reg) (xs : List Reg) (draw : Option Rm) (f : Thread → Nat × Flg) : Host.Outcome State Fault Refusal :=
  finish s.cur (do
    let th ← getMe s
    needLive s th xs []
    let r := f th
    fpRetire s th [r.2] fun th =>
      let th := (th.wx d (w64 r.1)).advance 8
      match draw with
      | some rm => th.drawn rm 1
      | none => th)

/-- An instruction that rounds to its format (R144). -/
def fpRounded (s : State) (fmt : FFmt) (rm : Rm) (d : Reg) (xs : List Reg) (f : Fp → RMode → Thread → Nat × Flg) :
    Host.Outcome State Fault Refusal :=
  fpScalar s d xs (some rm) fun th => f (fpOf fmt) (th.mode rm 0) th

/-- `fadd`, R144. -/
def execFadd (fmt : FFmt) (rm : Rm) (d a b : Reg) (s : State) : Host.Outcome State Fault Refusal :=
  fpRounded s fmt rm d [a, b] fun f m th => f.add m (th.fpNum f a) (th.fpNum f b)

/-- `fsub`, R144. -/
def execFsub (fmt : FFmt) (rm : Rm) (d a b : Reg) (s : State) : Host.Outcome State Fault Refusal :=
  fpRounded s fmt rm d [a, b] fun f m th => f.add m (th.fpNum f a) (th.fpNum f b).neg

/-- `fmul`, R144. -/
def execFmul (fmt : FFmt) (rm : Rm) (d a b : Reg) (s : State) : Host.Outcome State Fault Refusal :=
  fpRounded s fmt rm d [a, b] fun f m th => f.mul m (th.fpNum f a) (th.fpNum f b)

/-- `fma`, R144, R145. -/
def execFma (fmt : FFmt) (rm : Rm) (d a b c : Reg) (s : State) : Host.Outcome State Fault Refusal :=
  fpRounded s fmt rm d [a, b, c] fun f m th => f.fma m (th.fpNum f a) (th.fpNum f b) (th.fpNum f c)

/-- `fnma`, R144, R145. -/
def execFnma (fmt : FFmt) (rm : Rm) (d a b c : Reg) (s : State) : Host.Outcome State Fault Refusal :=
  fpRounded s fmt rm d [a, b, c] fun f m th => f.fma m (th.fpNum f a).neg (th.fpNum f b) (th.fpNum f c)

/-- `fdiv`, R144, R145. -/
def execFdiv (fmt : FFmt) (rm : Rm) (d a b : Reg) (s : State) : Host.Outcome State Fault Refusal :=
  fpRounded s fmt rm d [a, b] fun f m th => f.div m (th.fpNum f a) (th.fpNum f b)

/-- `fsqrt`, R144, R145. -/
def execFsqrt (fmt : FFmt) (rm : Rm) (d a : Reg) (s : State) : Host.Outcome State Fault Refusal :=
  fpRounded s fmt rm d [a] fun f m th => f.sqrt m (th.fpNum f a)

/-- `fmin`, R144, 06 R87. -/
def execFmin (fmt : FFmt) (d a b : Reg) (s : State) : Host.Outcome State Fault Refusal :=
  fpScalar s d [a, b] none fun th => (fpOf fmt).minMax false (th.fpBits (fpOf fmt) a) (th.fpBits (fpOf fmt) b)

/-- `fmax`, R144, 06 R87. -/
def execFmax (fmt : FFmt) (d a b : Reg) (s : State) : Host.Outcome State Fault Refusal :=
  fpScalar s d [a, b] none fun th => (fpOf fmt).minMax true (th.fpBits (fpOf fmt) a) (th.fpBits (fpOf fmt) b)

/-- The sign that `fsgn` gives (R144): that of b, its inverse, or the sign of a XOR that of b. -/
def sgnBit (mode : BitVec 2) (sa sb : Bool) : Bool :=
  match mode.toNat with
  | 0 => sb
  | 1 => !sb
  | _ => sa != sb

/-- `fsgn`, R144, R145. -/
def execFsgn (fmt : FFmt) (d a b : Reg) (mode : BitVec 2) (s : State) : Host.Outcome State Fault Refusal :=
  fpScalar s d [a, b] none fun th =>
    let f := fpOf fmt
    let top := 2 ^ (f.width - 1)
    let x := th.fpBits f a
    let y := th.fpBits f b
    (f.signed (sgnBit mode (top ≤ x) (top ≤ y)) (x % top), 0)

/-- `fcmp`, R145. -/
def execFcmp (fmt : FFmt) (d a b : Reg) (mode : BitVec 2) (s : State) : Host.Outcome State Fault Refusal :=
  fpScalar s d [a, b] none fun th =>
    let r := (fpOf fmt).compare mode.toNat (th.fpBits (fpOf fmt) a) (th.fpBits (fpOf fmt) b)
    (natOf r.1, r.2)

/-- The class of a value (R145): the number of the one bit that `fclass` sets. -/
def Fp.classNo (f : Fp) (x : Num) : Nat :=
  match x with
  | .inf true => 0
  | .inf false => 7
  | .zero true => 3
  | .zero false => 4
  | .nan true => 8
  | .nan false => 9
  | .fin neg m _ =>
    if 2 ^ f.fbits ≤ m then (if neg then 1 else 6) else (if neg then 2 else 5)

/-- `fclass`, R145. -/
def execFclass (fmt : FFmt) (d a : Reg) (s : State) : Host.Outcome State Fault Refusal :=
  fpScalar s d [a] none fun th => (2 ^ (fpOf fmt).classNo (th.fpNum (fpOf fmt) a), 0)

/-! ## FCVT -/

/-- The integer format of a type code of Table 5, for codes 4 to 7. -/
def intOfCode (code : Nat) : IntFmt :=
  match code with
  | 4 => { width := 32, signed := true }
  | 5 => { width := 32, signed := false }
  | 6 => { width := 64, signed := true }
  | _ => { width := 64, signed := false }

/-- The IEEE format of a type code of Table 5, for codes 0 to 3. -/
def fpOfCode (code : Nat) : Fp :=
  match code with
  | 0 => fpOf .f16
  | 1 => fpOf .bf16
  | 2 => fpOf .f32
  | _ => fpOf .f64

/-- The source value of `fcvt` and its width. -/
def Thread.cvtSource (th : Thread) (code : Nat) (a : Reg) : Num × Nat :=
  if code < 4 then (th.fpNum (fpOfCode code) a, (fpOfCode code).width)
  else
    let i := intOfCode code
    let u := (th.rx a).toNat % 2 ^ i.width
    (numOfInt (if i.signed then sv i.width u else u), i.width)

/-- `fcvt`, R146: to an IEEE format. -/
def execFcvt (fmt : FFmt) (rm : Rm) (d a : Reg) (src : BitVec 3) (s : State) : Host.Outcome State Fault Refusal :=
  finish s.cur (do
    let th ← getMe s
    needLive s th [a] []
    let (x, w) := th.cvtSource src.toNat a
    let r := (fpOf fmt).ofNum (th.mode rm 0) x
    fpRetire s th [r.2] fun th =>
      (((th.wx d (w64 r.1)).amaxOf ((fpOf fmt).width < w) [x]).drawn rm 1).advance 8)

/-- `fcvt` with `int`, R146, 06 R86: to an integer, sign-extended or zero-extended. -/
def execFcvtInt (fmt : FFmt) (rm : Rm) (d a : Reg) (dst : BitVec 3) (s : State) : Host.Outcome State Fault Refusal :=
  finish s.cur (do
    let th ← getMe s
    needLive s th [a] []
    let i := intOfCode dst.toNat
    let x := th.fpNum (fpOf fmt) a
    let r := i.ofIeee (th.mode rm 0) x
    let v := if i.signed then sext i.width r.1 else w64 r.1
    fpRetire s th [r.2] fun th =>
      (((th.wx d v).amaxOf (i.width < (fpOf fmt).width) [x]).drawn rm 1).advance 8)

/-- `fmv`, R147. -/
def execFmv (fmt : FFmt) (d a : Reg) (s : State) : Host.Outcome State Fault Refusal :=
  toX s 8 d [a] fun th => w64 (th.fpBits (fpOf fmt) a)

end Sys2Proof.Machine
end

