-- ==== Sys2Proof/Machine/Vector.lean ====
section
/-! DEFINITION. Vector operands (08 R134, R137, R142, R143): lanes, pairs, the tag check, and how a vector instruction retires. -/

namespace Sys2Proof.Machine

/-- The lanes of `n` bits of 256 data bits, lane 0 first (R134). -/
def lanesOf (n : Nat) (v : W256) : List Nat := (List.range (256 / n)).map fun j => v.toNat / 2 ^ (n * j) % 2 ^ n

/-- The number whose digits of `n` bits are a list, the least first. -/
def packNat (n : Nat) (ls : List Nat) : Nat :=
  match ls with
  | [] => 0
  | a :: rest => a % 2 ^ n + 2 ^ n * packNat n rest

/-- 256 data bits from lanes. -/
def packLanes (n : Nat) (ls : List Nat) : W256 := BitVec.ofNat 256 (packNat n ls)

/-- The registers of an operand: one, or an even register and the next (R142). -/
def regsOf (pr : Bool) (r : Reg) : List Reg := if pr then [r, r + 1] else [r]

/-- An operand's lanes: 2L of them in the pair form. -/
def Thread.lanes (th : Thread) (n : Nat) (pr : Bool) (r : Reg) : List Nat :=
  (regsOf pr r).flatMap fun k => lanesOf n (th.rv k).data

/-- The scale byte of a block of a sidecar (06 R94). -/
def sideByte (side : W64) (b : Nat) : Nat := side.toNat / 2 ^ (8 * b) % 256

/-- Write an operand's lanes under a tag, with a zero sidecar. -/
def Thread.putLanes (th : Thread) (n : Nat) (pr : Bool) (r : Reg) (tag : BitVec 4) (ls : List Nat) : Thread :=
  if pr then (th.wv r (packLanes n (ls.take (256 / n))) tag 0).wv (r + 1) (packLanes n (ls.drop (256 / n))) tag 0
  else th.wv r (packLanes n ls) tag 0

/-- FORMAT when a live source does not carry a tag (R143, R137): `TVAL` holds the instruction's bits (14 Table 1). -/
def needTags (s : State) (th : Thread) (i : Instr) (tag : BitVec 4) (rs : List Reg) : Do Unit :=
  if rs.all fun r => !(th.rv r).live || (th.rv r).tag == tag then .ok () else raise s .format (lowBits i)

/-- A vector instruction whose sources all carry one tag: the dead-register check, the tag check, then the lanes' conditions and
the thread it leaves, which retires. -/
def vectorOp (s : State) (i : Instr) (xs vs : List Reg) (tag : BitVec 4) (f : Thread → List Flg × (Thread → Thread)) :
    Host.Outcome State Fault Refusal :=
  finish s.cur (do
    let th ← getMe s
    needLive s th xs vs
    needTags s th i tag vs
    let r := f th
    fpRetire s th r.1 fun th => (r.2 th).advance 8)

/-- The I tag of a width (06 Table 4). -/
def tagI (n : Nat) : BitVec 4 :=
  match n with
  | 8 => 1 | 16 => 2 | 32 => 3 | _ => 4

/-- The tag of coding F (06 Table 4). -/
def tagF (f : FFmt) : BitVec 4 :=
  match f with
  | .bf16 => 8 | .f16 => 9 | .f32 => 10 | .f64 => 11

/-- The tag of coding V (06 Table 4). -/
def tagV (f : VFmt) : BitVec 4 :=
  match f with
  | .i8 => 1 | .i16 => 2 | .i32 => 3 | .i64 => 4 | .bf16 => 8 | .f16 => 9 | .f32 => 10 | .f64 => 11

/-- The tag of coding M (06 Table 4). -/
def tagM (f : MFmt) : BitVec 4 :=
  match f with
  | .t8 => 5 | .t8b => 6 | .t6b => 7 | .i8b => 12 | .i8 => 1 | .bf16 => 8 | .f16 => 9

/-- The tag of the coding that `Q` selects. -/
def tagVM (f : VM) : BitVec 4 :=
  match f with
  | .v f => tagV f
  | .m f => tagM f

end Sys2Proof.Machine
end

