-- ==== Sys2Proof/Machine/Valu.lean ====
section
/-! DEFINITION. VALU (08 R148, R149): integer vectors. -/

namespace Sys2Proof.Machine

/-- A value as n bits. -/
def bitsN (n : Nat) (v : Int) : Nat := (v % (2 : Int) ^ n).toNat

/-- Lane by lane over two operands. -/
def zipLanes {α : Type} (f : Nat → Nat → α) (a b : List Nat) : List α :=
  match a, b with
  | x :: xs, y :: ys => f x y :: zipLanes f xs ys
  | _, _ => []

/-- A VALU instruction of two sources whose lanes raise no condition. -/
def valu2 (s : State) (i : Instr) (sz : ISz) (pr : Bool) (d a b : Reg) (f : Nat → Nat → Nat → Nat) :
    Host.Outcome State Fault Refusal :=
  let n := sz.bitsN
  vectorOp s i [] (regsOf pr a ++ regsOf pr b) (tagI n) fun th =>
    ([], fun t => t.putLanes n pr d (tagI n) (zipLanes (f n) (th.lanes n pr a) (th.lanes n pr b)))

/-- A VALU instruction of one source. -/
def valu1 (s : State) (i : Instr) (sz : ISz) (pr : Bool) (d a : Reg) (f : Nat → Nat → Nat) : Host.Outcome State Fault Refusal :=
  let n := sz.bitsN
  vectorOp s i [] (regsOf pr a) (tagI n) fun th =>
    ([], fun t => t.putLanes n pr d (tagI n) ((th.lanes n pr a).map (f n)))

/-- A saturating VALU instruction (06 R86). -/
def valuSat (s : State) (i : Instr) (sz : ISz) (pr : Bool) (d a b : Reg) (f : Int → Int → Int) : Host.Outcome State Fault Refusal :=
  let n := sz.bitsN
  vectorOp s i [] (regsOf pr a ++ regsOf pr b) (tagI n) fun th =>
    let rs := zipLanes (fun x y => ({ width := n, signed := true } : IntFmt).clamp (f (sv n x) (sv n y)))
      (th.lanes n pr a) (th.lanes n pr b)
    (rs.map (·.2), fun t => t.putLanes n pr d (tagI n) (rs.map (·.1)))

/-- `vadd`, R148. -/
def execVadd (sz : ISz) (pr : Bool) (d a b : Reg) (s : State) : Host.Outcome State Fault Refusal :=
  valu2 s (.vadd sz pr d a b) sz pr d a b fun n x y => (x + y) % 2 ^ n
/-- `vsub`, R148. -/
def execVsub (sz : ISz) (pr : Bool) (d a b : Reg) (s : State) : Host.Outcome State Fault Refusal :=
  valu2 s (.vsub sz pr d a b) sz pr d a b fun n x y => (x + (2 ^ n - y)) % 2 ^ n
/-- `vmul`, R148. -/
def execVmul (sz : ISz) (pr : Bool) (d a b : Reg) (s : State) : Host.Outcome State Fault Refusal :=
  valu2 s (.vmul sz pr d a b) sz pr d a b fun n x y => x * y % 2 ^ n
/-- `vmulh`, R148. -/
def execVmulh (sz : ISz) (pr : Bool) (d a b : Reg) (s : State) : Host.Outcome State Fault Refusal :=
  valu2 s (.vmulh sz pr d a b) sz pr d a b fun n x y => bitsN n (sv n x * sv n y / (2 : Int) ^ n)
/-- `vmin`, R148. -/
def execVmin (sz : ISz) (pr : Bool) (d a b : Reg) (s : State) : Host.Outcome State Fault Refusal :=
  valu2 s (.vmin sz pr d a b) sz pr d a b fun n x y => if sv n x ≤ sv n y then x else y
/-- `vmax`, R148. -/
def execVmax (sz : ISz) (pr : Bool) (d a b : Reg) (s : State) : Host.Outcome State Fault Refusal :=
  valu2 s (.vmax sz pr d a b) sz pr d a b fun n x y => if sv n y ≤ sv n x then x else y
/-- `vabs`, R148. -/
def execVabs (sz : ISz) (pr : Bool) (d a : Reg) (s : State) : Host.Outcome State Fault Refusal :=
  valu1 s (.vabs sz pr d a) sz pr d a fun n x => (sv n x).natAbs % 2 ^ n
/-- `vneg`, R148. -/
def execVneg (sz : ISz) (pr : Bool) (d a : Reg) (s : State) : Host.Outcome State Fault Refusal :=
  valu1 s (.vneg sz pr d a) sz pr d a fun n x => bitsN n (-sv n x)

/-- The tag and sidecar of a bitwise result (R149): A's when A and B carry the same tag. -/
def pairTag (a b : VReg) : BitVec 4 × W64 := if a.tag == b.tag then (a.tag, a.side) else (0, 0)

/-- One register of a bitwise result. R149 itself names the sidecar, also under a tag that is not block-scaled, as R143 lets it; T6 elements are
read and written without bits `[7:6]` (06 R91). -/
def Thread.bitwise (th : Thread) (t : Thread) (f : W256 → W256 → W256) (d a b : Reg) : Thread :=
  let x := th.rv a
  let y := th.rv b
  { t with v := vset t.v d.toNat { data := f x.bits y.bits, tag := (pairTag x y).1, side := (pairTag x y).2, live := true } }

/-- A bitwise VALU instruction (R149): no tag is checked. R149 speaks of one tag of A and one of B. DESIGN CHOICE: in the pair form each
register of the result takes its tag and sidecar from the two registers that it combines, also where the two registers of an operand carry
different tags (notes/assumptions/32.md). Unsafe: hardware may take both from the first pair. -/
def valuBits (s : State) (pr : Bool) (d a b : Reg) (f : W256 → W256 → W256) : Host.Outcome State Fault Refusal :=
  finish s.cur (do
    let th ← getMe s
    needLive s th [] (regsOf pr a ++ regsOf pr b)
    let t := th.bitwise th f d a b
    let t := if pr then th.bitwise t f (d + 1) (a + 1) (b + 1) else t
    .ok (s.retire (t.advance 8)))

/-- `vand`, R149. -/
def execVand (_sz : ISz) (pr : Bool) (d a b : Reg) (s : State) : Host.Outcome State Fault Refusal := valuBits s pr d a b (· &&& ·)
/-- `vor`, R149. -/
def execVor (_sz : ISz) (pr : Bool) (d a b : Reg) (s : State) : Host.Outcome State Fault Refusal := valuBits s pr d a b (· ||| ·)
/-- `vxor`, R149. -/
def execVxor (_sz : ISz) (pr : Bool) (d a b : Reg) (s : State) : Host.Outcome State Fault Refusal := valuBits s pr d a b (· ^^^ ·)
/-- `vshl`, R148. -/
def execVshl (sz : ISz) (pr : Bool) (d a b : Reg) (s : State) : Host.Outcome State Fault Refusal :=
  valu2 s (.vshl sz pr d a b) sz pr d a b fun n x y => x * 2 ^ (y % n) % 2 ^ n
/-- `vshr`, R148. -/
def execVshr (sz : ISz) (pr : Bool) (d a b : Reg) (s : State) : Host.Outcome State Fault Refusal :=
  valu2 s (.vshr sz pr d a b) sz pr d a b fun n x y => x / 2 ^ (y % n)
/-- `vsra`, R148. -/
def execVsra (sz : ISz) (pr : Bool) (d a b : Reg) (s : State) : Host.Outcome State Fault Refusal :=
  valu2 s (.vsra sz pr d a b) sz pr d a b fun n x y => bitsN n (sv n x / (2 : Int) ^ (y % n))
/-- `vsadd`, R148. -/
def execVsadd (sz : ISz) (pr : Bool) (d a b : Reg) (s : State) : Host.Outcome State Fault Refusal :=
  valuSat s (.vsadd sz pr d a b) sz pr d a b (· + ·)
/-- `vssub`, R148. -/
def execVssub (sz : ISz) (pr : Bool) (d a b : Reg) (s : State) : Host.Outcome State Fault Refusal :=
  valuSat s (.vssub sz pr d a b) sz pr d a b (· - ·)

end Sys2Proof.Machine
end

