-- ==== Sys2Proof/Machine/Vfpu.lean ====
section
/-! DEFINITION. VFPU (08 R150): floating-point vectors, lane by lane as FALU computes. -/

namespace Sys2Proof.Machine

/-- Lane by lane over operands, with each lane's number. -/
def laneMap {α : Type} (f : Nat → List Nat → α) (j : Nat) (k : Nat) (ops : List (List Nat)) : List α :=
  match k with
  | 0 => []
  | n + 1 => f j (ops.map fun l => l.headD 0) :: laneMap f (j + 1) n (ops.map List.tail)

/-- The `j`-th operand of a lane. -/
def opnd (xs : List Nat) (j : Nat) : Nat := xs.getD j 0

/-- A VFPU instruction: the lanes of its sources, each lane's result, its result's tag, and its draws under RSC. -/
def vfpu (s : State) (i : Instr) (fmt : FFmt) (pr : Bool) (rm : Option Rm) (d : Reg) (rs : List Reg) (tag : BitVec 4)
    (f : Fp → RMode → List Nat → Nat × Flg) : Host.Outcome State Fault Refusal :=
  let fp := fpOf fmt
  let n := fp.width
  let l := if pr then 2 * (256 / n) else 256 / n
  vectorOp s i [] (rs.flatMap (regsOf pr)) (tagF fmt) fun th =>
    let ls := laneMap (fun j xs => f fp (th.mode (rm.getD .rne) j) xs) 0 l (rs.map (th.lanes n pr))
    (ls.map (·.2), fun t =>
      let t := t.putLanes n pr d tag (ls.map (·.1))
      match rm with
      | some rm => t.drawn rm l
      | none => t)

/-- `vfadd`, R150. -/
def execVfadd (fmt : FFmt) (pr : Bool) (rm : Rm) (d a b : Reg) (s : State) : Host.Outcome State Fault Refusal :=
  vfpu s (.vfadd fmt pr rm d a b) fmt pr (some rm) d [a, b] (tagF fmt) fun f m xs => f.add m (f.read (opnd xs 0)) (f.read (opnd xs 1))
/-- `vfsub`, R150. -/
def execVfsub (fmt : FFmt) (pr : Bool) (rm : Rm) (d a b : Reg) (s : State) : Host.Outcome State Fault Refusal :=
  vfpu s (.vfsub fmt pr rm d a b) fmt pr (some rm) d [a, b] (tagF fmt) fun f m xs => f.add m (f.read (opnd xs 0)) (f.read (opnd xs 1)).neg
/-- `vfmul`, R150. -/
def execVfmul (fmt : FFmt) (pr : Bool) (rm : Rm) (d a b : Reg) (s : State) : Host.Outcome State Fault Refusal :=
  vfpu s (.vfmul fmt pr rm d a b) fmt pr (some rm) d [a, b] (tagF fmt) fun f m xs => f.mul m (f.read (opnd xs 0)) (f.read (opnd xs 1))
/-- `vfma`, R150. -/
def execVfma (fmt : FFmt) (pr : Bool) (rm : Rm) (d a b c : Reg) (s : State) : Host.Outcome State Fault Refusal :=
  vfpu s (.vfma fmt pr rm d a b c) fmt pr (some rm) d [a, b, c] (tagF fmt) fun f m xs =>
    f.fma m (f.read (opnd xs 0)) (f.read (opnd xs 1)) (f.read (opnd xs 2))
/-- `vfnma`, R150. -/
def execVfnma (fmt : FFmt) (pr : Bool) (rm : Rm) (d a b c : Reg) (s : State) : Host.Outcome State Fault Refusal :=
  vfpu s (.vfnma fmt pr rm d a b c) fmt pr (some rm) d [a, b, c] (tagF fmt) fun f m xs =>
    f.fma m (f.read (opnd xs 0)).neg (f.read (opnd xs 1)) (f.read (opnd xs 2))
/-- `vfmin`, R150, 06 R87. -/
def execVfmin (fmt : FFmt) (pr : Bool) (d a b : Reg) (s : State) : Host.Outcome State Fault Refusal :=
  vfpu s (.vfmin fmt pr d a b) fmt pr none d [a, b] (tagF fmt) fun f _ xs => f.minMax false (opnd xs 0) (opnd xs 1)
/-- `vfmax`, R150, 06 R87. -/
def execVfmax (fmt : FFmt) (pr : Bool) (d a b : Reg) (s : State) : Host.Outcome State Fault Refusal :=
  vfpu s (.vfmax fmt pr d a b) fmt pr none d [a, b] (tagF fmt) fun f _ xs => f.minMax true (opnd xs 0) (opnd xs 1)
/-- `vfdiv`, R150. -/
def execVfdiv (fmt : FFmt) (pr : Bool) (rm : Rm) (d a b : Reg) (s : State) : Host.Outcome State Fault Refusal :=
  vfpu s (.vfdiv fmt pr rm d a b) fmt pr (some rm) d [a, b] (tagF fmt) fun f m xs => f.div m (f.read (opnd xs 0)) (f.read (opnd xs 1))
/-- `vfcmp`, R150: all ones where the condition holds, under the I tag of the width. -/
def execVfcmp (fmt : FFmt) (pr : Bool) (d a b : Reg) (mode : BitVec 2) (s : State) : Host.Outcome State Fault Refusal :=
  vfpu s (.vfcmp fmt pr d a b mode) fmt pr none d [a, b] (tagI (fpOf fmt).width) fun f _ xs =>
    let r := f.compare mode.toNat (opnd xs 0) (opnd xs 1)
    (if r.1 then 2 ^ f.width - 1 else 0, r.2)

end Sys2Proof.Machine
end

