-- ==== Sys2Proof/Machine/Vred.lean ====
section
/-! DEFINITION. VRED (08 R156) in the tree of 06 R98, VSPEC (08 R157 to R159) and VSEQ (08 R161). -/

namespace Sys2Proof.Machine

/-- One level of the tree of 06 R98: positions 2j and 2j + 1 combine by a step that is numbered from `i`; a position with no
partner passes up (06 R99). -/
def treeLevel {α : Type} (f : Nat → α → α → α × Flg) (i : Nat) (xs : List α) : List α × Flg × Nat :=
  match xs with
  | a :: b :: rest =>
    let (r, fl) := f i a b
    let (ys, fl', k) := treeLevel f (i + 1) rest
    (r :: ys, fl ||| fl', k)
  | xs => (xs, 0, i)

/-- The tree: levels until one value is left. The second number is the next step's. -/
def treeFold {α : Type} (fuel : Nat) (f : Nat → α → α → α × Flg) (i : Nat) (fl : Flg) (xs : List α) : List α × Flg :=
  match fuel with
  | 0 => (xs, fl)
  | k + 1 =>
    match xs with
    | _ :: _ :: _ =>
      let (ys, f', j) := treeLevel f i xs
      treeFold k f j (fl ||| f') ys
    | xs => (xs, fl)

/-- A VRED instruction: the tree over the lanes, and the result as R156 writes it. The lane of an FP trap is free (`needQuietTree`). -/
def vred (s : State) (i : Instr) (fmt : VFmt) (d a : Reg) (draw : Option Rm) (f : Thread → Nat → Nat → Nat → Nat × Flg) :
    Host.Outcome State Fault Refusal :=
  let tag := tagV fmt
  let n := tagBits tag.toNat
  finish s.cur (do
    let th ← getMe s
    needLive s th [] [a]
    needTags s th i tag [a]
    let r := treeFold 6 (f th) 0 0 (th.lanes n false a)
    let v := r.1.headD 0
    needQuietTree s th (256 / n) r.2
    fpRetire s th [r.2] fun t =>
      let t := t.wx d (if tagInt tag.toNat then sext n v else w64 v)
      (match draw with
      | some rm => t.drawn rm (256 / n - 1)
      | none => t).advance 8)

/-- `vred.add`, R156: an integer sum wraps, an IEEE sum rounds at each step and draws by the step's number. -/
def execVredAdd (fmt : VFmt) (rm : Rm) (d a : Reg) (s : State) : Host.Outcome State Fault Refusal :=
  let tag := (tagV fmt).toNat
  vred s (.vredAdd fmt rm d a) fmt d a (if tagInt tag then none else some rm) fun th i x y =>
    match tagFp tag with
    | some fp => fp.add (th.mode rm i) (fp.read x) (fp.read y)
    | none => ((x + y) % 2 ^ tagBits tag, 0)

/-- The larger or smaller of two lanes of a format (R156, 06 R87). -/
def redPick (isMax : Bool) (tag x y : Nat) : Nat × Flg :=
  match tagFp tag with
  | some fp => fp.minMax isMax x y
  | none =>
    let n := tagBits tag
    (if isMax then (if sv n y ≤ sv n x then x else y) else (if sv n x ≤ sv n y then x else y), 0)

/-- `vred.max`, R156. -/
def execVredMax (fmt : VFmt) (d a : Reg) (s : State) : Host.Outcome State Fault Refusal :=
  vred s (.vredMax fmt d a) fmt d a none fun _ _ => redPick true (tagV fmt).toNat
/-- `vred.min`, R156. -/
def execVredMin (fmt : VFmt) (d a : Reg) (s : State) : Host.Outcome State Fault Refusal :=
  vred s (.vredMin fmt d a) fmt d a none fun _ _ => redPick false (tagV fmt).toNat

/-! ## VSPEC -/

/-- A vector special function over the 8 FP32 lanes (R157). -/
def vspecV (s : State) (i : Instr) (rm : Rm) (d a : Reg) (f : RMode → Num → Nat × Flg) : Host.Outcome State Fault Refusal :=
  vfpu s i .f32 false (some rm) d [a] 10 fun fp m xs => f m (fp.read (opnd xs 0))

/-- A scalar special function (R157). -/
def vspecS (s : State) (rm : Rm) (d a : Reg) (f : RMode → Num → Nat × Flg) : Host.Outcome State Fault Refusal :=
  fpScalar s d [a] (some rm) fun th => f (th.mode rm 0) (th.fpNum fp32 a)

/-- 2^x as a stepping computes it: on A1 a finite lane of 128 or more raises no condition (27 R438). -/
def exp2On (a1 : Bool) (mode : RMode) (x : Num) : Nat × Flg :=
  let r := exp2F mode x
  match x with
  | .fin false m e => if a1 && !(cmpMag 128 0 m e).1 then (r.1, 0) else r
  | _ => r

/-- `vexp2`, R157. -/
def execVexp2V (rm : Rm) (d a : Reg) (s : State) : Host.Outcome State Fault Refusal :=
  vspecV s (.vexp2V rm d a) rm d a (exp2On s.a1)
/-- `vrcp`, R157. -/
def execVrcpV (rm : Rm) (d a : Reg) (s : State) : Host.Outcome State Fault Refusal := vspecV s (.vrcpV rm d a) rm d a rcpF
/-- `vrsqrt`, R157. -/
def execVrsqrtV (rm : Rm) (d a : Reg) (s : State) : Host.Outcome State Fault Refusal := vspecV s (.vrsqrtV rm d a) rm d a rsqrtF
/-- `vlog2`, R157. -/
def execVlog2V (rm : Rm) (d a : Reg) (s : State) : Host.Outcome State Fault Refusal := vspecV s (.vlog2V rm d a) rm d a log2F
/-- Scalar `vexp2`, R157. -/
def execVexp2S (rm : Rm) (d a : Reg) (s : State) : Host.Outcome State Fault Refusal := vspecS s rm d a (exp2On s.a1)
/-- Scalar `vrcp`, R157. -/
def execVrcpS (rm : Rm) (d a : Reg) (s : State) : Host.Outcome State Fault Refusal := vspecS s rm d a rcpF
/-- Scalar `vrsqrt`, R157. -/
def execVrsqrtS (rm : Rm) (d a : Reg) (s : State) : Host.Outcome State Fault Refusal := vspecS s rm d a rsqrtF
/-- Scalar `vlog2`, R157. -/
def execVlog2S (rm : Rm) (d a : Reg) (s : State) : Host.Outcome State Fault Refusal := vspecS s rm d a log2F

/-- The lanes of the vector `crand` (R159): width, tag and values. -/
def crandLanes (sz : CrSz) (key ctr : W64) : Nat × BitVec 4 × List Nat :=
  let at_ (j : Nat) : Nat := (crand key (ctr + w64 j)).toNat
  match sz with
  | .w => (32, 3, (List.range 8).map fun j => at_ j % 2 ^ 32)
  | .d => (64, 4, (List.range 4).map at_)
  | .f32 => (32, 10, (List.range 8).map fun j =>
      (fp32.ofNum .rne ((numOfInt (at_ j / 2 ^ 40 : Nat)).scale (-24))).1)

/-- Vector `crand`, R159. -/
def execCrandV (sz : CrSz) (d a b : Reg) (s : State) : Host.Outcome State Fault Refusal :=
  scalar s [a, b] fun th =>
    let r := crandLanes sz (th.rx a) (th.rx b)
    (th.wv d (packLanes r.1 r.2.2) r.2.1 0).advance 8

/-- Scalar `crand`, R159. -/
def execCrandS (d a b : Reg) (s : State) : Host.Outcome State Fault Refusal :=
  toX s 8 d [a, b] fun th => crand (th.rx a) (th.rx b)

/-! ## VSEQ -/

/-- `vloop`, R161; a taken one whose target differs from the last refills the loop buffer. -/
def execVloop (a : Reg) (imm : BitVec 16) (s : State) : Host.Outcome State Fault Refusal :=
  scalar s [a] fun th =>
    if (th.rx a).toNat ≤ 1 then (th.wx a 0).advance 8
    else
      let t := th.pc + 4 * imm.signExtend 64
      { (th.wx a (th.rx a - 1)).jumpTo t with loopTgt := some t }

end Sys2Proof.Machine
end

