-- ==== Sys2Proof/Machine/Engine.lean ====
section
/-! DEFINITION. The engines (18 R324 to R333): accepting, starting and performing jobs, REDUCE sets, barrier steps, completion,
failure and replies; and the re-evaluation of the waiters of a scratchpad bank (11 R222 to R225). -/

namespace Sys2Proof.Machine

/-- Replace a job. -/
def State.setJob (s : State) (id : Nat) (j : Job) : State := { s with jobs := set s.jobs id j }
/-- Put a job into a state. -/
def State.jobSt (s : State) (id : Nat) (j : Job) (st : JobSt) : State := s.setJob id { j with st := st }

/-- The status of a cause (18 Table 3). -/
def Cause.status (c : Cause) : Nat :=
  match c with
  | .xlateNone => 1 | .xlatePerm => 2 | .cow => 3 | .tag => 4 | .ownerLost => 5 | .ecc => 6 | _ => 1

/-- Is a message a job's request to be told where its words are (20 R360)? -/
def Msg.asksFor (id : Nat) (m : Msg) : Bool :=
  match m with
  | .far { req := .reach (some (i, _)), .. } => i == id
  | _ => false

/-- A job leaves every bank's queues (11 R225), and nothing of what it has asked stays. -/
def State.unparkJob (s : State) (id : Nat) : State :=
  { s with
    cores := s.cores.map fun (e : Nat × Core) => (e.1, e.2.mapBanks (Bank.keep fun q => !q.same (.job id 0 0))),
    net := s.net.filter fun m => !m.asksFor id,
    spill := s.spill.filter fun h => !h.msg.asksFor id,
    reach := s.reach.filter fun e => e.1 / 2048 != id }

/-- A job ends with a status after a number of bytes; one that fails has a step on `BAR` still to make (R332). -/
def State.jobEnd (s : State) (id : Nat) (j : Job) (status done : Nat) : State :=
  (s.unparkJob id).jobSt id j (.ended status done (status != 0))

/-- A job fails because a step on `BAR` cannot be made: no other step on it is (R332). -/
def State.jobEndBar (s : State) (id : Nat) (j : Job) (c : Cause) (done : Nat) : State :=
  (s.unparkJob id).jobSt id j (.ended c.status done false)

/-! ## Addresses (R328, 13 R245) -/

/-- Where an engine finds an address of a card. -/
inductive EngAt where
  | sp (core off : Nat) | mem (pa : Nat) | host (a : Nat) (trk : Bool)
  deriving DecidableEq, Repr

/-- The translation caches of an engine (13 R249). -/
def State.engCaches (s : State) (j : Job) : List TlbEnt :=
  if j.kind == 3 then look [] s.dieWalk (j.cluster / 8) else (s.cluster j.cluster).walk

/-- The step in which the access that a job makes at a core was first made: the parked one's, or this (07 R130). -/
def State.jobStamp (s : State) (core id : Nat) : Nat :=
  (((s.core core).banks.toList.flatMap fun b => b.queue ++ b.retry).findSome? fun q => match q with
    | .job i _ stamp => if i == id then some stamp else none
    | _ => none).getD s.stepNo

/-- The place of bytes in one line: the issuing group's scratchpad, a far scratchpad, or a page of the group's domain in the
mode of the `send`. -/
def State.engWhere (s : State) (j : Job) (a : Acc) (va : Nat) : Except Cause EngAt :=
  match regionOf va with
  | .nowhere => .error .xlateNone
  | .near => if !s.holds j.gang j.origin || j.recorded then .error .xlateNone else .ok (.sp j.origin va)
  | .far c => .ok (.sp c (va % 2 ^ 21))
  | .global => match s.xlate (s.engCaches j) j.dom va j.kernel a with
    | .error c => .error c
    | .ok p => if isHost p.pa then .ok (.host (p.pa - hostBase) p.trk) else .ok (.mem p.pa)

/-- What a piece of a job's traffic comes to. -/
inductive EngOut where
  | ok (s : State) (bs : List Byte) | wait (s : State) | bad (s : State) (c : Cause)
  deriving Repr

/-- The bytes in the low `n` bytes of a word. -/
def wordBytes (v : W64) (n : Nat) : List Byte := (List.range n).map fun k => BitVec.ofNat 8 (v.toNat / 256 ^ k)

/-- The word parts of `n` bytes of a scratchpad. -/
def spParts (off n : Nat) (bs : List Byte) : List SpPart :=
  let ps := piecesFrom n off 0 n
  (ps.zip (List.range ps.length)).map fun x : (Nat × Nat × Nat) × Nat =>
    { k := x.2, off := x.1.1, n := x.1.2.2, data := w64 (natOfBytes ((bs.drop x.1.2.1).take x.1.2.2)) }

/-- Is a scratchpad that a job reaches in another group than its own one of a suspended gang, so that the access is held or refused
(20 R360)? -/
def State.engArrive (s : State) (j : Job) (core : Nat) : Arrive := if core == j.origin && s.holds j.gang core then .take else s.arrive core

/-- Where a job's access to a core's scratchpad acts: at a core; it waits; or it is refused. -/
inductive SpAt where
  | at_ (core : Nat) | wait (s : State) | refuse (c : Cause)
  deriving Repr

/-- Where a job's access of `n` bytes to the scratchpad of core `named` acts (10 R185 item 4): there, or, when the router there holds what arrives,
at the core that the held request then reaches (20 R360). -/
def State.engSp (s : State) (id : Nat) (j : Job) (named off n : Nat) : SpAt :=
  let key := reachKey id named
  let asks (m : Msg) : Bool := match m with
    | .far { req := .reach (some (i, c)), .. } => reachKey i c == key
    | _ => false
  if s.net.any asks || s.spill.any fun h => asks h.msg then .wait s
  else match find s.reach key with
    | some none => .refuse .xlateNone
    | r =>
      let core := (r.getD none).getD named
      let stamp := s.jobStamp core id
      match s.engArrive j core, s.farRefusal j.dom core off n stamp with
      | .hold gang gidx, _ =>
        let m : FarMsg := { who := { core := j.origin, issuer := .departed }, stamp := stamp, seq := 0, jidxs := [], target := core,
                            dom := j.dom, vec := false, req := .reach (some (id, named)), parts := spParts off n [] }
        .wait (({ s with reach := del s.reach key } : State).holdMsg gang gidx core (.far m))
      | .refuse, _ => .refuse .xlateNone
      | .take, some c => .refuse c
      | .take, none => .at_ core

/-- A job's access has been made: the next one goes to the core that its card names. A ring's copy is one access. -/
def State.reached (s : State) (id named : Nat) : State := if 2 ^ 32 ≤ id then s else { s with reach := del s.reach (reachKey id named) }

/-- A job's access to a scratchpad, first made in step `stamp`. -/
def jobWaiter (id stamp word : Nat) : Waiter := .job id word stamp

/-- A job's access to `n` bytes of the scratchpad of core `named`: the bytes read. -/
def State.engBank (s : State) (id : Nat) (j : Job) (again : Bool) (k : Kind) (r : SpReq) (named off n : Nat) (ps : List SpPart) : EngOut :=
  match s.engSp id j named off n with
  | .wait s => .wait s
  | .refuse c => .bad (s.reached id named) c
  | .at_ core => match s.group core with
    | none => .bad (s.reached id named) .xlateNone
    | some g =>
      let stamp := s.jobStamp core id
      match s.bankStep core g (jobWaiter id stamp) again stamp k true r ps with
      | .ok s vals => .ok (s.reached id named) (ps.flatMap fun p => wordBytes (look 0 vals p.k) p.n)
      | .wait s => .wait s
      | .trap s _ _ _ _ => .bad (s.reached id named) .tag

/-- Read `n` bytes of one line for a job (R328): kind EGR in a scratchpad, a load request at a home (09 R183). -/
def State.engRead (s : State) (id : Nat) (j : Job) (again : Bool) (va n : Nat) : EngOut :=
  match s.engWhere j .read va with
  | .error c => .bad s c
  | .ok (.host a _) => .ok s ((List.range n).map fun k => s.hostByte (a + k))
  | .ok (.mem pa) => match s.engineBytes pa n with
    | .ok bs => .ok (s.served pa n) bs
    | .error c => .bad s c
  | .ok (.sp named off) => s.engBank id j again .egr .load named off n (spParts off n [])

/-- Write bytes of one line for a job (R328): kind EGW in a scratchpad, at the home after revoking registrations (09 R183). The whole
of it is performed, or none. -/
def State.engWrite (s : State) (id : Nat) (j : Job) (again : Bool) (va : Nat) (bs : List Byte) : EngOut :=
  let n := bs.length
  match s.engWhere j .write va with
  | .error c => .bad s c
  | .ok (.host a trk) => .ok (s.hostStore a n (natOfBytes bs) trk false) []
  | .ok (.mem pa) =>
    match foldM (fun (s : State) (p : SpPart) => s.engineWrite p.off p.n p.data.toNat) s (spParts pa n bs) with
    | .ok s => .ok s []
    | .error c => .bad s c
  | .ok (.sp named off) => s.engBank id j again .egw .store named off n (spParts off n bs)

/-- Read on until a buffer holds `n` bytes from an address after its first `skip`, line by line. On a wait the bytes read so far are
kept. -/
def State.engFill (fuel : Nat) (s : State) (id : Nat) (j : Job) (again : Bool) (va n skip : Nat) (buf : List Byte) :
    EngOut × List Byte :=
  match fuel with
  | 0 => (.ok s [], buf)
  | f + 1 =>
    let p := buf.length - skip
    if p ≥ n then (.ok s [], buf)
    else
      let a := (va + p) % 2 ^ 64
      let m := min (64 - a % 64) (n - p)
      match s.engRead id j again a m with
      | .ok s bs => State.engFill f s id j again va n skip (buf ++ bs)
      | r => (r, buf)

/-! ## Barrier steps (R335, R332) -/

/-- Subtract the bytes of a unit (R328, R335). -/
def barSub (n : Nat) (w : W64 × W64) : W64 × W64 :=
  let pend := barPend w.1
  if n ≤ pend then barSettle (barWord0 (pend - n) (barArr w.1), w.2)
  else
    let w1 := if bitOf w.2 63 then w.2 else w64 (fld w.2 23 0 + 8 * 2 ^ 24 + barPhase w.2 * 2 ^ 32 + 2 ^ 63)
    barSettle (barWord0 0 (barArr w.1), w1)

/-- The step of a failing job (R332). -/
def barFail (n status : Nat) (w : W64 × W64) : W64 × W64 :=
  let w1 := if bitOf w.2 63 then w.2 else w64 (fld w.2 23 0 + status * 2 ^ 24 + barPhase w.2 * 2 ^ 32 + 2 ^ 63)
  barSettle (barWord0 (barPend w.1 - n) (barArr w.1), w1)

/-- A step on a job's barrier object; none is named when `BAR` is 0. -/
def State.jobBar (s : State) (id : Nat) (j : Job) (f : W64 × W64 → W64 × W64) : Except Cause State :=
  if cardBar j.card == 0 then .ok s
  else match s.engWhere j .both (cardBar j.card) with
    | .error c => .error c
    | .ok (.host _ _) => .error .xlatePerm
    | .ok (.mem pa) => match s.barRead (.mem pa) with
      | .ok (s, w) => .ok (s.barSet (.mem pa) (f w))
      | .error c => .error c
    | .ok (.sp named off) => match s.engSp id j named off 16 with
      | .refuse c => .error c
      | .wait _ => .error .xlateNone
      | .at_ core => match s.barRead (.sp core off) with
        | .ok (s, w) => .ok ((s.barSet (.sp core off) (f w)).reached id named)
        | .error c => .error c

/-- Must a step on a job's barrier object wait: for the answer of its held request (20 R360), or for waiters that are due on a word of it (11
R224)? The state in which it waits. -/
def State.barWaits (s : State) (id : Nat) (j : Job) : Option State :=
  if cardBar j.card == 0 then none
  else match s.engWhere j .both (cardBar j.card) with
    | .ok (.sp named off) => match s.engSp id j named off 16 with
      | .wait t => some t
      | .at_ core => if s.barBusy (.sp core off) then some s else none
      | .refuse _ => none
    | _ => none

/-! ## Accepting and starting (R324, R330) -/

/-- Has the suspension of a job's gang reached its agreed tick? -/
def State.jobPaused (s : State) (j : Job) : Bool :=
  match find s.gangs j.gang with
  | some { susp := some u, .. } => u.agreed ≤ s.gtick
  | _ => false

/-- Change `JSTAT` of a job's group (R333): it stands still from a suspension's agreed tick (20 R363). -/
def State.jstat (s : State) (j : Job) (f : Group → Group) : State :=
  match s.jobGroup j with
  | some g => if s.jobPaused j then s else s.setGroup j.origin (f g)
  | none => s

/-- JOB_ACCEPT: a card is accepted when its engine's inbox and its cluster's checker have room (R330); an engine of a fenced
cluster refuses it (R339). -/
def execJobAccept (s : State) : Host.Outcome State Fault Refusal :=
  event (match s.takeMsg with
    | some (.card seq j, t) =>
      if (t.cluster j.cluster).fenced then
        t.send (.amoRep j.who none seq [0] (.trap .xlateNone (w64 (j.cluster + j.kind * 2 ^ 8))))
      else
        let box := (t.jobs.filter fun (e : Nat × Job) => e.2.engine == j.engine && e.2.inInbox).length
        let chk := (t.jobs.filter fun (e : Nat × Job) => clusterOf e.2.origin == clusterOf j.origin && e.2.open_).length
        if box ≥ 32 || chk ≥ 64 then s
        else
          let id := t.nextJob + 1
          let t := { t.setJob id { j with st := .inbox } with nextJob := id }
          (t.jstat j fun g => { g with jinfl := g.jinfl + 1 }).send (.amoRep j.who none seq [0] (.ok [(0, 0)]))
    | _ => s)

/-- The bytes that a job moves in all (R327). -/
def Job.total (j : Job) : Nat := (cardRegion j.card (if cardOp j.card == 0x11 then 0 else 3)).2

/-- The REDUCE cards of a key that are held for its set (R329). -/
def State.heldOf (s : State) (j : Job) : Map Job :=
  s.jobs.filter fun (e : Nat × Job) => e.2.engine == j.engine && e.2.dom == j.dom && cardArg e.2.card 0 == cardArg j.card 0 &&
    cardOp e.2.card == 0x20 && e.2.inSet 0

/-- Do the held cards of a key disagree, or carry one `WID` twice (R329)? -/
def mismatched (j : Job) (held : Map Job) : Bool :=
  let v (p : Job) (hi lo : Nat) : Nat := fld (cardArg p.card 1) hi lo
  let same (p : Job) : Bool := v p 6 0 == v j 6 0 && v p 13 8 == v j 13 8 && cardRegion p.card 3 == cardRegion j.card 3
  !(held.all fun (e : Nat × Job) => same e.2) ||
    (held.any fun (e : Nat × Job) => held.any fun (f : Nat × Job) => e.1 != f.1 && e.2.wid == f.2.wid)

/-- A REDUCE card is held for its set (R329): the cards of a key that disagree all fail, and a complete set is marked. -/
def State.holdCard (s : State) (id : Nat) (j : Job) : State :=
  let s := s.jobSt id j (.held 0 [] 0)
  let held := s.heldOf j
  if mismatched j held then held.foldl (fun (s : State) (e : Nat × Job) => s.jobEnd e.1 e.2 9 0) s
  else if held.length == fld (cardArg j.card 1) 6 0 then
    held.foldl (fun (s : State) (e : Nat × Job) => s.jobSt e.1 e.2 (.held id [] 0)) s
  else s

/-- JOB_START: job `selA` starts (R324). -/
def execJobStart (s : State) : Host.Outcome State Fault Refusal :=
  event (match find s.jobs s.selA with
    | some j =>
      if !s.startable s.selA j then s
      else if cardOp j.card == 0x20 then s.holdCard s.selA j
      else if j.total == 0 then s.jobEnd s.selA j 0 0
      else s.jobSt s.selA j (.running 0 [])
    | none => s)

/-! ## Units (R327, R328) -/

/-- A unit is performed: its bytes are subtracted, as soon as that step can be made, and the job goes on or ends. -/
def State.unitDone (s : State) (id : Nat) (j : Job) (done n : Nat) (buf : List Byte) : State :=
  match s.barWaits id j, s.jobBar id j (barSub n) with
  | some t, _ => t.jobSt id j (.sub done n buf)
  | none, .error c => s.jobEndBar id j c (done + n)
  | none, .ok s => if done + n ≥ j.total then s.jobEnd id j 0 (done + n) else s.jobSt id j (.running (done + n) buf)

/-- Write a unit's bytes and finish it: `left` is what the buffer keeps. -/
def State.unitWrite (s : State) (id : Nat) (j : Job) (again : Bool) (done dst : Nat) (bs buf left : List Byte) : State :=
  match s.engWrite id j again dst bs with
  | .ok s _ => s.unitDone id j done bs.length left
  | .wait s => s.jobSt id j (.running done buf)
  | .bad s c => s.jobEnd id j c.status done

/-- The bytes of a FILL unit. -/
def fillBytes (v : W64) (done n : Nat) : List Byte := (List.range n).map fun k => BitVec.ofNat 8 (v.toNat / 256 ^ ((done + k) % 8))

/-- A unit of COPY or FILL. -/
def State.unitPlain (s : State) (id : Nat) (j : Job) (again : Bool) (done : Nat) (buf : List Byte) : State :=
  let wr := cardRegion j.card 3
  let dst := (wr.1 + done) % 2 ^ 64
  let n := min (64 - dst % 64) (wr.2 - done)
  if cardOp j.card == 0x02 then s.unitWrite id j again done dst (fillBytes (cardArg j.card 0) done n) [] []
  else match s.engFill 3 id j again ((cardRegion j.card 0).1 + done) n 0 buf with
    | (.ok s _, buf) => s.unitWrite id j again done dst buf buf []
    | (.wait s, buf) => s.jobSt id j (.running done buf)
    | (.bad s c, _) => s.jobEnd id j c.status done

/-- A unit of GATHER or SCATTER: the index first, then one element or one line part of it. -/
def State.unitIndexed (s : State) (id : Nat) (j : Job) (again : Bool) (done : Nat) (buf : List Byte) : State :=
  let gather := cardOp j.card == 0x10
  let e := (cardArg j.card 0).toNat
  let rd := cardRegion j.card 0
  let wr := cardRegion j.card 3
  match s.engFill 3 id j again ((cardRegion j.card 1).1 + 4 * (done / e)) 4 0 buf with
  | (.wait s, buf) => s.jobSt id j (.running done buf)
  | (.bad s c, _) => s.jobEnd id j c.status done
  | (.ok s _, buf) =>
    let ix := natOfBytes (buf.take 4)
    if (if gather then rd.2 else wr.2) < ix * e + e then s.jobEnd id j 7 done
    else
      let off := done % e
      let dst := (if gather then wr.1 + done else wr.1 + ix * e + off) % 2 ^ 64
      let src := if gather then rd.1 + ix * e + off else rd.1 + done
      let n := min (64 - dst % 64) (e - off)
      match s.engFill 3 id j again src n 4 buf with
      | (.wait s, buf) => s.jobSt id j (.running done buf)
      | (.bad s c, _) => s.jobEnd id j c.status done
      | (.ok s _, buf) => s.unitWrite id j again done dst (buf.drop 4) buf (if off + n < e then buf.take 4 else [])

/-! ## REDUCE (R329) -/

/-- The bytes of the elements of a contribution. -/
def elemsOf (fuel n : Nat) (bs : List Byte) : List Nat :=
  match fuel with
  | 0 => []
  | f + 1 => if bs.isEmpty then [] else natOfBytes (bs.take n) :: elemsOf f n (bs.drop n)

/-- One combination step (R329): adds round RNE (06 R99). -/
def reduceStep (tag op x y : Nat) : Nat × Flg :=
  match op with
  | 0 => match tagFp tag with
    | some fp => fp.add .rne (fp.read x) (fp.read y)
    | none => ((x + y) % 2 ^ tagBits tag, 0)
  | 1 => redPick true tag x y
  | _ => redPick false tag x y

/-- Element `i` of the result, over contributions in ascending `WID`. -/
def reduceElem (tag op : Nat) (cs : List (List Nat)) (i : Nat) : Nat × Flg :=
  let r := treeFold 7 (fun _ x y => reduceStep tag op x y) 0 0 (cs.map fun l => (l[i]?).getD 0)
  (r.1.headD 0, r.2)

/-- The bytes of the result and its conditions. -/
def reduceAll (tag op : Nat) (bufs : List (List Byte)) : List Byte × Flg :=
  let n := tagBits tag / 8
  let cs := bufs.map fun b => elemsOf 4096 n b
  let es := (List.range ((bufs.headD []).length / n)).map (reduceElem tag op cs)
  (es.flatMap fun x => wordBytes (w64 x.1) n, unionOf (es.map (·.2)))

/-- The cards of a complete set, in ascending `WID`. -/
def State.setCards (s : State) (set : Nat) : List (Nat × Job) :=
  (s.jobs.filter fun (e : Nat × Job) => e.2.inSet set).foldl
    (fun l (e : Nat × Job) => insertBy (fun (f : Nat × Job) => e.2.wid.toNat < f.2.wid.toNat) l e) []

/-- Every card of a set ends. -/
def State.setEnd (s : State) (cards : List (Nat × Job)) (status : Nat) : State :=
  cards.foldl (fun (s : State) (e : Nat × Job) => s.jobEnd e.1 e.2 status 0) s

/-- The bytes read of a held card's contribution, and the bytes of `WR0` written. -/
def Job.heldBuf (j : Job) : List Byte × Nat :=
  match j.st with
  | .held _ b w => (b, w)
  | _ => ([], 0)

/-- Read the contributions that are not read yet, card by card: the state, with every buffer, or a wait, or a fault. -/
def State.readCards (s : State) (set : Nat) (again : Bool) (len : Nat) (cards : List (Nat × Job)) : EngOut :=
  match cards with
  | [] => .ok s []
  | (id, j) :: rest =>
    match s.engFill 66 id j again (cardRegion j.card 0).1 len 0 j.heldBuf.1 with
    | (.ok s _, buf) => State.readCards (s.jobSt id j (.held set buf j.heldBuf.2)) set again len rest
    | (.wait s, buf) => .wait (s.jobSt id j (.held set buf j.heldBuf.2))
    | (.bad s c, _) => .bad s c

/-- Write the result from a byte on, in units, for the card of the lowest `WID`: the state and the bytes written. -/
def State.writeResult (fuel : Nat) (s : State) (id : Nat) (j : Job) (again : Bool) (wrote : Nat) (bs : List Byte) : EngOut × Nat :=
  match fuel with
  | 0 => (.ok s [], wrote)
  | f + 1 =>
    if bs.isEmpty then (.ok s [], wrote)
    else
      let dst := ((cardRegion j.card 3).1 + wrote) % 2 ^ 64
      let n := min (64 - dst % 64) bs.length
      match s.engWrite id j again dst (bs.take n) with
      | .ok s _ => State.writeResult f s id j again (wrote + n) (bs.drop n)
      | r => (r, wrote)

/-- After the result is written, `L` is subtracted from each card's barrier, and each card completes with the conditions. -/
def State.setDone (s : State) (cards : List (Nat × Job)) (len : Nat) (f : Flg) : State :=
  cards.foldl (fun (s : State) (e : Nat × Job) => s.unitDone e.1 { e.2 with cond := f.setWidth 64 } 0 len []) s

/-- The set goes on as far as it can. -/
def State.reduceSet (s : State) (set : Nat) (again : Bool) : State :=
  let cards := s.setCards set
  match cards with
  | [] => s
  | (_, j0) :: _ =>
    let len := (cardRegion j0.card 0).2
    match s.readCards set again len cards with
    | .wait s => s
    | .bad s c => s.setEnd cards c.status
    | .ok s _ =>
      let cards := s.setCards set
      match cards with
      | [] => s
      | (id, j) :: _ =>
        let v := cardArg j.card 1
        let r := reduceAll (fld v 11 8) (fld v 13 12) (cards.map fun e => e.2.heldBuf.1)
        match s.writeResult 66 id j again j.heldBuf.2 (r.1.drop j.heldBuf.2) with
        | (.ok s _, _) => s.setDone cards len r.2
        | (.wait s, w) => s.jobSt id j (.held set j.heldBuf.1 w)
        | (.bad s c, _) => s.setEnd cards c.status

/-- REDUCE_SET_COMPLETE: the set that job `selA` completed is combined and written. -/
def execReduceSetComplete (s : State) : Host.Outcome State Fault Refusal :=
  event (if s.selA == 0 then s else s.reduceSet s.selA false)

/-- A job's next unit. -/
def State.jobUnit (s : State) (id : Nat) (again : Bool) : State :=
  match find s.jobs id with
  | none => s
  | some j => match j.st with
    | .sub done n buf => s.unitDone id j done n buf
    | .running done buf =>
      if cardOp j.card == 0x10 || cardOp j.card == 0x11 then s.unitIndexed id j again done buf else s.unitPlain id j again done buf
    | .held set _ _ => if set == 0 then s else s.reduceSet set again
    | _ => s

/-- ENGINE_UNIT: job `selA` performs one unit (R328). -/
def execEngineUnit (s : State) : Host.Outcome State Fault Refusal := event (s.jobUnit s.selA false)

/-! ## Completion (R331, R332, R333) -/

/-- The reply word of a job that has completed goes to its group's core; or none is named. -/
def State.jobReply (s : State) (id : Nat) (j : Job) (status : Nat) : State :=
  let word := w64 (cardId j.card + status * 2 ^ 32 + (if status == 0 then j.cond.toNat % 64 else 0) * 2 ^ 40)
  if fld (cardWord j.card 2) 1 0 == 1 && !j.recorded then (s.jobSt id j (.reply word)).send (.reply id) else { s with jobs := del s.jobs id }

/-- JOB_COMPLETE: job `selA` has performed and subtracted every unit. -/
def execJobComplete (s : State) : Host.Outcome State Fault Refusal :=
  event (match find s.jobs s.selA with
    | some j => match j.st with
      | .ended 0 _ _ => (s.jstat j fun g => { g with jdone := g.jdone + 1, jinfl := g.jinfl - 1 }).jobReply s.selA j 0
      | _ => s
    | none => s)

/-- ENGINE is held pending for the thread that issued the card, or for the lowest thread that has not ended (14 R266); not while
the group is suspended. DESIGN CHOICE: a card that a feed core sent has no issuing thread, and the lowest thread that has not ended gets its
ENGINE too (notes/assumptions/14.md). Unsafe: R266 does not speak of feed cores. -/
def State.pendEngine (s : State) (j : Job) : State :=
  match s.jobGroup j with
  | none => s
  | some g =>
    if s.jobPaused j then s
    else
      let live (t : Nat) : Bool := match g.threads[t]? with
        | some th => th.status != Status.ended && th.status != Status.idle
        | none => false
      let t := match j.who.issuer with
        | .thread t => if live t then some t else g.deliverTo
        | _ => g.deliverTo
      match t with
      | some t => s.pend j.origin t { cause := .engine, tval := cardWord j.card 1, srce := 0, fpc := 0, jidx := none }
      | none => s

/-- JOB_FAIL: job `selA` has failed: its last barrier step (R332), `JSTAT`, ENGINE and its reply. A step that cannot be made gives the job
its own status, and none is tried after one that could not be. -/
def execJobFail (s : State) : Host.Outcome State Fault Refusal :=
  event (match find s.jobs s.selA with
    | some j => match j.st with
      | .ended st done bar =>
        if st == 0 then s
        else if let (true, some t) := (bar, s.barWaits s.selA j) then t
        else
          let (s, st) := match if bar then s.jobBar s.selA j (barFail (j.total - done) st) else .ok s with
            | .ok s => (s, st)
            | .error c => (s, c.status)
          let s := s.jstat j fun g => { g with jdone := g.jdone + 1, jinfl := g.jinfl - 1, jlast := BitVec.ofNat 8 st }
          (s.pendEngine j).jobReply s.selA j st
      | _ => s
    | none => s)

/-- The jobs of a gang that is lost are abandoned (R332), but for those that a saved object records (20 R363). -/
def State.abandonJobs (s : State) (gang : Nat) : State :=
  s.jobs.foldl (fun (s : State) (e : Nat × Job) =>
    if e.2.gang != gang || e.2.recorded then s
    else match e.2.st with
      | .ended _ _ _ => s
      | .reply _ => { s with jobs := del s.jobs e.1 }
      | .running done _ | .sub done _ _ => s.jobEnd e.1 e.2 10 done
      | _ => s.jobEnd e.1 e.2 10 0) s

/-- REPLY_DEPOSIT: a job's reply reaches its group's core, and goes into its queue register once that has room; a group that is not resident
gets none (R331). A suspended gang's is held, or refused (20 R360). -/
def execReplyDeposit (s : State) : Host.Outcome State Fault Refusal :=
  event (match s.takeMsg with
    | some (.reply id, t) => match find t.jobs id with
      | none => t
      | some j =>
        let gone := { t with jobs := del t.jobs id }
        match j.st, t.jobGroup j, t.arrive j.origin with
        | .reply _, some _, .hold gang gidx => t.holdMsg gang gidx j.origin (.reply id)
        | .reply word, some g, .take =>
          let q := fld (cardWord j.card 2) 4 2
          if 8 ≤ (g.queue q).length then s else gone.setGroup j.origin (g.setQueue q (g.queue q ++ [word]))
        | _, _, _ => gone
    | _ => s)

/-! ## Waiters of a bank (11 R222 to R224) -/

/-- Step a requester again: an agent in its own turn, a far access or a job here. -/
def State.restep (s : State) (core : Nat) (q : Waiter) (again : Bool) : State :=
  match q with
  | .own i _ _ =>
    let w : Who := { core := core, issuer := i }
    match s.agent w with
    | some th => (if again then s.setAgent w { th with prog := { th.prog with note := 1 } } else s).now (.agent w)
    | none => s
  | .far m _ => (s.farStep m again).getD s
  | .job id _ _ => s.jobUnit id again

/-- Can a waiter's own agent step it: it can take a turn, so that the turn follows at once? -/
def State.stepsItself (s : State) (core : Nat) (q : Waiter) : Bool :=
  match q with
  | .own i _ _ => s.canRun { core := core, issuer := i }
  | _ => false

/-- WAITER_REEVALUATION: the first waiter that is due at bank `selB` of core `selA` is stepped (11 R224). An agent's own access stays due,
so that no new request on its word comes first, until the agent's turn, which follows at once, steps it. -/
def execWaiterReevaluation (s : State) : Host.Outcome State Fault Refusal :=
  let core := s.selA
  let k := s.core core
  let b := k.bank (s.selB % 3)
  event (match b.due with
    | [] => s
    | q :: rest =>
      let s := if s.stepsItself core q then s else s.setCore core (k.setBank (s.selB % 3) { b with due := rest })
      let s := if rest.isEmpty then s else s.now (.event .waiterReevaluation core (s.selB % 3))
      s.restep core q true)

/-- WAIT_QUEUE_RETRY: a requester that waits for room at bank `selB` % 3 of core `selA`, the one in place `selB` / 3, presents itself again
(11 R222). -/
def execWaitQueueRetry (s : State) : Host.Outcome State Fault Refusal :=
  event (match ((s.core s.selA).bank (s.selB % 3)).retry[s.selB / 3]? with
    | none => s
    | some q => s.restep s.selA q false)

end Sys2Proof.Machine
end

