-- ==== Sys2Proof/Machine/Place.lean ====
section
/-! DEFINITION. The state that a thread, a feed core and a group start with when the dispatch hub places a group from a
launch record (07 R109, 02 R29, 08 R135, 16 R275 to R278, 25 R409). -/

namespace Sys2Proof.Machine

/-- A vector register at placement: dead, raw (08 R135); its data cannot be read (notes/assumptions/4.md). -/
def VReg.dead : VReg := { data := 0, tag := 0, side := 0, live := false }

/-- A counter at placement: zero and stopped (25 R409); it has no last stop tick yet. -/
def Counter.init : Counter := { value := 0, start := 0, stop := none, control := 0 }

/-- A thread set that holds no thread. -/
def Thread.init : Thread :=
  { pc := 0, x := Vector.replicate 32 0, xlive := 1, v := Vector.replicate 32 VReg.dead, p := Vector.replicate 8 0,
    pstride := Vector.replicate 8 0, flags := 0, rmode := 0, amax := 0, srkey := 0, srctr := 0, cvmask := 0, vcvmask := 0,
    wid := 0, widlay := 0, tcause := 0, tval := 0, tepc := 0, kernel := false, status := .idle, wait := .none,
    issued := 0, prog := Prog.idle, pend := [], ctrs := Vector.replicate 8 Counter.init, loopTgt := none, retired := 0, stepsLeft := none }

/-- A thread as R109 starts it. -/
def Thread.placed (entry record wid widlay : W64) : Thread :=
  { Thread.init with pc := entry, x := Thread.init.x.set 3 record, xlive := 9, wid := wid, widlay := widlay, status := .running }

/-- A feed core at placement: stopped, its registers zero and live (02 R29, 07 R115). -/
def Feed.init : Feed := { th := { Thread.init with xlive := BitVec.allOnes 32 }, istore := [], run := false, flt := false }

/-- A tile at placement: zero bytes and the widest shape (16 R275, R276). -/
def Tile.init : Tile := { data := [], side := [], shape := 0x00404000 }

/-- A mailbox ring at placement: disabled (18 R340). -/
def MRing.init : MRing := { desc := 0, head := 0, tail := 0, msgs := [], waiting := [] }

/-- A group with no thread, as placement sets what the record does not name. -/
def Group.init : Group :=
  { gang := 0, gidx := 0, dom := 0, prio := 0, threads := Vector.toList (Vector.replicate 4 Thread.init), loader := Feed.init,
    storer := Feed.init, nt := 0, na := 0, tiles := Vector.replicate 8 Tile.init, accs := Vector.replicate 4 [], cpValid := false,
    cpJoin := 0, cpNops := 0, ucode := 0, spm := 0, twin := Vector.replicate 4 0, past := [], invwin := Vector.replicate 4 0, layValid := 0,
    layouts := Vector.replicate 16 0, jdone := 0, jlast := 0, jinfl := 0, tvec := 0, queues := Vector.replicate 8 [],
    rings := Vector.replicate 4 MRing.init, act := [], shadow := [], spData := [], spTags := [], spWritten := [], lastRetire := 0,
    halting := false, halted := false }

/-- A gang of one group on core 0, its start tick 0. -/
def Gang.init : Gang :=
  { home := 0, slot := 0, num := 0, cores := [0], row := false, prio := 0, dom := 0, placed := 0, start := 0, answer := 0,
    latch := [], running := [], susp := none, stolen := none }

end Sys2Proof.Machine
end

