-- ==== Sys2Proof/Machine/Sha.lean ====
section
/-! DEFINITION. SHA-512 and HMAC-SHA-512, by which continuation objects carry their digest and seal (20 R357); the spec names
the functions, and their definition is the published standard's (notes/assumptions/20.md). -/

namespace Sys2Proof.Machine

/-- Round constants 0 to 15. -/
def shaK0 : List W64 :=
  [0x428A2F98D728AE22, 0x7137449123EF65CD, 0xB5C0FBCFEC4D3B2F, 0xE9B5DBA58189DBBC,
   0x3956C25BF348B538, 0x59F111F1B605D019, 0x923F82A4AF194F9B, 0xAB1C5ED5DA6D8118,
   0xD807AA98A3030242, 0x12835B0145706FBE, 0x243185BE4EE4B28C, 0x550C7DC3D5FFB4E2,
   0x72BE5D74F27B896F, 0x80DEB1FE3B1696B1, 0x9BDC06A725C71235, 0xC19BF174CF692694]
/-- Round constants 16 to 31. -/
def shaK1 : List W64 :=
  [0xE49B69C19EF14AD2, 0xEFBE4786384F25E3, 0x0FC19DC68B8CD5B5, 0x240CA1CC77AC9C65,
   0x2DE92C6F592B0275, 0x4A7484AA6EA6E483, 0x5CB0A9DCBD41FBD4, 0x76F988DA831153B5,
   0x983E5152EE66DFAB, 0xA831C66D2DB43210, 0xB00327C898FB213F, 0xBF597FC7BEEF0EE4,
   0xC6E00BF33DA88FC2, 0xD5A79147930AA725, 0x06CA6351E003826F, 0x142929670A0E6E70]
/-- Round constants 32 to 47. -/
def shaK2 : List W64 :=
  [0x27B70A8546D22FFC, 0x2E1B21385C26C926, 0x4D2C6DFC5AC42AED, 0x53380D139D95B3DF,
   0x650A73548BAF63DE, 0x766A0ABB3C77B2A8, 0x81C2C92E47EDAEE6, 0x92722C851482353B,
   0xA2BFE8A14CF10364, 0xA81A664BBC423001, 0xC24B8B70D0F89791, 0xC76C51A30654BE30,
   0xD192E819D6EF5218, 0xD69906245565A910, 0xF40E35855771202A, 0x106AA07032BBD1B8]
/-- Round constants 48 to 63. -/
def shaK3 : List W64 :=
  [0x19A4C116B8D2D0C8, 0x1E376C085141AB53, 0x2748774CDF8EEB99, 0x34B0BCB5E19B48A8,
   0x391C0CB3C5C95A63, 0x4ED8AA4AE3418ACB, 0x5B9CCA4F7763E373, 0x682E6FF3D6B2B8A3,
   0x748F82EE5DEFB2FC, 0x78A5636F43172F60, 0x84C87814A1F0AB72, 0x8CC702081A6439EC,
   0x90BEFFFA23631E28, 0xA4506CEBDE82BDE9, 0xBEF9A3F7B2C67915, 0xC67178F2E372532B]
/-- Round constants 64 to 79. -/
def shaK4 : List W64 :=
  [0xCA273ECEEA26619C, 0xD186B8C721C0C207, 0xEADA7DD6CDE0EB1E, 0xF57D4F7FEE6ED178,
   0x06F067AA72176FBA, 0x0A637DC5A2C898A6, 0x113F9804BEF90DAE, 0x1B710B35131C471B,
   0x28DB77F523047D84, 0x32CAAB7B40C72493, 0x3C9EBE0A15C9BEBC, 0x431D67C49C100D4C,
   0x4CC5D4BECB3E42B6, 0x597F299CFC657E2A, 0x5FCB6FAB3AD6FAEC, 0x6C44198C4A475817]
/-- The eighty round constants. -/
def shaK : List W64 := shaK0 ++ shaK1 ++ shaK2 ++ shaK3 ++ shaK4

/-- The eight working words. -/
structure Sha where
  a : W64
  b : W64
  c : W64
  d : W64
  e : W64
  f : W64
  g : W64
  h : W64
  deriving DecidableEq, Repr

/-- The initial hash value. -/
def Sha.init : Sha :=
  { a := 0x6A09E667F3BCC908, b := 0xBB67AE8584CAA73B, c := 0x3C6EF372FE94F82B, d := 0xA54FF53A5F1D36F1,
    e := 0x510E527FADE682D1, f := 0x9B05688C2B3E6C1F, g := 0x1F83D9ABFB41BD6B, h := 0x5BE0CD19137E2179 }

/-- The large sigma of `a`. -/
def shaS0 (x : W64) : W64 := x.rotateRight 28 ^^^ x.rotateRight 34 ^^^ x.rotateRight 39
/-- The large sigma of `e`. -/
def shaS1 (x : W64) : W64 := x.rotateRight 14 ^^^ x.rotateRight 18 ^^^ x.rotateRight 41
/-- The small sigma of the word 15 back. -/
def shas0 (x : W64) : W64 := x.rotateRight 1 ^^^ x.rotateRight 8 ^^^ (x >>> 7)
/-- The small sigma of the word 2 back. -/
def shas1 (x : W64) : W64 := x.rotateRight 19 ^^^ x.rotateRight 61 ^^^ (x >>> 6)

/-- One round with constant `k` and schedule word `w`. -/
def Sha.round (s : Sha) (k w : W64) : Sha :=
  let t1 := s.h + shaS1 s.e + ((s.e &&& s.f) ^^^ (~~~s.e &&& s.g)) + k + w
  let t2 := shaS0 s.a + ((s.a &&& s.b) ^^^ (s.a &&& s.c) ^^^ (s.b &&& s.c))
  { a := t1 + t2, b := s.a, c := s.b, d := s.c, e := s.d + t1, f := s.e, g := s.f, h := s.g }

/-- The rounds, over the constants that remain and the next sixteen words of the schedule. -/
def Sha.rounds (s : Sha) (ks ws : List W64) : Sha :=
  match ks, ws with
  | [], _ => s
  | _ :: _, [] => s
  | k :: ks, w :: ws =>
    let at_ (j : Nat) : W64 := (ws[j]?).getD 0
    Sha.rounds (s.round k w) ks (ws ++ [shas1 (at_ 13) + at_ 8 + shas0 (at_ 0) + w])

/-- The words of a block of 128 bytes, the first byte of each the most significant. -/
def shaWords (n : Nat) (bs : List Byte) : List W64 :=
  match n with
  | 0 => []
  | k + 1 => w64 ((bs.take 8).foldl (fun acc b => acc * 256 + b.toNat) 0) :: shaWords k (bs.drop 8)

/-- One block. -/
def Sha.block (s : Sha) (bs : List Byte) : Sha :=
  let t := s.rounds shaK (shaWords 16 bs)
  { a := s.a + t.a, b := s.b + t.b, c := s.c + t.c, d := s.d + t.d, e := s.e + t.e, f := s.f + t.f, g := s.g + t.g,
    h := s.h + t.h }

/-- The blocks of a padded message. -/
def Sha.blocks (s : Sha) (n : Nat) (bs : List Byte) : Sha :=
  match n with
  | 0 => s
  | k + 1 => Sha.blocks (s.block (bs.take 128)) k (bs.drop 128)

/-- A number as `n` bytes, the most significant first. -/
def bigBytes (n v : Nat) : List Byte := (List.range n).map fun k => BitVec.ofNat 8 (v / 256 ^ (n - 1 - k))

/-- SHA-512 of a list of bytes, in output order. -/
def sha512 (bs : List Byte) : List Byte :=
  let n := bs.length
  let total := (n + 17 + 127) / 128 * 128
  let padded := bs ++ [0x80] ++ List.replicate (total - n - 17) 0 ++ bigBytes 16 (8 * n)
  let s := Sha.init.blocks (total / 128) padded
  [s.a, s.b, s.c, s.d, s.e, s.f, s.g, s.h].flatMap fun w => bigBytes 8 w.toNat

/-- HMAC-SHA-512 under a key of at most 128 bytes. -/
def hmac512 (key bs : List Byte) : List Byte :=
  let k := key ++ List.replicate (128 - key.length) 0
  sha512 ((k.map (· ^^^ 0x5C)) ++ sha512 ((k.map (· ^^^ 0x36)) ++ bs))

end Sys2Proof.Machine
end

