-- ==== Sys2Proof/Machine/Object.lean ====
section
/-! DEFINITION. Continuation objects (20 R353 to R357, R372; 25 R412): their bytes written from a group, their digest and seal,
the check of their section table, and the group that their bytes restore (R370). -/

namespace Sys2Proof.Machine

/-! ## Bytes of an object in memory (R361, R370, R183) -/

/-- The low `n` bytes of a number, little-endian. -/
def lil (n v : Nat) : List Byte := (List.range n).map fun k => BitVec.ofNat 8 (v / 256 ^ k)
/-- A field of an object. -/
def leAt (bs : List Byte) (off n : Nat) : Nat := natOfBytes ((bs.drop off).take n)
/-- Pad with zeros to a multiple of 64 (R353). -/
def pad64 (bs : List Byte) : List Byte := bs ++ List.replicate ((64 - bs.length % 64) % 64) 0

/-- Read `n` doublewords from a virtual address, each at its home as an engine reads; a failure comes with its address. -/
def State.objRead (s : State) (cs : List TlbEnt) (dom : Nat) (kernel : Bool) (va n : Nat) : Except (Cause × Nat) (List Byte) :=
  match n with
  | 0 => .ok []
  | k + 1 => match s.xlate cs dom (va % 2 ^ 64) kernel .read with
    | .error c => .error (c, s.faultAt cs dom c (va % 2 ^ 64))
    | .ok p => match s.engineRead p.pa 8 with
      | .error c => .error (c, c.at_ (va % 2 ^ 64) p.pa)
      | .ok v => match State.objRead s cs dom kernel (va + 8) k with
        | .error c => .error c
        | .ok bs => .ok (lil 8 v ++ bs)

/-- The physical ranges of a virtual range, page by page, where it translates. -/
def State.rangesOf (s : State) (cs : List TlbEnt) (dom : Nat) (kernel : Bool) (va n : Nat) : List (Nat × Nat) :=
  (List.range ((va % 65536 + n + 65535) / 65536)).filterMap fun j =>
    let a := if j == 0 then va else va / 65536 * 65536 + 65536 * j
    match s.xlate cs dom (a % 2 ^ 64) kernel .read with
    | .ok p => some (p.pa, min (va + n) (a / 65536 * 65536 + 65536) - a)
    | .error _ => none

/-- The largest object that this device can write is shorter (R372). -/
def maxObject : Nat := 2 ^ 21

/-- The whole of an object: its header, and as much as `SIZE` says. -/
def State.objBytes (s : State) (cs : List TlbEnt) (dom : Nat) (kernel : Bool) (va : Nat) : Except (Cause × Nat) (List Byte) :=
  match s.objRead cs dom kernel va 32 with
  | .error c => .error c
  | .ok h =>
    let size := leAt h 0x28 8
    if size < 256 || maxObject < size then .ok h
    else match s.objRead cs dom kernel (va + 256) ((size - 249) / 8) with
      | .error c => .error c
      | .ok b => .ok (h ++ b.take (size - 256))

/-- Write bytes of one aligned word of a page as an engine writes (09 R183), or in the host window through the page as it is tracked (24
R406). -/
def State.objPoke (s : State) (p : Phys) (n v : Nat) : Except Cause State :=
  if isHost p.pa then .ok (s.hostStore (p.pa - hostBase) n v p.trk false) else s.engineWrite p.pa n v

/-- Write bytes, a multiple of 8 of them, from an aligned virtual address upward with kernel rights (R361). -/
def State.objWrite (s : State) (dom va : Nat) (bs : List Byte) : Nat → Except Cause State
  | 0 => .ok s
  | k + 1 => match s.xlate [] dom (va % 2 ^ 64) true .write with
    | .error c => .error c
    | .ok p => match s.objPoke p 8 (natOfBytes (bs.take 8)) with
      | .error c => .error c
      | .ok s => State.objWrite s dom (va + 8) (bs.drop 8) k

/-- The place of an object's `STATE`. -/
def State.objStatePa (s : State) (cs : List TlbEnt) (dom : Nat) (kernel : Bool) (a : Acc) (va : Nat) : Except Cause Phys :=
  s.xlate cs dom ((va + 12) % 2 ^ 64) kernel a

/-- Write `STATE` with the hub's rights (R361, R365, R370). -/
def State.objState (s : State) (dom va st : Nat) : Except Cause State :=
  match s.objStatePa [] dom true .write va with
  | .error c => .error c
  | .ok pa => s.objPoke pa 4 st

/-- Change `STATE` from one value to another in one step at its home, where the object has it and that can be done (R358). -/
def State.objMark (s : State) (dom va was st : Nat) : State :=
  match s.objStatePa [] dom true .write va with
  | .error _ => s
  | .ok pa => match s.engineRead pa.pa 4 with
    | .error _ => s
    | .ok old =>
      if old != was then s
      else match s.objPoke pa 4 st with
        | .ok s => s
        | .error _ => s

/-! ## Seal (R357) -/

/-- `SEAL` of a header at an address under a domain's key. -/
def State.sealOf (s : State) (dom : Nat) (hdr : List Byte) (va : Nat) : List Byte :=
  let h := hdr.take 0x0C ++ [1, 0, 0, 0] ++ ((hdr.drop 0x10).take 0xE8)
  (hmac512 (s.domain dom).key (h ++ lil 8 va)).take 8

/-! ## Section table (R353, Table 2) -/

/-- The number of bits set below `n`. -/
def popN (n v : Nat) : Nat :=
  match n with
  | 0 => 0
  | k + 1 => v % 2 + popN k (v / 2)

/-- Offset and length of section `k`, 1 to 8. -/
def sect (h : List Byte) (k : Nat) : Nat × Nat :=
  let at_ := if k == 8 then 0xA0 else 0x60 + 8 * (k - 1)
  (leAt h at_ 4, leAt h (at_ + 4) 4)

/-- The contexts' offsets from their first: each is as long as its counts say (R355). -/
def ctxOffs (b : List Byte) (pos t : Nat) : Nat → List Nat
  | 0 => [pos]
  | n + 1 =>
    let na := leAt b (pos + 9) 1
    let x := popN 32 (leAt b (0x40 + 4 * t) 4 / 2)
    let v := popN 32 (leAt b (0x50 + 4 * t) 4)
    pos :: ctxOffs b ((pos + 512 + 32 * na + 8 * x + 48 * v + 63) / 64 * 64) (t + 1) n

/-- Do the present sections follow one another, each at the next multiple of 64? -/
def sectsFrom (off : Nat) (ss : List (Nat × Nat)) : Option Nat :=
  match ss with
  | [] => some off
  | (o, n) :: rest =>
    if n == 0 then if o == 0 then sectsFrom off rest else none
    else if o == (off + 63) / 64 * 64 then sectsFrom (o + n) rest else none

/-- Does an object's section table obey R353 and Table 2 for the header's counts? -/
def sectsOk (b : List Byte) : Bool :=
  let nthr := leAt b 0x14 1
  let tiles := leAt b 0x15 1
  let accs := leAt b 0x16 1
  let s1 := sect b 1
  let offs := ctxOffs b (s1.1 + 384) 0 nthr
  let end1 := (offs.getLast?).getD 0
  let units := popN 384 (leAt b (sect b 3).1 48)
  let msgs := (List.range 4).foldl (fun n k => n + leAt b (s1.1 + 0xBA + 16 * k) 1) 0
  let ss := (List.range 8).map fun k => sect b (k + 1)
  let len (k : Nat) : Nat := (sect b k).2
  b.length == leAt b 0x28 8 && 1 ≤ nthr && nthr ≤ 4 && tiles ≤ 8 && accs ≤ 4 &&
    len 1 == end1 - s1.1 && len 2 == 5120 * tiles + 4096 * accs && len 3 == 64 + 4352 * units &&
    (len 4 == 0 || len 4 == 2048) && len 5 == 576 && len 6 == 33408 && len 7 == 16 * leAt b 0x38 4 &&
    len 8 == 8 * msgs && sectsFrom 0x100 ss == some (leAt b 0x28 8)

/-- Is an object intact at an address (R357)? -/
def State.intact (s : State) (b : List Byte) (va : Nat) : Bool :=
  sectsOk b && sha512 (b.drop 256) == (b.drop 0xB8).take 64 && s.sealOf (leAt b 0x10 1) b va == (b.drop 0xF8).take 8

/-! ## A group as bytes (R354, R355, Table 2) -/

/-- Doublewords as bytes. -/
def words8 (ws : List W64) : List Byte := ws.flatMap fun w => lil 8 w.toNat

/-- The threads of a group that hold or held a thread. -/
def Group.nthr (g : Group) : Nat := (g.threads.filter fun th : Thread => th.status != Status.idle).length

/-- The group block (Table 3); `JSTAT.INFL` is saved as 0 (R363). -/
def Group.block (g : Group) : List Byte :=
  let v4 (v : Vector W64 4) : List W64 := v.toList
  words8 (g.tiles.toList.map (·.shape)) ++ words8 [w64 g.spm] ++ words8 (v4 g.twin) ++ words8 (v4 g.invwin) ++
    words8 [g.cpctl, g.ucode, g.layValid.setWidth 64, g.jstat &&& ~~~(0x7F : W64), g.tvec] ++
    (g.rings.toList.flatMap fun r : MRing => lil 8 r.desc.toNat ++ lil 8 (r.head + r.tail * 2 ^ 8 + r.msgs.length * 2 ^ 16)) ++
    words8 [g.feedctl, 0] ++ words8 ((List.range 16).map fun k => if g.layValid.getLsbD k then vget 0 g.layouts k else 0)

/-- An asynchronous record (R355): a pending cause, or a refused entry. -/
structure ARec where
  cause    : Cause
  sz       : Nat
  reason   : Nat
  code     : Nat
  reported : Bool
  tval     : W64
  addr     : W64
  data     : W64
  deriving DecidableEq, Repr

/-- The record of a refused entry. -/
def JEnt.record (reported : Bool) (e : JEnt) : ARec :=
  let rc := match e.state with
    | .refused r c | .reported r c => (r, c)
    | .out | .late => (0, 0)
  match e.refusedPiece with
  | some p => { cause := .storeRefused, sz := widthCode p.n, reason := rc.1, code := rc.2, reported := reported, tval := e.tval,
                addr := p.addr, data := p.data }
  | none => { cause := .storeRefused, sz := 0, reason := rc.1, code := rc.2, reported := reported, tval := e.tval, addr := 0, data := 0 }

/-- The records of a thread set: entries whose refusal it has taken, and then what is pending, oldest first (R364). DESIGN CHOICE: of more than the 36
that R355 allows, the last ones are lost, so that what was reported and the oldest causes stay; no rule says which (notes/assumptions/17.md).
Unsafe: hardware may lose others. -/
def Core.records (k : Core) (t : Nat) (th : Thread) : List ARec :=
  let old := (k.jrnl.filter fun e => e.isReported && e.owner == .thread t && !th.pend.any fun a => a.jidx == some e.idx).map (JEnt.record true)
  let pend := th.pend.map fun a => match a.jidx.bind k.jent with
    | some e => e.record false
    | none => { cause := a.cause, sz := 0, reason := 0, code := 0, reported := false, tval := a.tval, addr := 0, data := 0 }
  (old ++ pend).take 36

/-- The bytes of a record. -/
def ARec.bytes (r : ARec) : List Byte :=
  lil 8 (r.cause.code + r.sz * 2 ^ 8 + r.reason * 2 ^ 16 + r.code * 2 ^ 24 + natOf r.reported * 2 ^ 32) ++ words8 [r.tval, r.addr, r.data]

/-- The live scalar registers of a thread as `LIVEX` (R353); an ended thread has none. -/
def Thread.liveXs (th : Thread) : Nat := if th.status == Status.ended then 1 else (th.xlive ||| 1).toNat
/-- The live vector registers as `LIVEV`. -/
def Thread.liveVs (th : Thread) : Nat :=
  if th.status == Status.ended then 0
  else (List.range 32).foldl (fun m j => m + natOf (vget VReg.dead th.v j).live * 2 ^ j) 0

/-- A thread context (R355); `rw` is set in the context of a `co.suspend`'s issuer, whose PC is the next instruction's (R368). -/
def Thread.context (th : Thread) (t : Nat) (recs : List ARec) (rw : Option Reg) : List Byte :=
  let ts := natOf th.kernel + natOf (th.status == Status.ended) * 2 + t * 4 + recs.length * 2 ^ 8 +
    (match rw with
      | some d => d.toNat * 2 ^ 16 + 2 ^ 21
      | none => 0)
  let pc := if rw.isSome then th.pc + 8 else th.pc
  let fixed := words8 ([pc, w64 ts, th.flags, th.rmode, th.amax, th.srkey, th.srctr, th.cvmask, th.vcvmask, th.tcause, th.tval,
      th.tepc] ++ (List.range 8).map th.strideOf ++ th.p.toList.map (fun p : BitVec 21 => p.setWidth 64) ++
      th.ctrs.toList.map (·.value) ++ th.ctrs.toList.map (·.start) ++ th.ctrs.toList.map (·.control)) ++ List.replicate 96 0
  let xs := words8 (((List.range 32).filter fun j => j != 0 && th.liveXs / 2 ^ j % 2 == 1).map fun j => vget 0 th.x j)
  let vs := ((List.range 32).filter fun j => th.liveVs / 2 ^ j % 2 == 1).flatMap fun j =>
    let r := vget VReg.dead th.v j
    lil 32 r.data.toNat ++ lil 8 r.side.toNat ++ lil 8 r.tag.toNat
  pad64 (fixed ++ recs.flatMap ARec.bytes ++ xs ++ vs)

/-- Section 2: tiles and accumulators. -/
def Group.arrays (g : Group) : List Byte :=
  ((List.range g.nt).flatMap fun j =>
    let t := vget Tile.init g.tiles j
    bytesAt t.data 0 4096 ++ bytesAt t.side 0 1024) ++
  (List.range g.na).flatMap fun j =>
    let a := vget [] g.accs j
    (List.range 1024).flatMap fun k => lil 4 (look 0 a k).toNat

/-- Section 3: the scratchpad units that have been written. -/
def Group.units (g : Group) : List Byte :=
  let us := (List.range 384).filter fun u => g.spWritten.contains u
  lil 64 (us.foldl (fun m u => m + 2 ^ u) 0) ++ us.flatMap fun u =>
    bytesAt g.spData (4096 * u) 4096 ++
      (List.range 256).map fun k => BitVec.ofNat 8 (g.tagOf (512 * u + 2 * k) + 16 * g.tagOf (512 * u + 2 * k + 1))

/-- Section 4: the action tables, absent when every entry is zero. -/
def Group.tables (g : Group) : List Byte :=
  if g.act.isEmpty && g.shadow.isEmpty then []
  else (List.range 512).flatMap (fun j => lil 2 (look 0 g.act j).toNat) ++ (List.range 512).flatMap fun j => lil 2 (look 0 g.shadow j).toNat

/-- Section 5: the queue registers. -/
def Group.queueBytes (g : Group) : List Byte :=
  (List.range 8).flatMap fun q =>
    let es := g.queue q
    words8 (w64 es.length :: es ++ List.replicate (8 - es.length) 0)

/-- A feed core of section 6. -/
def Feed.bytes (f : Feed) : List Byte :=
  words8 [w64 (f.th.pc.toNat % 2 ^ 14), w64 (natOf f.flt + natOf f.run * 2)] ++ List.replicate 48 0 ++ words8 f.th.x.toList ++ bytesAt f.istore 0 16384

/-- Section 7: the jobs that go on (R363). -/
def jobBytes (js : List Job) : List Byte :=
  js.flatMap fun j => lil 4 (cardId j.card) ++ lil 2 (j.cluster + j.kind * 2 ^ 8) ++ lil 2 0 ++ lil 8 (cardBar j.card)

/-- Section 8: the messages that the rings hold. -/
def Group.ringBytes (g : Group) : List Byte :=
  (List.range 4).flatMap fun r => (g.ring r).msgs.flatMap fun m =>
    lil 1 r ++ lil 1 m.slot ++ lil 1 m.nw ++ lil 1 0 ++ lil 2 m.sender ++ lil 2 0

/-- Lay sections out from an offset: the table and the bytes. -/
def laySects (off : Nat) (ss : List (List Byte)) : List (Nat × Nat) × List Byte :=
  match ss with
  | [] => ([], [])
  | b :: rest =>
    if b.isEmpty then
      let r := laySects off rest
      ((0, 0) :: r.1, r.2)
    else
      let o := (off + 63) / 64 * 64
      let r := laySects (o + b.length) rest
      ((o, b.length) :: r.1, List.replicate (o - off) 0 ++ b ++ r.2)

/-- What a save names beside the group (R359, R361, R368). -/
structure SaveInfo where
  why    : Nat
  hub    : Bool
  row    : Bool
  gsize  : Nat
  stride : W64
  tick   : Nat
  rw     : Option (Nat × Reg)
  deriving DecidableEq, Repr

/-- The body and the header, but for `SEAL`, of a group on a core (R361 items 5 and 6). -/
def State.objOf (s : State) (core : Nat) (g : Group) (jobs : List Job) (i : SaveInfo) : List Byte × List Byte :=
  let k := s.core core
  let n := g.nthr
  let ths := (List.range n).map fun t => (t, (g.threads[t]?).getD Thread.init)
  let ctx (e : Nat × Thread) : List Byte := e.2.context e.1 (k.records e.1 e.2) (match i.rw with
    | some (t, d) => if t == e.1 then some d else none
    | none => none)
  let (tab, body) := laySects 256 [g.block ++ ths.flatMap ctx, g.arrays, g.units, g.tables, g.queueBytes,
    g.loader.bytes ++ g.storer.bytes, jobBytes jobs, g.ringBytes]
  let per (f : Thread → Nat) : List Byte := (List.range 4).flatMap fun t => lil 4 (if t < n then f ((g.threads[t]?).getD Thread.init) else 0)
  let tb (j : Nat) : List Byte := match tab[j]? with
    | some (o, l) => lil 4 o ++ lil 4 l
    | none => lil 8 0
  let th0 := (g.threads[0]?).getD Thread.init
  let hdr := lil 4 0x5956434F ++ lil 2 1 ++ lil 2 0 ++ lil 2 1 ++ lil 2 (i.why + natOf i.hub * 4 + natOf i.row * 16) ++ lil 4 0 ++
    lil 1 g.dom ++ lil 1 g.prio ++ lil 1 i.gsize ++ lil 1 g.gidx ++ lil 1 n ++ lil 1 g.nt ++ lil 1 g.na ++ lil 1 g.spm ++
    lil 8 th0.wid.toNat ++ lil 8 th0.widlay.toNat ++ lil 8 (256 + body.length) ++ lil 8 i.stride.toNat ++ lil 4 jobs.length ++ lil 4 0 ++
    per Thread.liveXs ++ per Thread.liveVs ++ ((List.range 7).flatMap tb) ++ lil 8 i.tick ++ tb 7 ++ lil 16 0 ++ sha512 body
  (body, hdr)

/-- The bound of `co.stat` (R372). -/
def Group.bound (g : Group) : Nat :=
  256 + 384 + 3456 * g.nthr + 5120 * g.nt + 4096 * g.na + 64 + 4352 * 16 * g.spm + 2048 + 576 + 33408 + 1024 + 2048

/-! ## A group from bytes (R370) -/

/-- The cause with a code (14 Table 1). -/
def causeOf (n : Nat) : Option Cause :=
  [.illLen, .illClass, .illOp, .illField, .straddle, .priv, .format, .align, .xlateNone, .xlatePerm, .cow, .tag, .storeRefused,
    .ownerLost, .deadRead, .fp, .coNotLive, .coSeal, .coVersion, .queue, .rot, .brk, .saveLost, .ecc, .engine, .sysTrap].find? fun c =>
      Cause.code c == n

/-- An asynchronous record of a context. -/
def recAt (b : List Byte) (o : Nat) : Option ARec :=
  (causeOf (leAt b o 1)).map fun c =>
    { cause := c, sz := leAt b (o + 1) 1, reason := leAt b (o + 2) 1, code := leAt b (o + 3) 1, reported := leAt b (o + 4) 1 == 1,
      tval := w64 (leAt b (o + 8) 8), addr := w64 (leAt b (o + 16) 8), data := w64 (leAt b (o + 24) 8) }

/-- A counter at the resume: one that runs notes the switch (25 R411). Its last stop tick is not saved (R413). -/
def Counter.resumed (c : Counter) : Counter :=
  if !bitOf c.control 8 then c
  else
    let n := min (fld c.control 63 32 + 1) (2 ^ 32 - 1)
    { c with control := w64 (fld c.control 31 0 + n * 2 ^ 32) ||| 0x200 }

/-- The scalar registers of a context, from offset `o`: the live ones in ascending order. -/
def loadXs (b : List Byte) (live o j : Nat) : Nat → List W64
  | 0 => []
  | n + 1 =>
    if j != 0 && live / 2 ^ j % 2 == 1 then w64 (leAt b o 8) :: loadXs b live (o + 8) (j + 1) n
    else 0 :: loadXs b live o (j + 1) n

/-- The vector registers of a context. -/
def loadVs (b : List Byte) (live o j : Nat) : Nat → List VReg
  | 0 => []
  | n + 1 =>
    if live / 2 ^ j % 2 == 1 then
      { data := BitVec.ofNat 256 (leAt b o 32), tag := BitVec.ofNat 4 (leAt b (o + 40) 1), side := w64 (leAt b (o + 32) 8), live := true } ::
        loadVs b live (o + 48) (j + 1) n
    else VReg.dead :: loadVs b live o (j + 1) n

/-- A vector of a list's elements. -/
def vec {α : Type} {n : Nat} (dflt : α) (l : List α) : Vector α n :=
  (List.range n).foldl (fun v j => vset v j ((l[j]?).getD dflt)) (Vector.replicate n dflt)

/-- A thread from its context at offset `o`, in the object at `va`, with its asynchronous records. -/
def loadThread (b : List Byte) (va o t : Nat) : Thread × List ARec :=
  let q (j : Nat) : W64 := w64 (leAt b (o + 8 * j) 8)
  let ts := leAt b (o + 8) 8
  let na := bitsOf ts 15 8
  let lx := leAt b (0x40 + 4 * t) 4
  let lv := leAt b (0x50 + 4 * t) 4
  let xo := o + 512 + 32 * na
  let recs := (List.range na).filterMap fun k => recAt b (o + 512 + 32 * k)
  let ctr (j : Nat) : Counter := ({ value := q (28 + j), start := q (36 + j), stop := none, control := keep [(63, 32), (10, 0)] (q (44 + j)) } : Counter).resumed
  let th : Thread := { Thread.init with
    pc := q 0 &&& ~~~(3 : W64), x := vec 0 (loadXs b lx xo 0 32), xlive := BitVec.ofNat 32 lx ||| 1,
    v := vec VReg.dead (loadVs b lv (xo + 8 * popN 32 (lx / 2)) 0 32),
    flags := ctlBits 0x000 (q 2), rmode := ctlBits 0x001 (q 3), amax := ctlBits 0x002 (q 4), srkey := q 5, srctr := q 6,
    cvmask := ctlBits 0x005 (q 7), vcvmask := q 8, tcause := ctlBits 0x041 (q 9), tval := q 10,
    tepc := q 11, pstride := vec 0 ((List.range 8).map fun j => (q (12 + j)).setWidth 22),
    p := vec 0 ((List.range 8).map fun j => (q (20 + j)).setWidth 21),
    kernel := bitsOf ts 0 0 == 1, status := if bitsOf ts 1 1 == 1 then Status.ended else Status.running,
    ctrs := vec Counter.init ((List.range 8).map ctr),
    wid := w64 (leAt b 0x18 8 + t), widlay := ctlBits 0x011 (w64 (leAt b 0x20 8)) }
  (if bitsOf ts 21 21 == 1 then th.wx (BitVec.ofNat 5 (bitsOf ts 20 16)) (w64 va) else th, recs)

/-- Bytes of an object as a memory from address 0. -/
def memOf (b : List Byte) (o n : Nat) : Memory := putBytes [] 0 ((b.drop o).take n)

/-- The tiles and accumulators of section 2. -/
def Group.loadArrays (g : Group) (b : List Byte) : Group :=
  let o := (sect b 2).1
  let tile (j : Nat) : Tile :=
    let t := vget Tile.init g.tiles j
    if j < g.nt then { t with data := memOf b (o + 5120 * j) 4096, side := memOf b (o + 5120 * j + 4096) 1024 } else t
  let acc (j : Nat) : Map (BitVec 32) :=
    if j < g.na then
      (List.range 1024).foldl (fun m k => put 0 m k (BitVec.ofNat 32 (leAt b (o + 5120 * g.nt + 4096 * j + 4 * k) 4))) []
    else []
  { g with tiles := vec Tile.init ((List.range 8).map tile), accs := vec [] ((List.range 4).map acc) }

/-- A saved unit of section 3 at offset `o`. -/
def Group.loadUnit (g : Group) (b : List Byte) (o u : Nat) : Group :=
  let tags := (List.range 512).foldl (fun m w =>
    put 0 m (512 * u + w) (BitVec.ofNat 4 (leAt b (o + 4096 + w / 2) 1 / 16 ^ (w % 2)))) g.spTags
  { g with spData := putBytes g.spData (4096 * u) ((b.drop o).take 4096), spTags := tags, spWritten := g.spWritten ++ [u] }

/-- The scratchpad of section 3; units that were not saved are zero. -/
def Group.loadUnits (g : Group) (b : List Byte) : Group :=
  let o := (sect b 3).1
  let m := leAt b o 48
  let us := (List.range 384).filter fun u => m / 2 ^ u % 2 == 1 && u < 16 * g.spm
  (us.zip (List.range us.length)).foldl (fun (g : Group) (e : Nat × Nat) => g.loadUnit b (o + 64 + 4352 * e.2) e.1) g

/-- A feed core of section 6 at offset `o`. Section 6 and the group block's `FEEDCTL` (R354, offset 0x0F0) both give a feed core's PC and
standing, and an object that was edited and resealed may give them differently; the spec names no precedence. DESIGN CHOICE: section 6
counts, and offset 0x0F0 is not read (notes/assumptions/17.md). Unsafe: hardware may take the other. -/
def loadFeed (b : List Byte) (o : Nat) : Feed :=
  let st := leAt b (o + 8) 8
  { th := { Feed.init.th with pc := w64 (leAt b o 8 % 2 ^ 14 / 4 * 4), x := vec 0 ((List.range 32).map fun j => w64 (leAt b (o + 64 + 8 * j) 8)) },
    istore := memOf b (o + 320) 16384, run := bitsOf st 1 1 == 1, flt := bitsOf st 0 0 == 1 }

/-- The messages of ring `r` in section 8. -/
def loadRing (b : List Byte) (r : Nat) : MRing :=
  let o := (sect b 1).1 + 0xB0 + 16 * r
  let s8 := sect b 8
  let at_ (k : Nat) : Nat := s8.1 + 8 * k
  let ms := ((List.range (s8.2 / 8)).filter fun k => leAt b (at_ k) 1 == r).map fun k =>
    ({ slot := leAt b (at_ k + 1) 1, nw := leAt b (at_ k + 2) 1, sender := leAt b (at_ k + 4) 2 } : RingMsg)
  { desc := keep [(30, 24), (20, 6)] (w64 (leAt b o 8)), head := leAt b (o + 8) 1, tail := leAt b (o + 9) 1, msgs := ms, waiting := [] }

/-- The group of an object at `va`, with the records of each thread set (R370). -/
def loadGroup (b : List Byte) (va : Nat) : Group × List (List ARec) :=
  let o := (sect b 1).1
  let q (off : Nat) : W64 := w64 (leAt b (o + off) 8)
  let qs (off n : Nat) : List W64 := (List.range n).map fun j => q (off + 8 * j)
  let n := leAt b 0x14 1
  let offs := ctxOffs b (o + 384) 0 n
  let ths := (List.range 4).map fun t => if t < n then loadThread b va ((offs[t]?).getD 0) t else (Thread.init, [])
  let cp := q 0x88
  let js := q 0xA0
  let s4 := sect b 4
  let table (k : Nat) : Map (BitVec 16) :=
    if s4.2 == 0 then [] else (List.range 512).foldl (fun m j => put 0 m j (BitVec.ofNat 16 (leAt b (s4.1 + 1024 * k + 2 * j) 2 % 2 ^ 12))) []
  let s5 := (sect b 5).1
  let queue (k : Nat) : List W64 := (List.range (min 8 (leAt b (s5 + 72 * k) 8))).map fun j => w64 (leAt b (s5 + 72 * k + 8 + 8 * j) 8)
  let s6 := (sect b 6).1
  let g : Group := { Group.init with
    gidx := leAt b 0x13 1, dom := leAt b 0x10 1, prio := leAt b 0x11 1, threads := ths.map (·.1),
    loader := loadFeed b s6, storer := loadFeed b (s6 + 16704), nt := leAt b 0x15 1, na := leAt b 0x16 1,
    tiles := vec Tile.init ((qs 0 8).map fun v => { Tile.init with shape := ctlBits 0x018 v }),
    cpValid := bitOf cp 4, cpJoin := BitVec.ofNat 2 (fld cp 3 2), cpNops := BitVec.ofNat 2 (fld cp 1 0), ucode := q 0x90,
    spm := leAt b (o + 0x40) 1 % 32, twin := vec 0 ((qs 0x48 4).map (ctlBits 0x022)), invwin := vec 0 ((qs 0x68 4).map (ctlBits 0x026)), layValid := (q 0x98).setWidth 16,
    layouts := vec 0 (qs 0x100 16), jdone := BitVec.ofNat 32 (fld js 63 32), jlast := BitVec.ofNat 8 (fld js 31 24), jinfl := 0,
    tvec := ctlBits 0x040 (q 0xA8), rings := vec MRing.init ((List.range 4).map (loadRing b)), act := table 0, shadow := table 1,
    queues := vec [] ((List.range 8).map queue) }
  ((g.loadArrays b).loadUnits b, ths.map (·.2))

end Sys2Proof.Machine
end

