-- ==== Sys2Proof/Machine/Cont.lean ====
section
/-! DEFINITION. CONT (20 R367 to R373): `co.suspend`, `co.resume`, `co.seal`, `co.discard` and `co.stat`, and the resume that a
`task.post` of a record with `CO` ≠ 0 makes. -/

namespace Sys2Proof.Machine

/-- An object's address (R367): aligned to 64 bytes, and global. -/
def coAddr (s : State) (va : Nat) : Do Unit :=
  if va % 64 != 0 then raise s .align (w64 va)
  else if regionOf va != .global then raise s .xlateNone (w64 va)
  else .ok ()

/-- A cause that a CONT instruction's own translation raises: the translation leaves the core's cache before the fault is delivered (13
R249, R250). -/
def coFault {α : Type} (s : State) (dom : Nat) (c : Cause) (va : Nat) : Do α := raise (s.forget s.cur.core dom va) c (w64 va)

/-- Such a cause at a virtual address. -/
def coWalk {α : Type} (s : State) (dom : Nat) (c : Cause) (va : Nat) : Do α :=
  coFault s dom c (s.faultAt (s.coreCaches s.cur.core) dom c va)

/-- The instruction reads or writes bytes at the home: it waits for the stores of its own thread that reach them (10 R193, 09 R173), and a
watchpoint on them raises BRK (25 R419). -/
def coTouch (s : State) (g : Group) (th : Thread) (load store : Bool) (va n : Nat) : Do Unit := do
  let rs := s.rangesOf (s.coreCaches s.cur.core) g.dom th.kernel va n
  waitJournal s s.cur (fun q => rs.any fun r => q.overlaps (none, r.1) r.2) .memory
  match s.watched s.cur load store [{ ea := va, n := n, align := 1, data := 0 }] with
  | some x => raise s .brk (w64 (x + 2 ^ 63))
  | none => .ok ()

/-- A CO cause with its reason (R367). -/
def coTrap {α : Type} (s : State) (c : Cause) (va reason : Nat) : Do α := raise s c (w64 (va ||| reason))

/-- The check of R356. -/
def checkVersion (s : State) (h : List Byte) (va : Nat) : Do Unit :=
  if leAt h 0 4 != 0x5956434F then coTrap s .coVersion va 1
  else if leAt h 4 2 != 1 then coTrap s .coVersion va 2
  else if leAt h 6 2 != 0 then coTrap s .coVersion va 3
  else if leAt h 8 2 != 1 then coTrap s .coVersion va 4
  else .ok ()

/-- The checks of a header of a resume (R369 item 2): of group `n`'s object, beside that of group 0. -/
def checkHeader (s : State) (dom : Nat) (h0 h : List Byte) (n va : Nat) : Do Unit := do
  checkVersion s h va
  let gsize := leAt h 0x12 1
  if bitsOf (leAt h 0x0A 2) 2 2 == 1 then coTrap s .coNotLive va 6
  else if gsize == 0 || 8 < gsize || leAt h 0x13 1 != n || leAt h 0x12 1 != leAt h0 0x12 1 || leAt h 0x10 1 != leAt h0 0x10 1 ||
      leAt h 0x30 8 != leAt h0 0x30 8 then coTrap s .coNotLive va 7
  else if leAt h 0x10 1 != dom then coTrap s .coSeal va 2
  else .ok ()

/-! ## Loads of several places -/

/-- Weak doubleword loads of addresses, in order; what is bound is kept while one of them waits. -/
def loadAll (s : State) (addrs : List Nat) : Do (State × List W64) := do
  let th ← getMe s
  let q := th.prog
  match q.reply with
  | some (.trap c v) => raise s c v
  | _ =>
    let (seq, s) := if q.seq == 0 then s.fresh else (q.seq, s)
    let (s, got) ← loadEach s seq q.asked (q.note == 1) q.got 0
      (addrs.map fun a => ({ ea := a % 2 ^ 64, n := 8, align := 8, data := 0 } : Run))
    .ok (s, (List.range addrs.length).map fun j => look 0 got j)

/-- The addresses of `n` doublewords. -/
def dwords (va n : Nat) : List Nat := (List.range n).map fun j => (va + 8 * j) % 2 ^ 64

/-- Read and check the headers of groups `n` upward, after the words at `pre` have been read. -/
def loadHeaders (s : State) (dom : Nat) (h0 : List Byte) (a stride n : Nat) (pre : List Nat) : Nat → Do (State × List Nat)
  | 0 => .ok (s, pre)
  | k + 1 => do
    let va := (a + n * stride) % 2 ^ 64
    coAddr s va
    let (s, ws) ← loadAll s (pre ++ dwords va 32)
    checkHeader s dom h0 (words8 (ws.drop pre.length)) n va
    loadHeaders s dom h0 a stride (n + 1) (pre ++ dwords va 32) k

/-! ## `co.resume` (R369) -/

/-- The record of the launch that a resume forms: from `rec` its priority, masks, quarters and affinity, from the object the rest. -/
def resumeRecord (h : List Byte) (die : Nat) (rec : Option (List W64)) : List W64 :=
  let r (j : Nat) (dflt : W64) : W64 := match rec with
    | some ws => (ws[j]?).getD 0
    | none => dflt
  let lay := leAt h 0x20 8
  let base := leAt h 0x18 8 / 2 ^ (bitsOf lay 1 0 + bitsOf lay 3 2) * 2 ^ (bitsOf lay 1 0 + bitsOf lay 3 2)
  let cfg := lay % 2 ^ 32 + leAt h 0x17 1 * 64 * 2 ^ 32 + (leAt h 0x12 1 - 1) * 2 ^ 43 + (leAt h 0x14 1 - 1) * 2 ^ 46 +
    bitsOf (leAt h 0x0A 2) 4 4 * 2 ^ 48 + (match rec with
      | some ws => fld ((ws[2]?).getD 0) 53 49
      | none => leAt h 0x11 1) * 2 ^ 49 + leAt h 0x15 1 * 2 ^ 54 + leAt h 0x16 1 * 2 ^ 58 + fld (r 2 0) 63 61 * 2 ^ 61
  [r 0 0, w64 base, w64 cfg, r 3 (w64 (1 + die * 8 * 2 ^ 52)), r 4 0, r 5 0, r 6 0, 0]

/-- Change `STATE` of an object from LIVE in one step at its home; otherwise the state that was found. -/
def State.coSwap (s : State) (pa : Phys) (dest : Nat) : Except Cause (State × Option Nat) :=
  match s.engineRead pa.pa 4 with
  | .error c => .error c
  | .ok st =>
    if st != 1 then .ok (s, some st)
    else match s.objPoke pa 4 dest with
      | .ok s => .ok (s, none)
      | .error c => .error c

/-- Is the instruction in progress a `task.post`? A replay takes it from its log (25 R422). -/
def State.posting (s : State) : Bool :=
  s.me.any fun th => th.prog.inst.any fun i => match i with
    | .taskPost _ _ => true
    | _ => false

/-- A change of `STATE` that an instruction has made, which a replay makes again (25 R422), but not one of the host window. -/
def State.noteSwap (s : State) (pa was now : Nat) : State :=
  if isHost pa || s.posting then s else s.noteRedo s.cur pa 4 (w64 now) (.swap was)

/-- Bytes, a multiple of 8 of them, that an instruction has written at an aligned virtual address upward, which a replay writes again. -/
def State.noteBytes (s : State) (dom va : Nat) (bs : List Byte) : Nat → State
  | 0 => s
  | k + 1 =>
    let s := match s.xlate [] dom (va % 2 ^ 64) true .write with
      | .ok p => if isHost p.pa then s else s.noteRedo s.cur p.pa 8 (w64 (natOfBytes (bs.take 8))) .store
      | .error _ => s
    State.noteBytes s dom (va + 8) (bs.drop 8) k

/-- Change each object in order; at the first failure the changed ones are LIVE again. -/
def swapAll (s0 s : State) (ps : List (Nat × Phys)) : Do State :=
  match ps with
  | [] => .ok s
  | (va, pa) :: rest => match s.coSwap pa 2 with
    | .error c => raise s0 c (w64 (va + 12))
    | .ok (_, some st) => coTrap s0 .coNotLive va (st % 64)
    | .ok (s, none) => swapAll s0 s rest

/-- The accesses of a resume to each object, at its home: it waits for what its own thread has stored there, and its change of `STATE` may
touch a watched byte. -/
def touchAll (s : State) (g : Group) (th : Thread) (vas : List Nat) (size : Nat → Nat) : Do Unit :=
  match vas with
  | [] => .ok ()
  | va :: rest => do
    coTouch s g th false false va (size va)
    coTouch s g th true true (va + 12) 4
    touchAll s g th rest size

/-- The first object that is not intact (item 5). -/
def firstBad (s : State) (cs : List TlbEnt) (dom : Nat) (kernel : Bool) (vas : List Nat) : Option Nat :=
  vas.find? fun va => match s.objBytes cs dom kernel va with
    | .ok b => !s.intact b va
    | .error _ => true

/-- The instruction has posted, and keeps the objects' addresses while it waits for the answer. -/
def postAndWait (s : State) (p : Who → Nat → Post) (objs : List Nat) : Do State := do
  let th ← getMe s
  let (seq, s) := s.fresh
  let s := s.setMe { th with wait := .sync, prog := { th.prog with
    seq := seq, asked := [0], got := (List.range objs.length).map (fun j => (j + 1, w64 ((objs[j]?).getD 0))), reply := none,
    stage := 3, note := 0 } }
  .error (.wait (s.send (.record (p s.cur seq))))

/-- The answer of a post: on a refusal the objects are LIVE again. -/
def postAnswer (s : State) (d : Reg) : Do State := do
  let th ← getMe s
  let g ← getGroup s
  match find th.prog.got 0 with
  | none => .error (.wait (s.setMe { th with wait := .sync }))
  | some v =>
    let objs := (th.prog.got.filter fun e => e.1 != 0).map (·.2.toNat)
    let s := if fld v 7 0 == 0 then s else objs.foldl (fun (s : State) va => match s.objStatePa [] g.dom true .write va with
      | .ok pa => match s.objPoke pa 4 1 with
        | .ok s => s.noteSwap pa.pa 2 1
        | .error _ => s
      | .error _ => s) s
    .ok (s.retireX d v 8)

/-- Items 4 to 6, once headers and record are read. -/
def resumeObjs (s : State) (g : Group) (th : Thread) (h0 : List Byte) (vas : List Nat) (rec : Option (List W64)) (addr : Nat) :
    Do State :=
  let cs := s.coreCaches s.cur.core
  match mapE (fun va => match s.objStatePa cs g.dom th.kernel .both va with
      | .ok pa => .ok (va, pa)
      | .error c => .error (c, va + 12)) vas with
  | .error (c, x) => coWalk s g.dom c x
  | .ok ps => do
    touchAll s g th vas fun va => match s.objRead cs g.dom th.kernel va 32 with
      | .ok h => min (leAt h 0x28 8) maxObject
      | .error _ => 256
    let t ← swapAll s s ps
    match firstBad t cs g.dom th.kernel vas with
    | some va => coTrap s .coSeal va 1
    | none =>
      let t := ps.foldl (fun (t : State) (e : Nat × Phys) => t.noteSwap e.2.pa 1 2) (t.acquire t.cur.core .acq .sys)
      let die := match rec with
        | some ws => fld ((ws[3]?).getD 0) 57 55
        | none => dieOf s.cur.core
      postAndWait t (fun w seq =>
        { who := some (w, seq), bell := none, die := die, dom := g.dom, addr := w64 addr, words := resumeRecord h0 die rec,
          objs := vas.map w64 }) vas

/-- The objects of the gang whose group 0 object is at `a`, read and checked; then items 4 to 7. The words at `pre` are read first,
and the record at `rb` last. -/
def resumeFrom (s : State) (a : Nat) (pre : List Nat) (rec : Option (List W64)) (rb : Nat) : Do State := do
  let th ← getMe s
  let g ← getGroup s
  coAddr s a
  let (s, ws) ← loadAll s (pre ++ dwords a 32)
  let h0 := words8 (ws.drop pre.length)
  checkHeader s g.dom h0 h0 0 a
  let n := leAt h0 0x12 1
  let stride := leAt h0 0x30 8
  let (s, pre) ← loadHeaders s g.dom h0 a stride 1 (pre ++ dwords a 32) (n - 1)
  let vas := (List.range n).map fun j => (a + j * stride) % 2 ^ 64
  if rb == 0 then resumeObjs s g th h0 vas rec a
  else do
    let (s, ws) ← loadAll s (pre ++ dwords rb 8)
    resumeObjs s g th h0 vas (some (ws.drop pre.length)) a

/-- `co.resume`, R369. -/
def execCoResume (d a b : Reg) (s : State) : Host.Outcome State Fault Refusal :=
  finish s.cur (do
    let th ← getMe s
    if th.prog.stage == 3 then postAnswer s d
    else
      needLive s th [a, b] []
      if (th.rx a).toNat % 64 != 0 then raise s .align (th.rx a)
      else if (th.rx b).toNat % 64 != 0 then raise s .align (th.rx b)
      else resumeFrom s (th.rx a).toNat [] none (th.rx b).toNat)

/-! ## `co.suspend` (R368) -/

/-- The lowest address of an area that does not translate with W and without COW. -/
def areaFault (s : State) (cs : List TlbEnt) (dom : Nat) (kernel : Bool) (lo va : Nat) : Nat → Option (Cause × Nat)
  | 0 => none
  | n + 1 => match s.xlate cs dom (va % 2 ^ 64) kernel .write with
    | .error c => some (c, max lo va % 2 ^ 64)
    | .ok _ => areaFault s cs dom kernel lo (va / 65536 * 65536 + 65536) n

/-- The bound of the group on a core. -/
def State.boundOf (s : State) (core : Nat) : Nat :=
  match s.group core with
  | some g => g.bound
  | none => 0

/-- The areas that a `co.suspend` writes: each resident group's address and bound (R368). -/
def State.saveAreas (s : State) (id : Nat) (k : Gang) (va stride : Nat) : List (Nat × Nat) :=
  ((k.cores.zip (List.range k.cores.length)).filter fun e => s.holds id e.1).map fun e => ((va + e.2 * stride) % 2 ^ 64, s.boundOf e.1)

/-- Each group's area translates (R245). -/
def checkAreas (s : State) (g : Group) (th : Thread) (areas : List (Nat × Nat)) : Do Unit :=
  match areas with
  | [] => .ok ()
  | (va, n) :: rest => do
    coAddr s va
    match areaFault s (s.coreCaches s.cur.core) g.dom th.kernel va va ((va % 65536 + n + 65535) / 65536) with
    | some (c, x) => coWalk s g.dom c x
    | none => checkAreas s g th rest

/-- No area holds a LIVE or RESUMING object. -/
def checkFree (s : State) (g : Group) (th : Thread) (areas : List (Nat × Nat)) : Do Unit :=
  match areas with
  | [] => .ok ()
  | (va, _) :: rest => do
    coTouch s g th true false (va + 12) 4
    match s.objStatePa (s.coreCaches s.cur.core) g.dom th.kernel .write va with
    | .error c => coWalk s g.dom c (va + 12)
    | .ok pa => match s.engineRead pa.pa 4 with
      | .error c => raise s c (w64 (c.at_ (va + 12) pa.pa))
      | .ok st => if st == 1 || st == 2 then coTrap s .coNotLive va 8 else checkFree s g th rest

/-- A save area of a domain as a claim names it. -/
def areaKey (dom : Nat) (va : W64) : W64 := va + w64 (dom * 2 ^ 56)

/-- A gang gives up its save areas' claims (R310). -/
def State.unclaim (s : State) (g : Gang) (u : Susp) : State :=
  let ks := u.objs.map (areaKey g.dom)
  { s with hubs := mapVals (fun h : Hub => { h with claims := h.claims.filter fun k => !ks.contains k }) s.hubs }

/-- Does a suspension of a gang that is under way go before a `co.suspend` that would take effect at a tick (R359): it is a `co.suspend`
itself, or its agreed tick comes no later? -/
def Gang.goesFirst (k : Gang) (at_ : Nat) : Bool :=
  match k.susp with
  | some u => u.why == 0 || u.stopped || u.agreed ≤ at_
  | none => false

/-- `co.suspend`, R368: the thread is not ready until the agreed tick. A suspension of the gang whose agreed tick comes no later goes first, and
one whose tick would come later gives way, with its save areas (R359). -/
def execCoSuspend (d a b : Reg) (s : State) : Host.Outcome State Fault Refusal :=
  finish s.cur (do
    let th ← getMe s
    let g ← getGroup s
    match find s.gangs g.gang with
    | none => .error (.fault .noAgent)
    | some k =>
      let at_ := s.gtick + (if k.cores.length > 1 then 2048 else 1)
      if k.goesFirst at_ then waitFor s .suspending
      else
        needLive s th [a, b] []
        let va := (th.rx a).toNat
        let stride := (th.rx b).toNat
        if va % 64 != 0 then raise s .align (th.rx a)
        else if stride % 64 != 0 then raise s .align (th.rx b)
        else
          coAddr s va
          let n := k.cores.length
          if n > 1 && k.cores.any fun c => s.holds g.gang c && stride < s.boundOf c then illField s (.coSuspend d a b)
          else
            let areas := s.saveAreas g.gang k va stride
            checkAreas s g th areas
            checkFree s g th areas
            let s ← releaseWait s s.cur .rel .mod
            let s := match k.susp with
              | some v => s.unclaim k v
              | none => s
            let u : Susp :=
              { why := 0, agreed := at_, stride := th.rx b,
                objs := (List.range n).map fun k => w64 (va + k * stride), byWho := some (s.cur, d), claim := none, stopped := false,
                saved := (s.retiredOf g.gang k).map (·.2) }
            waitFor { s with gangs := set s.gangs g.gang { k with susp := some u } } .suspending)

/-! ## `co.seal`, `co.discard` and `co.stat` (R371, R372) -/

/-- The words of a header that a thread changed at the home leave its core's cache portion if they are V copies. -/
def State.dropHeader (s : State) (cs : List TlbEnt) (dom : Nat) (va : Nat) : State :=
  (dwords va 32).foldl (fun (s : State) x => match s.xlate cs dom x true .read with
    | .ok p => s.dropWord s.cur.core p.pa
    | .error _ => s) s

/-- The bytes of a sealed header (R371, R357). -/
def State.resealed (s : State) (dom va : Nat) (b : List Byte) : List Byte :=
  let flags := leAt b 0x0A 2
  let h := b.take 0x0A ++ lil 2 (if bitsOf flags 3 3 == 1 then flags else flags + 8) ++ lil 4 1 ++ (b.drop 0x10).take 0xA8 ++ sha512 (b.drop 256)
  h ++ s.sealOf dom h va

/-- `co.seal`, R371. -/
def execCoSeal (a : Reg) (s : State) : Host.Outcome State Fault Refusal :=
  finish s.cur (do
    let th ← getMe s
    let g ← getGroup s
    needLive s th [a] []
    let va := (th.rx a).toNat
    coAddr s va
    let cs := s.coreCaches s.cur.core
    coTouch s g th true true va 256
    match s.objRead cs g.dom th.kernel va 32 with
    | .error (c, x) => coFault s g.dom c x
    | .ok h => do
      checkVersion s h va
      if leAt h 0x10 1 != g.dom then coTrap s .coSeal va 2
      else if !(s.domain g.dom).sealRight then coTrap s .coSeal va 3
      else match s.xlate cs g.dom va th.kernel .both, s.xlate cs g.dom (va + 255) th.kernel .both with
        | .error c, _ => coWalk s g.dom c va
        | _, .error c => coWalk s g.dom c (va / 65536 * 65536 + 65536)
        | .ok _, .ok _ =>
          let s ← releaseWait s s.cur .rel .sys
          let st := leAt h 0x0C 4
          if st != 1 then coTrap s .coNotLive va (st % 64)
          else if bitsOf (leAt h 0x0A 2) 2 2 == 1 then coTrap s .coNotLive va 6
          else match s.objBytes cs g.dom th.kernel va with
            | .error (c, x) => coFault s g.dom c x
            | .ok b =>
              if !sectsOk b then coTrap s .coSeal va 1
              else match s.objWrite g.dom va (s.resealed g.dom va b) 32 with
                | .ok t => .ok (((t.noteBytes g.dom va (s.resealed g.dom va b) 32).dropHeader cs g.dom va).retireNext 8)
                | .error c => coFault s g.dom c (s.faultAt [] g.dom c va))

/-- `co.discard`, R371. -/
def execCoDiscard (a : Reg) (s : State) : Host.Outcome State Fault Refusal :=
  finish s.cur (do
    let th ← getMe s
    let g ← getGroup s
    needLive s th [a] []
    let va := (th.rx a).toNat
    coAddr s va
    coTouch s g th true true (va + 8) 8
    match s.objStatePa (s.coreCaches s.cur.core) g.dom th.kernel .both va with
    | .error c => coWalk s g.dom c (va + 12)
    | .ok pa => match s.engineRead (pa.pa - 4) 8 with
      | .error c => raise s c (w64 (c.at_ (va + 12) (pa.pa - 4)))
      | .ok w =>
        if bitsOf w 18 18 == 1 then coTrap s .coNotLive va 6
        else match s.coSwap pa 4 with
          | .error c => raise s c (w64 (c.at_ (va + 12) pa.pa))
          | .ok (_, some st) => coTrap s .coNotLive va (st % 64)
          | .ok (t, none) => .ok (((t.noteSwap pa.pa 1 4).dropWord s.cur.core pa.pa).retireNext 8))

/-- `co.stat`, R372. -/
def execCoStat (d a : Reg) (which : Bool) (s : State) : Host.Outcome State Fault Refusal :=
  finish s.cur (do
    let th ← getMe s
    let g ← getGroup s
    needLive s th [a] []
    if which then
      if th.rx a != 0 then illField s (.coStat d a which) else .ok (s.retireX d (w64 g.bound) 8)
    else
      let va := (th.rx a).toNat
      coAddr s va
      coTouch s g th true false va 256
      match s.objRead (s.coreCaches s.cur.core) g.dom th.kernel va 32 with
      | .error (c, x) => coFault s g.dom c x
      | .ok h =>
        .ok (s.retireX d (w64 (leAt h 0x0C 4 % 256 + leAt h 0x0A 2 * 2 ^ 16 + leAt h 0x13 1 * 2 ^ 32 + leAt h 0x12 1 * 2 ^ 40)) 8))

end Sys2Proof.Machine
end

