-- ==== Sys2Proof/Machine/Link.lean ====
section
/-! DEFINITION. Link ports and flits (22 R376 to R378), and the twelve rings' descriptors (R379). -/

namespace Sys2Proof.Machine

/-! ## Flits (R376, R377) -/

/-- `SEQ` of a header. -/
def flitSeq (f : Flit) : Nat := fld f.hdr 63 52
/-- `ACK`. -/
def flitAck (f : Flit) : Nat := fld f.hdr 51 40
/-- `TYPE`. -/
def flitType (f : Flit) : Nat := fld f.hdr 39 36
/-- `SLOT`. -/
def flitSlot (f : Flit) : Nat := fld f.hdr 35 32
/-- `EPOCH`. -/
def flitEpoch (f : Flit) : BitVec 16 := BitVec.ofNat 16 (fld f.hdr 31 16)
/-- `OFF`. -/
def flitOff (f : Flit) : Nat := fld f.hdr 15 0

/-- One bit of CRC-64 (ECMA-182, most significant bit first). -/
def crcBit (c : W64) : W64 := if c.getLsbD 63 then (c <<< 1) ^^^ 0x42F0E1EBA9EA3693 else c <<< 1
/-- One byte of it. -/
def crcByte (c : W64) (b : Byte) : W64 := (List.range 8).foldl (fun c _ => crcBit c) (c ^^^ (b.setWidth 64 <<< 56))
/-- The CRC of bytes that follow those of CRC `c`; the split on `c` has it computed before the next byte is taken. -/
def crcFrom (bs : List Byte) (c : Nat) : Nat :=
  match bs, c with
  | [], c => c
  | b :: bs, 0 => crcFrom bs (crcByte 0 b).toNat
  | b :: bs, c + 1 => crcFrom bs (crcByte (w64 (c + 1)) b).toNat
/-- The CRC of bytes, from an initial value of 0 (notes/assumptions/22.md). -/
def crc64 (bs : List Byte) : W64 := w64 (crcFrom bs 0)

/-- Bytes 0 to 119 of a flit. -/
def flitBytes (hdr : W64) (payload : List W64) : List Byte := lil 8 hdr.toNat ++ payload.flatMap fun w => lil 8 w.toNat

/-- Has a flit fourteen payload doublewords and the right CRC (R378)? -/
def flitIntact (f : Flit) : Bool := f.payload.length == 14 && f.crc == crc64 (flitBytes f.hdr f.payload)

/-- A flit as a ring hands it to a port: `SEQ`, `ACK` and the CRC are not set yet. -/
def mkFlit (typ slot : Nat) (epoch : BitVec 16) (off : Nat) (payload : List W64) : Flit :=
  { hdr := w64 (typ % 16 * 2 ^ 36 + slot % 16 * 2 ^ 32 + epoch.toNat * 2 ^ 16 + off % 2 ^ 16),
    payload := (payload ++ List.replicate 14 0).take 14, crc := 0 }

/-! ## Sending (R378) -/

/-- Put a flit on the wire and into the retry buffer. -/
def Port.wire (p : Port) (f : Flit) : Port :=
  let h := w64 (f.hdr.toNat % 2 ^ 40 + p.rxSeq.toNat * 2 ^ 40 + p.txSeq.toNat * 2 ^ 52)
  let g : Flit := { hdr := h, payload := f.payload, crc := crc64 (flitBytes h f.payload) }
  { p with txSeq := p.txSeq + 1, retry := p.retry ++ [g], sent := p.sent ++ [g] }

/-- Send a flit when the retry buffer of 256 has room and none waits before it. -/
def Port.emit (p : Port) (f : Flit) : Port :=
  if p.retry.length < 256 && p.queue.isEmpty then p.wire f else { p with queue := p.queue ++ [f] }

/-- Send what waited, as far as there is room. -/
def Port.pump (p : Port) : Nat → Port
  | 0 => p
  | k + 1 => match p.queue with
    | [] => p
    | f :: rest => if p.retry.length < 256 then Port.pump ({ p with queue := rest }.wire f) k else p

/-- The idle flit of a port (R376, R377): it carries the last number sent, and is never sent again. -/
def Port.idle (p : Port) : Flit :=
  let h := w64 (p.rxSeq.toNat * 2 ^ 40 + (p.txSeq - 1).toNat * 2 ^ 52)
  let body := List.replicate 14 0
  { hdr := h, payload := body, crc := crc64 (flitBytes h body) }

/-- A live port with no flit to send sends idle flits (R376). A run of equal ones is one entry of what the port has sent. -/
def Port.rest (p : Port) : Port :=
  let idle (f : Flit) : Bool := flitType f == 0 && flitAck f == p.rxSeq.toNat
  if p.up && (p.queue.isEmpty || 256 ≤ p.retry.length) && !p.sent.getLast?.any idle then { p with sent := p.sent ++ [p.idle] } else p

/-- Idle flits go out on every port that has nothing else to send. -/
def State.restPorts (s : State) : State := if s.ports.toList.any (·.up) then { s with ports := s.ports.map Port.rest } else s

/-- Send a flit through a port that is live. -/
def State.sendFlit (s : State) (port : Nat) (f : Flit) : State :=
  let p := s.port port
  if p.up then s.setPort port (p.emit f) else s

/-! ## Receiving (R377, R378) -/

/-- Is a flit the next one that a port expects? An idle flit carries the last number sent. -/
def Port.expects (p : Port) (f : Flit) : Bool :=
  (flitIntact f) && (flitSeq f) == (if (flitType f) == 0 then p.rxSeq - 1 else p.rxSeq).toNat

/-- The flits that an acknowledgement covers leave the retry buffer. -/
def Port.acked (p : Port) (ack : Nat) : Port :=
  match p.retry with
  | [] => p
  | f :: _ =>
    let n := (ack + 4096 - (flitSeq f)) % 4096
    if n ≤ p.retry.length then { p with retry := p.retry.drop n } else p

/-- A flit is received. -/
def Port.take (p : Port) (f : Flit) : Port :=
  let p := p.acked (flitAck f)
  { p with rxSeq := if (flitType f) == 0 then p.rxSeq else p.rxSeq + 1, fails := 0 }.pump p.queue.length

/-- What a received flit of some types does: nothing comes of one that the port does not expect, or that is of another type. -/
def flitEvent (s : State) (port : Nat) (f : Flit) (types : List Nat) (act : State → State) : Host.Outcome State Fault Refusal :=
  let p := s.port port
  event (if port < 24 && p.up && p.expects f && types.contains (flitType f) then act (s.setPort port (p.take f)) else s)

/-- RETRY_REQUEST: every flit from the named `SEQ` on, which is the `ACK` that the request carries, is sent again. -/
def execRetryRequest (port : Nat) (f : Flit) (s : State) : Host.Outcome State Fault Refusal :=
  flitEvent s port f [7] fun s =>
    let p := s.port port
    s.setPort port { p with sent := p.sent ++ p.retry }

/-! ## Rings (R379) -/

/-- A ring's descriptor as firmware configures it: its reserved bits are zero (Table 2, 00 R5). -/
def RotRing.descOf (d : W64) : W64 :=
  keep [(63, 63), (50, 48), (43, 40), (36, 32), (28, 24), (22, 16), (13, 8), (3, 0)] d
/-- `VALID`. -/
def RotRing.valid (r : RotRing) : Bool := bitOf r.desc 63
/-- `DIE`. -/
def RotRing.die (r : RotRing) : Nat := fld r.desc 50 48
/-- `DOM`. -/
def RotRing.dom (r : RotRing) : Nat := fld r.desc 43 40
/-- `UPPORT` or `DNPORT`. -/
def RotRing.portOf (r : RotRing) (up : Bool) : Nat := if up then fld r.desc 36 32 else fld r.desc 28 24
/-- `N`. -/
def RotRing.members (r : RotRing) : Nat := fld r.desc 22 16
/-- `SELF`. -/
def RotRing.self (r : RotRing) : Nat := fld r.desc 13 8

/-- The ring that a port serves, and whether it is its upstream port. -/
def State.ringOf (s : State) (port : Nat) : Option (Nat × Bool) :=
  (List.range 12).findSome? fun k =>
    let r := s.ring k
    if !r.valid then none else if r.portOf true == port then some (k, true) else if r.portOf false == port then some (k, false) else none

end Sys2Proof.Machine
end

