-- ==== Sys2Proof/Machine/Evt.lean ====
section
/-! DEFINITION. The event unit (17 R294, R295, R318 to R320): EVT 0x00 to 0x03, the waiters it holds, and the bits that a
completion and firmware set. -/

namespace Sys2Proof.Machine

/-- Quarter `q` of a cluster's event bits (R294). -/
def Cluster.quarter (k : Cluster) (q : Nat) : W64 := vget 0 k.ev q

/-- The mask that a waiting `ev.wait` names, with its quarter. -/
def Thread.waitMask (th : Thread) : Option (W64 × Nat) :=
  match th.prog.inst with
  | some (.evWait _ _ _ a q _ _) => some (th.rx a, q.toNat)
  | _ => none

/-- A waiter whose bits are all set is satisfied: the quarter as of this operation is its result (R319). -/
def State.satisfy (s : State) (cl : Nat) (x : Who × Nat) : State :=
  let k := s.cluster cl
  match s.agent x.1 with
  | none => s
  | some th => match th.waitMask with
    | none => s
    | some (m, _) =>
      let e := k.quarter x.2
      if e &&& m != m then s
      else
        let s := s.setCluster cl { k with waits := k.waits.filter fun y => y != x }
        s.setAgent x.1 { th with prog := { th.prog with got := [(0, e)] } }

/-- An operation that sets bits of a quarter, and re-evaluates its waiters in the order in which they began to wait (R319). -/
def State.setEvents (s : State) (cl q : Nat) (mask : W64) : State :=
  let k := s.cluster cl
  let s := s.setCluster cl { k with ev := vset k.ev q (k.quarter q ||| mask) }
  (k.waits.filter fun x => x.2 == q).foldl (fun (s : State) x => s.satisfy cl x) s

/-- An operation that clears bits of a quarter. -/
def State.clearEvents (s : State) (cl q : Nat) (mask : W64) : State :=
  let k := s.cluster cl
  s.setCluster cl { k with ev := vset k.ev q (k.quarter q &&& ~~~mask) }

/-- Does a domain own a quarter of a cluster (R294)? -/
def State.owns (s : State) (dom cl q : Nat) : Bool := vget none (s.cluster cl).owner q == some dom

/-- The target cluster of an event instruction (R318): XLATE_PERM unless the group's domain owns the quarter and the cluster is
not fenced as a unit. -/
def evTarget (s : State) (g : Group) (th : Thread) (q : BitVec 2) (rc : Bool) (b : Reg) : Do Nat :=
  let cl := if rc then fld (th.rx b) 5 0 else clusterOf s.cur.core
  if (s.cluster cl).fenced || !s.owns g.dom cl q.toNat then raise s .xlatePerm (w64 (cl * 4 + q.toNat)) else .ok cl

/-- The checks and waits of an event instruction: its target cluster. -/
def evOpen (s : State) (o : MemOrd) (sc : Scope) (a : Reg) (q : BitVec 2) (rc : Bool) (b : Reg) : Do (State × Thread × Nat) := do
  let th ← getMe s
  let g ← getGroup s
  needLive s th (if rc then [a, b] else [a]) []
  let cl ← evTarget s g th q rc b
  let s ← releaseWait s s.cur o sc
  .ok (s, th, cl)

/-- `ev.set`, R319. -/
def execEvSet (ord : MemOrd) (scope : Scope) (a : Reg) (q : BitVec 2) (rc : Bool) (b : Reg) (s : State) :
    Host.Outcome State Fault Refusal :=
  finish s.cur (do
    let (s, th, cl) ← evOpen s ord scope a q rc b
    .ok ((s.setEvents cl q.toNat (th.rx a)).retireNext 8))

/-- `ev.clr`, R319. -/
def execEvClr (ord : MemOrd) (scope : Scope) (a : Reg) (q : BitVec 2) (rc : Bool) (b : Reg) (s : State) :
    Host.Outcome State Fault Refusal :=
  finish s.cur (do
    let (s, th, cl) ← evOpen s ord scope a q rc b
    .ok (((s.clearEvents cl q.toNat (th.rx a)).noteRedo s.cur (cl * 4 + q.toNat) 8 (th.rx a) .clear).retireNext 8))

/-- `ev.test`, R319, R320. -/
def execEvTest (ord : MemOrd) (scope : Scope) (d a : Reg) (q : BitVec 2) (rc : Bool) (b : Reg) (s : State) :
    Host.Outcome State Fault Refusal :=
  finish s.cur (do
    let (s, th, cl) ← evOpen s ord scope a q rc b
    .ok ((s.acquire s.cur.core ord scope).retireX d ((s.cluster cl).quarter q.toNat &&& th.rx a) 8))

/-- `ev.wait` on the issuing agent, R319, R320: it is satisfied, or takes one of the 64 wait entries, or finds them full and
presents itself again. -/
def evWait (ord : MemOrd) (scope : Scope) (d a : Reg) (q : BitVec 2) (rc : Bool) (b : Reg) (s : State) :
    Host.Outcome State Fault Refusal :=
  finish s.cur (do
    let (s, th, cl) ← evOpen s ord scope a q rc b
    let done (e : W64) : State := (s.acquire s.cur.core ord scope).retireX d e 8
    let k := s.cluster cl
    let e := k.quarter q.toNat
    match find th.prog.got 0 with
    | some v => .ok (done v)
    | none =>
      let parked := k.waits.any fun x => x.1 == s.cur
      if !parked && e &&& th.rx a == th.rx a then .ok (done e)
      else
        let s := if !parked && k.waits.length < 64 then s.setCluster cl { k with waits := k.waits ++ [(s.cur, q.toNat)] } else s
        .error (.wait (s.setMe { th with wait := .sync, prog := { th.prog with
          inst := some (.evWait ord scope d a q rc b), stage := 16, note := 0 } })))

/-- `ev.wait`, R319. -/
def execEvWait (ord : MemOrd) (scope : Scope) (d a : Reg) (q : BitVec 2) (rc : Bool) (b : Reg) (s : State) :
    Host.Outcome State Fault Refusal :=
  evWait ord scope d a q rc b s

/-- An `ev.wait` of agent `selB` of core `selA` that found the entries full presents itself again (R319). -/
def execEvWaitRepresent (s : State) : Host.Outcome State Fault Refusal :=
  let w := whoAt s.selA s.selB
  match s.agent w with
  | some th => match th.prog.inst, s.canRun w with
    | some (.evWait o sc d a q rc b), true => evWait o sc d a q rc b { s with cur := w }
    | _, _ => event s
  | none => event s

/-- Supervisor firmware sets or clears event bits of a cluster (R294, R319). -/
def execFirmwareEventSet (cluster q : Nat) (mask : W64) (set : Bool) (s : State) : Host.Outcome State Fault Refusal :=
  if q ≥ 4 || cluster ≥ 64 then event s
  else event (if set then s.setEvents cluster q mask else s.clearEvents cluster q mask)

end Sys2Proof.Machine
end

