-- ==== Sys2Proof/Machine/Record.lean ====
section
/-! DEFINITION. The launch record (17 R296 to R299), its check (R302 Table 5) and the acceptance of a posted record at its home
hub (R301 to R304). -/

namespace Sys2Proof.Machine

/-- A word of a record. -/
def recWord (ws : List W64) (k : Nat) : W64 := (ws[k]?).getD 0
/-- `CFG` and `GANGS`. -/
def recField (ws : List W64) (k hi lo : Nat) : Nat := fld (recWord ws k) hi lo
/-- Groups in a gang. -/
def recGroups (ws : List W64) : Nat := recField ws 2 45 43 + 1
/-- Threads in a group. -/
def recThreads (ws : List W64) : Nat := recField ws 2 47 46 + 1
/-- `ROW`. -/
def recRow (ws : List W64) : Bool := bitOf (recWord ws 2) 48
/-- `PRIO`. -/
def recPrio (ws : List W64) : Nat := recField ws 2 53 49
/-- `SPM` of the scratchpad request, in units of 64 KiB (11 R206). -/
def recSpm (ws : List W64) : Nat := (recField ws 2 42 32 + 63) / 64
/-- `N`. -/
def recN (ws : List W64) : Nat := recField ws 3 47 0
/-- `AMODE` and `ADIE`. -/
def recAmode (ws : List W64) : Nat := recField ws 3 59 58
/-- `ADIE`. -/
def recAdie (ws : List W64) : Nat := recField ws 3 62 60
/-- `EVCL`. -/
def recEvcl (ws : List W64) : Nat := recField ws 3 57 52
/-- The widths `W0` to `W5` of a `WIDLAY` value (02 R18). -/
def layWidths (lay : W64) : List Nat := [fld lay 1 0, fld lay 3 2, fld lay 10 4, fld lay 17 11, fld lay 24 18, fld lay 31 25]
/-- The widths of a record. -/
def recWidths (ws : List W64) : List Nat := layWidths (recWord ws 2)

/-- The work identifier of a thread (02 R21). -/
def recWid (ws : List W64) (n g t : Nat) : W64 :=
  let w := recWidths ws
  let w0 := (w[0]?).getD 0
  let w1 := (w[1]?).getD 0
  recWord ws 1 + w64 (n * 2 ^ (w0 + w1) + g * 2 ^ w0 + t)

/-! ## The check (R302 Table 5, 02 R20) -/

/-- The conditions of R20, but for the one on fenced cores. -/
def recValid (ws : List W64) (n : Nat) : Bool :=
  let w := recWidths ws
  let w0 := (w[0]?).getD 0
  let w01 := w0 + (w[1]?).getD 0
  let all := w.foldl (· + ·) 0
  let base := (recWord ws 1).toNat
  w0 ≤ 2 && all ≤ 64 && recThreads ws ≤ 2 ^ w0 && recGroups ws ≤ 2 ^ (w01 - w0) && base % 2 ^ w01 == 0 && base < 2 ^ all &&
    1 ≤ n && base / 2 ^ w01 + n - 1 < 2 ^ (all - w01)

/-- Is every reserved bit zero and every field in its range (code 1)? -/
def recFields (ws : List W64) : Bool :=
  recField ws 2 63 61 == 0 && !bitOf (recWord ws 3) 63 && recField ws 6 63 55 == 0 && recField ws 6 15 9 == 0 && recPrio ws ≤ 23 &&
    recField ws 2 42 32 ≤ 1536 && recField ws 2 57 54 ≤ 8 && recField ws 2 60 58 ≤ 4 && recAmode ws != 3 && recField ws 0 1 0 == 0 &&
    recField ws 6 8 0 * 4096 ≤ recSpm ws * 65536

/-- Is a core fenced, by itself or with its cluster (26 R435)? -/
def State.coreFenced (s : State) (c : Nat) : Bool := (s.core c).fenced || (s.cluster (clusterOf c)).fenced

/-- Has some row of a die this many consecutive unfenced cores? -/
def State.rowFits (s : State) (die n : Nat) : Bool :=
  (List.range 32).any fun r => (List.range (9 - n)).any fun b => (List.range n).all fun k => !s.coreFenced (die * 256 + r * 8 + b + k)

/-- The code with which a hub answers a record (Table 5); `resumed` when the record is that of a resume (20 R369). -/
def State.postCode (s : State) (die dom : Nat) (ws : List W64) (resumed : Bool) : Nat :=
  let n := recN ws
  let cl := s.cluster (recEvcl ws)
  if !recValid ws (if resumed then min n 1 else n) || !recFields ws then 1
  else if !((if recAmode ws == 2 then [recAdie ws] else List.range 8).any fun d => s.rowFits d (recGroups ws)) then 2
  else if (s.domain dom).ceiling < recPrio ws then 3
  else if (s.hub die).dead || 1024 ≤ (s.hub die).slots.length then 4
  else if (if resumed then n != 1 else recWord ws 7 != 0 && (n != 1 || recField ws 7 5 0 != 0)) then 5
  else if (recWord ws 4 != 0 && vget none cl.owner (recField ws 3 49 48) != some dom) ||
      (recWord ws 5 != 0 && vget none cl.owner (recField ws 3 51 50) != some dom) then 6
  else 0

/-! ## Queues (R304) -/

/-- The order of a hub's queue: levels from the highest, and within a level the order of admission. -/
def enqueue (q : List Pend) (p : Pend) : List Pend := insertBy (fun x => x.level < p.level) q p
/-- At the head of its level. -/
def enqueueHead (q : List Pend) (p : Pend) : List Pend := insertBy (fun x => x.level ≤ p.level) q p

/-- The answer to an accepted post (R302), which `task.self` reads. -/
def Launch.answer (l : Launch) (die slot : Nat) : W64 := w64 (die * 2 ^ 8 + slot * 2 ^ 11 + l.serial.toNat * 2 ^ 32)

/-- A record becomes ready and is admitted (R304): its place in the order of admission stays with it. -/
def Hub.takeIn (h : Hub) (die slot : Nat) (l : Launch) : Hub :=
  { h with
    admits := h.admits + 1,
    slots := set h.slots slot { l with ready := true, turn := h.admits },
    queue := enqueue h.queue { home := die, slot := slot, lo := 0, n := recN l.words, level := recPrio l.words, stolen := none,
                               objs := (l.co.getD []), answer := l.answer die slot, was := none, turn := h.admits } }

/-- The slot that an accepted record takes (17 R301). DESIGN CHOICE: the lowest free one (notes/assumptions/18.md). Unsafe: R301 names none, and the
answer of a post shows it. -/
def Hub.freeSlot (h : Hub) : Nat := ((List.range 1024).find? fun k => (find h.slots k).isNone).getD 0

/-- Accept a record: it takes a slot and a serial number, and is ready at once when it waits for no bit (R303). -/
def State.accept (s : State) (p : Post) (vec : Nat) : State × W64 :=
  let h := s.hub p.die
  let slot := h.freeSlot
  let l : Launch :=
    { words := p.words, addr := p.addr, dom := p.dom, serial := h.serial + 1, ready := false, turn := 0, failed := none, told := false, out := 0,
      retired := 0, sets := [], vec := vec, co := if p.objs.isEmpty then none else some p.objs, claimed := false, period := 0, nextMq := 0 }
  let h := { h with serial := h.serial + 1, slots := set h.slots slot l }
  (s.setHub p.die (if recWord p.words 4 == 0 then h.takeIn p.die slot l else h), l.answer p.die slot)

/-- The answer of a post reaches who posted it: the instruction, or the doorbell's registers (24 R403). -/
def State.answerPost (s : State) (p : Post) (v : W64) : State :=
  let s := match p.who with
    | some (w, seq) => s.send (.amoRep w none seq [0] (.ok [(0, v)]))
    | none => s
  match p.bell with
  | some (d, _) =>
    let b := vget Doorbell.init s.host.bells d
    { s with host := { s.host with bells := vset s.host.bells d { b with ans := v, busy := false } } }
  | none => s

/-! ## A doorbell's resume

A doorbell's record whose `CO` names an object is resumed by the hub with kernel rights; a CO cause, which has no thread to trap, is
refused with code 1 (notes/assumptions/21.md). -/

/-- The headers of groups `n` upward, read with kernel rights and checked. -/
def hubHeaders (s : State) (dom : Nat) (h0 : List Byte) (a stride n : Nat) : Nat → Option (List Nat)
  | 0 => some []
  | k + 1 =>
    let va := (a + n * stride) % 2 ^ 64
    match coAddr s va, s.objRead [] dom true va 32 with
    | .ok _, .ok h => match checkHeader s dom h0 h n va, hubHeaders s dom h0 a stride (n + 1) k with
      | .ok _, some vas => some (va :: vas)
      | _, _ => none
    | _, _ => none

/-- The objects of a gang made RESUMING, with the record of its launch. -/
def hubResume (s : State) (die dom : Nat) (ws : List W64) : Option (State × List W64 × List W64) :=
  let a := (recWord ws 7).toNat
  match coAddr s a, s.objRead [] dom true a 32 with
  | .ok _, .ok h0 =>
    match checkHeader s dom h0 h0 0 a, hubHeaders s dom h0 a (leAt h0 0x30 8) 1 (leAt h0 0x12 1 - 1) with
    | .ok _, some rest =>
      let vas := a :: rest
      match mapE (fun va => match s.objStatePa [] dom true .both va with
          | .ok pa => .ok (va, pa)
          | .error c => .error c) vas with
      | .error _ => none
      | .ok ps => match swapAll s s ps with
        | .error _ => none
        | .ok t => if (firstBad t [] dom true vas).isSome then none else some (t, resumeRecord h0 die (some ws), vas.map w64)
    | _, _ => none
  | _, _ => none

/-- The post of a record at its hub: the state, and the answer. -/
def State.postRecord (s : State) (p : Post) : State × W64 :=
  let vec := match p.bell with
    | some (_, v) => v
    | none => 0
  let code := s.postCode p.die p.dom p.words !p.objs.isEmpty
  if code != 0 then (s, w64 code)
  else if p.objs.isEmpty && recWord p.words 7 != 0 then match hubResume s p.die p.dom p.words with
    | none => (s, 1)
    | some (t, ws, objs) =>
      let code := t.postCode p.die p.dom ws true
      if code != 0 then (s, w64 code) else t.accept { p with words := ws, objs := objs } vec
  else s.accept p vec

/-- RECORD_ACCEPT: a posted record reaches its home hub, which checks it, accepts or refuses it, and answers. -/
def execRecordAccept (s : State) : Host.Outcome State Fault Refusal :=
  event (match s.takeMsg with
    | some (.record p, s) =>
      let (s, v) := s.postRecord p
      s.answerPost p v
    | _ => s)

end Sys2Proof.Machine
end

