-- ==== Sys2Proof/Machine/TraceUnit.lean ====
section
/-! DEFINITION. The trace unit (25 R414 to R418; 27 R439, R441): friezes, marks and samples, and the buffer they enter. -/

namespace Sys2Proof.Machine

/-! ## The buffer (R417, R418) -/

/-- Write one doubleword of the buffer at its home as an untracked store (R418, 09 R182), which frees the entry of a LOST word (09 R181); where there is no memory nothing is written. -/
def State.tracePoke (s : State) (pa v : Nat) : State :=
  if isHost pa then s.hostStore (pa - hostBase) 8 v false false
  else if s.isHbm pa then
    let h := s.homeOf pa
    let s := if (s.regEnt pa).any REnt.lost then s.setSlice h ((s.slice h).free (pa / 8)) else s
    s.poke pa 8 v
  else s

/-- Write a record's bytes from an address upward. -/
def State.tracePut (s : State) (pa : Nat) (bs : List Byte) : Nat → State
  | 0 => s
  | k + 1 => State.tracePut (s.tracePoke pa (natOfBytes (bs.take 8))) (pa + 8) (bs.drop 8) k

/-- A record enters the buffer, at its head or, with `WRAP`, from offset 0; with `WRAP` 0 the unit sets `FULL` and counts what it drops. -/
def State.traceWrite (s : State) (bs : List Byte) : State :=
  let t := s.trace
  let size := t.units.toNat * 4096
  let n := bs.length
  let put (at_ : Nat) : State :=
    { s.tracePut (t.base.toNat + at_) bs (n / 8) with trace := { t with head := w64 (at_ + n) } }
  if !t.full && t.head.toNat + n ≤ size then put t.head.toNat
  else if !t.full && t.wrap && n ≤ size then put 0
  else { s with trace := { t with full := t.full || !t.wrap, lost := t.lost + 1 } }

/-- The header of a record (R416). -/
def traceHdr (tick typ len : Nat) : List Byte := lil 8 tick ++ lil 1 typ ++ lil 1 0 ++ lil 2 len ++ lil 4 0

/-- The marks and samples of one tick are in ascending core id and thread set (R417). -/
def TraceRec.before (a b : TraceRec) : Bool := a.tick < b.tick || (a.tick == b.tick && a.core * 4 + a.t < b.core * 4 + b.t)

/-- The marks and samples of ticks before one enter the buffer. -/
def State.flushTrace (s : State) (tick : Nat) : State :=
  let rs := s.trace.recs.filter fun r => r.tick < tick
  if rs.isEmpty then s
  else
    let s := { s with trace := { s.trace with recs := s.trace.recs.filter fun r => !(r.tick < tick) } }
    rs.foldl (fun (s : State) r => s.traceWrite r.bytes) s

/-- A thread writes a record of its own, when `EN` and `MARKS` are both 1 (R413). -/
def State.traceRec (s : State) (w : Who) (bytes : List Byte) : State :=
  if !(s.trace.en && s.trace.marks) then s
  else
    let r : TraceRec := { tick := s.gtick, core := w.core, t := w.issuer.setNo, bytes := bytes }
    { s with trace := { s.trace with recs := insertBy (fun x => r.before x) s.trace.recs r } }

/-! ## Friezes (R415, R416) -/

/-- Signed LEB128. -/
def sleb (v : Int) : Nat → List Byte
  | 0 => []
  | k + 1 =>
    let b := (v % 128).toNat
    let r := v / 128
    if (r == 0 && b < 64) || (r == -1 && 64 ≤ b) then [BitVec.ofNat 8 b] else BitVec.ofNat 8 (b + 128) :: sleb r k

/-- Has a gang's suspension reached its agreed tick? -/
def State.suspended (s : State) (gang : Nat) : Bool :=
  match find s.gangs gang with
  | some { susp := some u, .. } => u.agreed ≤ s.gtick
  | _ => false

/-- The run state of a thread set (Table 7), latched by the step after the one that moved in the pulse's tick: a user-mode thread that issued
in that one issued in this tick. What Table 7 does not settle is free: whether a kernel-mode thread that waits shows its wait, and what a
thread that firmware holds shows. -/
def State.runState (s : State) (w : Who) (g : Group) (th : Thread) : Nat × State :=
  let (k, s) := s.freeNat 10
  let mode (n : Nat) : Nat := if th.kernel && k % 2 == 0 then 7 else n
  (match th.status with
    | .idle | .ended => 0
    | .halted => 8
    | .held => k
    | .running =>
      if s.suspended g.gang || th.wait == .suspending then 9
      else if th.issued + 1 == s.stepNo && !th.kernel then 1
      else if s.waitsParked w then mode 4
      else match th.wait with
        | .memory | .journal | .tag => mode 3
        | .sync => mode 5
        | .latch => mode 6
        | .start | .suspending => mode 2
        | .none => if th.kernel then 7 else 2, s)

/-- A frieze in the making: the state, the run-state bytes, the PC deltas, and the PCs that the next frieze's deltas start from. -/
structure Frieze where
  s      : State
  states : List Byte
  deltas : List Byte
  prior  : Map W64
  deriving Repr

/-- One thread set of a core. -/
def Frieze.set (f : Frieze) (core : Nat) (g : Group) (t : Nat) : Frieze :=
  match g.threads[t]? with
  | none => f
  | some th =>
    let (st, s) := f.s.runState { core := core, issuer := .thread t } g th
    if st == 0 then { f with s := s }
    else
      let key := core * 4 + t
      let d : Int := ((th.pc.toNat : Int) - ((look 0 f.prior key).toNat : Int)) / 4
      let at_ := f.states.length - 2
      let w := natOfBytes (f.states.drop at_) + st * 16 ^ t
      { s := s, states := f.states.take at_ ++ lil 2 w, deltas := f.deltas ++ sleb d 12, prior := Machine.set f.prior key th.pc }

/-- One core. A core that is fenced or without power latches nothing: its thread sets read idle. -/
def Frieze.core (f : Frieze) (c : Nat) : Frieze :=
  let f := { f with states := f.states ++ lil 2 0 }
  let k := f.s.core c
  match k.group with
  | some g => if k.fenced || k.gated || k.dead then f else [0, 1, 2, 3].foldl (fun (f : Frieze) t => f.set c g t) f
  | none => f

/-- Does a frieze include a cluster? -/
def State.included (s : State) (cl : Nat) : Bool := !(s.cluster cl).fenced && !(s.cluster cl).gated

/-- `CLMAP` (R416); on A1 it reads all ones (R439). -/
def State.clmap (s : State) : W64 :=
  if s.a1 then BitVec.allOnes 64
  else w64 ((List.range 64).foldl (fun m c => m + natOf (s.included c) * 2 ^ c) 0)

/-- Compose and write the frieze of a tick. The deltas of the next frieze start from this one's PCs only if it is recorded (R416). -/
def State.frieze (s : State) (tick : Nat) : State :=
  let cores := ((List.range 64).filter s.included).flatMap fun cl => (List.range 32).map fun k => cl * 32 + k
  let f := cores.foldl (fun (f : Frieze) c => f.core c) { s := s, states := [], deltas := [], prior := s.trace.prior }
  let body := lil 8 s.clmap.toNat ++ f.states ++ f.deltas
  let pad := body ++ List.replicate ((8 - body.length % 8) % 8) 0
  let t := f.s.traceWrite (traceHdr tick 1 (16 + pad.length) ++ pad)
  if t.trace.lost == f.s.trace.lost then { t with trace := { t.trace with prior := f.prior } } else t

/-- SAMPLING_PULSE: the pulse of tick `selA`. A frieze that the unit cannot compose before the next pulse, which is open, is dropped whole,
and on either stepping is not counted (R417, R441). -/
def execSamplingPulse (s : State) : Host.Outcome State Fault Refusal :=
  event (if !s.trace.en || s.trace.period == 0 || s.selA % s.trace.period.toNat != 0 then s
    else
      let tick := s.selA
      let s := s.flushTrace tick
      let late := Config.freeBool s.freeCtr
      let s := { s with freeCtr := s.freeCtr + 1 }
      if late then s else s.frieze tick)

/-! ## DBG (R413) -/

/-- A counter of a thread. -/
def Thread.ctr (th : Thread) (n : BitVec 3) : Counter := vget { value := 0, start := 0, stop := none, control := 0 } th.ctrs n.toNat
/-- Replace a counter. -/
def Thread.setCtr (th : Thread) (n : BitVec 3) (c : Counter) : Thread := { th with ctrs := vset th.ctrs n.toNat c }

/-- `ctr.start`, R413: its own retirement is counted before the counter starts (R410). -/
def execCtrStart (a : Reg) (n : BitVec 3) (s : State) : Host.Outcome State Fault Refusal :=
  finish s.cur (do
    let th ← getMe s
    needLive s th [a] []
    let v := (th.rx a).toNat
    if 10 ≤ v then illField s (.ctrStart a n)
    else
      let stop := (th.ctr n).stop
      let c : Counter := { value := 0, start := s.gtick64, stop := stop, control := w64 (v + 2 ^ 8) }
      .ok (s.retireAs s.cur (((s.counted s.cur th).setCtr n c).advance 8)))

/-- The last stop tick of a counter; one that has not stopped since its placement or resume has none, and a free value stands for it. -/
def State.stopTick (s : State) (c : Counter) : W64 × State :=
  if bitOf c.control 8 then (s.gtick64, s)
  else match c.stop with
    | some t => (t, s)
    | none => s.freeWord

/-- `ctr.stop`, R413. -/
def execCtrStop (d a : Reg) (n : BitVec 3) (s : State) : Host.Outcome State Fault Refusal :=
  finish s.cur (do
    let th ← getMe s
    needLive s th [a] []
    let ea := (th.rx a).toNat
    if ea % 8 != 0 then raise s .align (th.rx a)
    else
      let c := th.ctr n
      let (stop, s) := s.stopTick c
      let c := { c with stop := some stop, control := c.control &&& ~~~(0x100 : W64) }
      let rec_ : List W64 := [c.value, c.start, stop, c.control]
      let runs := (rec_.zip (List.range 4)).map fun (e : W64 × Nat) =>
        ({ ea := (ea + 8 * e.2) % 2 ^ 64, n := 8, align := 8, data := e.1.toNat } : Run)
      let t ← storeRuns s false .weak .th runs
      let th ← getMe t
      .ok (t.retire (((th.setCtr n c).wx d c.value).advance 8)))

/-- `ctr.rd`, R413. -/
def execCtrRd (d : Reg) (n : BitVec 3) (sel : BitVec 2) (s : State) : Host.Outcome State Fault Refusal :=
  finish s.cur (do
    let th ← getMe s
    let c := th.ctr n
    if sel == 3 then illField s (.ctrRd d n sel)
    else .ok (s.retireX d (if sel == 0 then c.value else if sel == 1 then c.start else c.control) 8))

/-- `sample`, R413, R416. -/
def execSample (a : Reg) (s : State) : Host.Outcome State Fault Refusal :=
  finish s.cur (do
    let th ← getMe s
    needLive s th [a] []
    let mask := (th.rx a).toNat % 256
    let cs := (List.range 8).filter fun j => mask / 2 ^ j % 2 == 1
    let body := lil 2 s.cur.core ++ lil 1 s.cur.issuer.setNo ++ lil 1 mask ++ lil 4 0 ++ lil 8 th.pc.toNat ++
      cs.flatMap fun j => lil 8 (th.ctr (BitVec.ofNat 3 j)).value.toNat
    .ok ((s.traceRec s.cur (traceHdr s.gtick 3 (16 + body.length) ++ body)).retireNext 8))

/-- `mark`, R413, R416. -/
def execMark (a : Reg) (imm : BitVec 16) (s : State) : Host.Outcome State Fault Refusal :=
  finish s.cur (do
    let th ← getMe s
    needLive s th [a] []
    let body := lil 2 s.cur.core ++ lil 1 s.cur.issuer.setNo ++ lil 5 0 ++ lil 8 imm.toNat ++ lil 8 (th.rx a).toNat
    .ok ((s.traceRec s.cur (traceHdr s.gtick 2 (16 + body.length) ++ body)).retireNext 8))

end Sys2Proof.Machine
end

