-- ==== Sys2Proof/Machine/Manage.lean ====
section
/-! DEFINITION. The Skoesk controller (26 R426 to R436): bring-up, the mailbox, the failure log, firmware update, policies and the
capability list. -/

namespace Sys2Proof.Machine

/-! ## Units in service -/

/-- Is this the number of an SRAM array (26 R430)? -/
def arrayOk (n : Nat) : Bool :=
  n < 0x2000 || (0x2000 ≤ n && n < 0x2100 && n % 16 < 8)

/-- The rows with at least one unfenced core (26 Table 1, step 3; notes/assumptions/23.md). -/
def State.usableRows (s : State) : Nat :=
  ((List.range 256).filter fun r => (List.range 8).any fun k => !s.coreFenced (r * 8 + k)).length
/-- Fenced cores. -/
def State.fencedCores (s : State) : List Nat := (List.range 2048).filter s.coreFenced
/-- Fenced clusters. -/
def State.fencedClusters (s : State) : List Nat := (List.range 64).filter fun c => (s.cluster c).fenced
/-- Fenced ports. -/
def State.fencedPorts (s : State) : List Nat := (List.range 24).filter fun p => (s.port p).fenced
/-- The stacks that are out of service: those that bring-up fenced, and those that have failed since (R435). -/
def State.outStacks (s : State) : List Nat := s.mgmt.fencedStacks ++ s.mgmt.failedStacks
/-- The units that are fenced. -/
def State.fencedUnits (s : State) : Nat := s.fencedCores.length + s.outStacks.length + s.fencedPorts.length

/-- The bodies of capability entries change: their `SEQ` advances to the next even value (R432). -/
def State.capChange (s : State) (ids : List Nat) : State :=
  { s with mgmt := { s.mgmt with capSeq := ids.foldl (fun v k => vset v (k - 1) (vget 0 v (k - 1) + 2)) s.mgmt.capSeq } }

/-- Firmware requests replacement once the fenced units reach the threshold, and sends MSI-X vector 0 (R435). -/
def State.checkReplace (s : State) : State :=
  let n := s.fencedUnits
  if s.mgmt.replace || n == 0 || n < s.mgmt.threshold then s
  else { s with mgmt := { s.mgmt with replace := true }, host := { s.host with sent := s.host.sent ++ [0] } }

/-- A failure-log record of a unit (Table 10). -/
def State.logUnit (s : State) (tick : W64) (kind step unitKind unit : Nat) : State :=
  s.logFailure { w0 := tick, w1 := w64 (kind + step * 2 ^ 8 + unitKind * 2 ^ 16 + unit * 2 ^ 24), w2 := 0, w3 := 0 }

/-! ## Bring-up (R426, R427, R435) -/

/-- What a module reset leaves: nothing but memory, the firmware image, the failure log and the host's link (notes/assumptions/23.md). -/
def State.afterReset (s : State) : State :=
  { State.reset with
    a1 := s.a1, mem := s.mem, hostMem := s.hostMem, stepNo := s.stepNo, freeCtr := s.freeCtr, agenda := s.agenda,
    host := { HostPort.init with trained := s.host.trained, rate := s.host.rate, width := s.host.width, cxl := s.host.cxl, sent := s.host.sent },
    mgmt := { Mgmt.init with image := s.mgmt.image, log := s.mgmt.log } }

/-- The safe state (R428). -/
def State.safe (s : State) (step unit : Nat) : State := { s with mgmt := { s.mgmt with state := 4, failStep := step, failUnit := unit } }

/-- An array that fails and cannot be fenced: one that belongs to no core (R430, R432). -/
def sramFault (b : BringUp) : Option Nat := b.arrays.find? fun n => 0x2000 ≤ n

/-- The units that a bring-up fences, in the order of its steps: step, kind and number. -/
def BringUp.fences (b : BringUp) : List (Nat × Nat × Nat) :=
  b.arrays.map (fun n => (2, 5, n)) ++ b.cores.map (fun c => (3, 1, c)) ++ b.clusters.map (fun c => (3, 0, c)) ++ b.hbmFail.map (fun k => (4, 3, k)) ++
    b.ports.map fun p => (5, 4, p)

/-- `FAILUNIT` of a fenced unit: a stack, port, row or array number. -/
def failUnitOf (u : Nat × Nat × Nat) : Nat :=
  match u.2.1 with
  | 1 => rowOf u.2.2
  | 0 => u.2.2 * 4
  | _ => u.2.2

/-- Log what one step of bring-up fences. -/
def State.logFences (s : State) (tick : W64) (b : BringUp) (steps : List Nat) : State :=
  ((BringUp.fences b).filter fun u => steps.contains u.1).foldl (fun (s : State) u => s.logUnit tick 1 u.1 u.2.1 u.2.2) s

/-- Steps 2 and 3: fence what failed, an array with its core. -/
def State.fenceLogic (s : State) (b : BringUp) : State :=
  let s := (b.arrays.map (· / 4) ++ b.cores).foldl (fun (s : State) c => s.setCore c { s.core c with fenced := true }) s
  let s := b.clusters.foldl (fun (s : State) c => s.setCluster c { s.cluster c with fenced := true }) s
  s.logFences 0 b [2, 3]

/-- Step 4: fence the stacks that do not train. -/
def State.fenceStacks (s : State) (b : BringUp) : State :=
  ({ s with mgmt := { s.mgmt with fencedStacks := (b.hbmFail.filter (· < 32)).eraseDups } }).logFences 0 b [4]

/-- Step 5: link training. A port that fails is fenced; `GTICK` is aligned with the linked modules', to a value that the spec leaves open (01
R12, 22 R376). -/
def State.trainLinks (s : State) (b : BringUp) : State :=
  let s := (List.range 24).foldl (fun (s : State) p =>
    s.setPort p { s.port p with up := !b.ports.contains p, fenced := b.ports.contains p }) s
  let (t, s) := s.freeNat (2 ^ 62)
  let s := { s with cycle := 2 * t }
  s.logFences s.gtick64 b [5]

/-- A domain as firmware configures it. -/
def domainOf (d : DomainCfg) : Domain :=
  { valid := d.valid, root := d.root, tvec := d.tvec, key := d.key, ceiling := d.ceiling, sealRight := d.sealRight, areas := d.saveAreas }

/-- Step 6: the image's settings; the hubs start. -/
def State.configure (s : State) (c : FwConfig) : State :=
  let (cap, s) := s.freeNat 2048
  let (draw, s) := s.freeWord
  let s := c.owners.foldl (fun (s : State) (o : Nat × Nat) =>
    let k := s.cluster (o.1 / 4)
    s.setCluster (o.1 / 4) { k with owner := vset k.owner (o.1 % 4) (some o.2) }) s
  { s with
    domains := vec Domain.init (c.domains.map domainOf), quantum := c.quantum, watchdog := c.watchdog,
    localMap := c.localMap || !s.mgmt.fencedStacks.isEmpty,
    rings := vec RotRing.init (c.rings.map fun d => { RotRing.init with desc := RotRing.descOf d }), live := true,
    mgmt := { s.mgmt with state := 3, version := c.version, capptr := 0x1000 + 16 * cap, power := draw.setWidth 32, powerCap := c.powerCap, threshold := c.threshold } }

/-- The steps of Table 1. -/
def State.bringUp (s : State) (b : BringUp) : State :=
  let reject := (s.safe 1 0).logUnit 0 7 1 0 0
  match s.mgmt.image with
  | none => reject
  | some img =>
    if !img.valid then reject
    else match sramFault b with
      | some a => b.arrays.foldl (fun (s : State) n => s.logUnit 0 1 2 5 n) (s.safe 2 (b.arrays.headD a))
      | none =>
        let t := s.fenceLogic b
        let first := (BringUp.fences b).head?
        let step := (first.map (·.1)).getD 0
        let unit := (first.map failUnitOf).getD 0
        if t.usableRows == 0 then t.safe 3 unit
        else if 32 ≤ b.hbmFail.eraseDups.length then (t.fenceStacks b).safe 4 unit
        else
          let t := (t.fenceStacks b).trainLinks b
          let t := { t with mgmt := { t.mgmt with failStep := step, failUnit := unit } }
          (t.configure img.cfg).checkReplace

/-- A module reset, with what the tests of this bring-up find; a stack that has failed in service is fenced by it (R435). -/
def State.restart (s : State) (b : BringUp) : State :=
  s.afterReset.bringUp { b with hbmFail := b.hbmFail ++ s.mgmt.failedStacks.filter fun k => !b.hbmFail.contains k }

/-- MODULE_RESET. -/
def execModuleReset (b : BringUp) (s : State) : Host.Outcome State Fault Refusal := event (s.restart b)

/-! ## The mailbox (R428, Tables 2 and 3) -/

/-- A command has completed. -/
def State.mailDone (s : State) (stat : Nat) : State := { s with mgmt := { s.mgmt with mstat := stat, busy := false } }
/-- An argument register. -/
def State.marg (s : State) (k : Nat) : W64 := vget 0 s.mgmt.margs k
/-- A result. -/
def State.setMarg (s : State) (k : Nat) (v : W64) : State := { s with mgmt := { s.mgmt with margs := vset s.mgmt.margs k v } }
/-- The four results of a record. -/
def State.margRec (s : State) (r : Rec4) : State := { s with mgmt := { s.mgmt with margs := #v[r.w0, r.w1, r.w2, r.w3] } }

/-- A command is issued by a write of `MCMD`, which is ignored while another runs; it is refused when `STATE` does not allow it. -/
def mailCmd (s : State) (code : Nat) (safe : Bool) (f : State → State) : Host.Outcome State Fault Refusal :=
  event (if s.mgmt.busy && s.mgmt.mcmd != code then s
    else
      let s := { s with mgmt := { s.mgmt with mcmd := code, busy := true } }
      if !safe && s.mgmt.state != 3 then s.mailDone 2 else f s)

/-- READ_FAILURE_LOG, R430: the next record, oldest first, or a record of kind 0. -/
def execReadFailureLog (s : State) : Host.Outcome State Fault Refusal :=
  mailCmd s 0x0001 true fun s => match s.mgmt.log with
    | [] => (s.margRec { w0 := 0, w1 := 0, w2 := 0, w3 := 0 }).mailDone 0
    | r :: rest => ({ s.margRec r with mgmt := { (s.margRec r).mgmt with log := rest } }).mailDone 0

/-- STAGE_IMAGE, R431: the controller reads the image and verifies it. -/
def execStageImage (img : Image) (s : State) : Host.Outcome State Fault Refusal :=
  mailCmd s 0x0010 true fun s =>
    if img.valid then ({ s with mgmt := { s.mgmt with staged := some img } }).mailDone 0
    else (s.logUnit s.gtick64 7 1 0 0).mailDone 4

/-- COMMIT_IMAGE, R431. -/
def execCommitImage (s : State) : Host.Outcome State Fault Refusal :=
  mailCmd s 0x0011 true fun s => match s.mgmt.staged with
    | some img => ({ s with mgmt := { s.mgmt with image := some img } }).mailDone 0
    | none => s.mailDone 4

/-- MODULE_RESET_COMMAND, R428. -/
def execModuleResetCommand (b : BringUp) (s : State) : Host.Outcome State Fault Refusal :=
  mailCmd s 0x00FF true fun s => s.restart b

/-- POWER_LOSS, R431: nothing survives but the firmware image, which a commit of a verified image in progress leaves invalid. -/
def execPowerLoss (s : State) : Host.Outcome State Fault Refusal :=
  let torn := s.mgmt.busy && s.mgmt.mcmd == 0x0011 && s.mgmt.staged.isSome
  let img := s.mgmt.image.map fun i : Image => if torn then { i with valid := false } else i
  event { State.reset with
    a1 := s.a1, hostMem := s.hostMem, stepNo := s.stepNo, freeCtr := s.freeCtr, agenda := s.agenda,
    mgmt := { Mgmt.init with image := img } }

/-! ## Policies (R434) -/

/-- Has the memory map been used since bring-up: a record was accepted, a word is registered, a message is on its way, or the host holds a
line? -/
def State.mapUsed (s : State) : Bool :=
  !s.net.isEmpty || !s.host.hdm.isEmpty || (s.slices.any fun e => !e.2.table.isEmpty || !e.2.queue.isEmpty) ||
    s.hubs.any fun e => e.2.admits != 0 || !e.2.slots.isEmpty

/-- A policy of Table 4: the new state, or none for an argument outside its limits. The domain of a priority ceiling stands in bits `[3:0]` of
the value, the ceiling in `[12:8]` (notes/assumptions/24.md). With a fenced stack the map stays local (R435). -/
def State.policy (s : State) (item : Nat) (v : Nat) : Option State :=
  let domain (d : Nat) (f : Domain → Domain) : State := { s with domains := vset s.domains d (f (s.domain d)) }
  match item with
  | 1 => some { s with quantum := v }
  | 2 => if v ≤ 1 then some ({ s with localMap := v == 1 || !s.mgmt.fencedStacks.isEmpty }.capChange [3]) else none
  | 3 => some { s with watchdog := v }
  | 4 => if bitsOf v 12 8 ≤ 23 && v / 2 ^ 13 == 0 && bitsOf v 7 4 == 0 then
      some ((domain (v % 16) fun d => { d with ceiling := bitsOf v 12 8 }).capChange [8]) else none
  | 5 => if 1000 ≤ v && v ≤ 6400 then some ({ s with mgmt := { s.mgmt with powerCap := v } }.capChange [7]) else none
  | 6 => some ({ s with mgmt := { s.mgmt with threshold := v } }).checkReplace
  | 7 =>
    if v / 2 ^ 16 != 0 then none
    else some ({ s with domains := vec Domain.init ((List.range 16).map fun d => { s.domain d with sealRight := v / 2 ^ d % 2 == 1 }) }.capChange [8])
  | _ => none

/-- SET_POLICY. The memory map is selected at bring-up and kept until the next module reset (09 R164), which no setting survives (R427).
DESIGN CHOICE: the command selects it until the map is used for the first time, and is refused in this state afterwards
(notes/assumptions/24.md). Unsafe: hardware may answer otherwise. -/
def execSetPolicy (s : State) : Host.Outcome State Fault Refusal :=
  mailCmd s 0x0020 false fun s => if s.marg 0 == 2 && s.mapUsed then s.mailDone 2 else match s.policy (s.marg 0).toNat (s.marg 1).toNat with
    | some s => s.mailDone 0
    | none => s.mailDone 3

/-! ## Capabilities (R432, R433) -/

/-- PRESENT_DRAW_REFRESH, R433: `SEQ` is odd only within the step. -/
def execPresentDrawRefresh (w : BitVec 32) (s : State) : Host.Outcome State Fault Refusal :=
  event (if s.mgmt.state == 3 then { s with mgmt := { s.mgmt with power := w } }.capChange [7] else s)

/-- A bitmap of `n` bytes. -/
def bitmap (n : Nat) (ks : List Nat) : List Byte := lil n (ks.foldl (fun m k => m + 2 ^ k) 0)

/-- The absent ranges (R435): in local mode each fenced stack's 64 GiB. -/
def State.absent (s : State) : List (Nat × Nat) := s.mgmt.fencedStacks.map fun k => (k * 2 ^ 36, 2 ^ 36)

/-- The body of a capability entry (Table 11). -/
def State.capBody (s : State) (id : Nat) : List Byte :=
  let dom (f : Domain → Nat) : List Nat := (List.range 16).map fun d => f (s.domain d)
  match id with
  | 1 => [0x59, 0x56, 0x4C, 0x2D, 0x39, 0x34, 0x30, 0x38] ++ lil 1 (if s.a1 then 0xA1 else 0xB1) ++ lil 3 0 ++ lil 4 s.mgmt.version.toNat
  | 2 =>
    let rows := (List.range 256).filter fun r => !(List.range 8).any fun k => !s.coreFenced (r * 8 + k)
    lil 2 (2048 - s.fencedCores.length) ++ lil 2 (256 - rows.length) ++ lil 1 (64 - s.fencedClusters.length) ++
      lil 1 (32 - s.outStacks.length) ++ lil 1 (24 - s.fencedPorts.length) ++ lil 1 0 ++ lil 8 0 ++
      bitmap 256 s.fencedCores ++ bitmap 32 rows ++ bitmap 4 s.outStacks ++ bitmap 4 s.fencedPorts ++ bitmap 8 s.fencedClusters
  | 3 => lil 1 (natOf s.localMap) ++ lil 7 0 ++ lil 8 s.absent.length ++ s.absent.flatMap fun r => lil 8 r.1 ++ lil 8 r.2
  | 4 => lil 2 s.host.rate.toNat ++ lil 1 s.host.width.toNat ++ lil 1 (natOf s.host.cxl * 15) ++ lil 4 0
  | 5 =>
    let ds := s.rings.toList.map fun r : RotRing => if bitOf r.desc 63 then r.desc.toNat else 0
    lil 8 (ds.filter (· != 0)).length ++ ds.flatMap (lil 8)
  | 6 => lil 8 0x7E ++ lil 8 0
  | 7 => lil 4 s.mgmt.powerCap ++ lil 4 s.mgmt.power.toNat ++ lil 8 0
  | 8 => bitmap 2 ((List.range 16).filter fun d => (s.domain d).sealRight) ++ lil 14 0 ++ (dom Domain.ceiling).flatMap (lil 1)
  | _ => []

/-- `LEN` of an entry (Table 11), from the length of its body: entries 0x0006 and 0x0007 count 24 bytes and have 8 bytes of zeros beyond
(notes/assumptions/27.md). -/
def capLen (id body : Nat) : Nat := if id == 6 || id == 7 then 24 else 16 + body

/-- The capability list (R432): each entry's header with its length, the offset of the next entry and its `SEQ`, and then its body. -/
def State.capList (s : State) : List Byte :=
  (List.range 8).foldl (fun (l : List Byte) k =>
    let body := s.capBody (k + 1)
    let next := if k == 7 then 0 else s.mgmt.capptr + l.length + 16 + body.length
    l ++ lil 2 (k + 1) ++ lil 2 1 ++ lil 4 (capLen (k + 1) body.length) ++ lil 4 next ++ lil 4 (vget 0 s.mgmt.capSeq k).toNat ++ body) []

/-- The registers of the mailbox as doublewords (Table 2). -/
def State.mailWord (s : State) (off : Nat) : W64 :=
  let m := s.mgmt
  match off with
  | 0x00 => w64 (m.state + m.failStep * 2 ^ 4 + natOf m.replace * 2 ^ 8 + m.failUnit % 2 ^ 16 * 2 ^ 16)
  | 0x08 => w64 (if m.state == 4 then 0 else m.capptr)
  | 0x18 => s.marg 0
  | 0x20 => s.marg 1
  | 0x28 => s.marg 2
  | 0x30 => s.marg 3
  | 0x38 => w64 (natOf m.busy + m.mstat * 2 ^ 8)
  | _ => 0

end Sys2Proof.Machine
end

