-- ==== Sys2Proof/Machine/HostPort.lean ====
section
/-! DEFINITION. The host port (24 R399 to R405): training, BAR 0 with the doorbells, and HBM through BAR 2. -/

namespace Sys2Proof.Machine

/-- HOST_PORT_TRAINING, R399: the port's rate and width, and whether CXL was negotiated; without it the agent holds no line (R408), and the
host none of HBM. The port trains at no other rate or width. -/
def execHostPortTraining (rate width : BitVec 8) (cxl : Bool) (s : State) : Host.Outcome State Fault Refusal :=
  event (if !linkRate rate.toNat || !linkWidth width.toNat then s
    else
      let s := if cxl then s
        else s.host.hdm.foldl (fun (s : State) (h : HdmLine) => s.recall (h.line * 64))
          (s.host.lines.foldl (fun (s : State) (e : Nat × CxlLine) => s.hostFlush e.1) s)
      { s with host := { s.host with trained := true, rate := rate.setWidth 16, width := width, cxl := cxl } }.capChange [4])

/-! ## Doorbells (R403, R404) -/

/-- A doorbell. -/
def State.bell (s : State) (d : Nat) : Doorbell := vget Doorbell.init s.host.bells d
/-- Replace a doorbell. -/
def State.setBell (s : State) (d : Nat) (b : Doorbell) : State := { s with host := { s.host with bells := vset s.host.bells d b } }

/-- The posting write of a doorbell's `VEC`; it is ignored while `BUSY` is 1 and before bring-up has completed (26 R426). -/
def State.doorbell (s : State) (d vec : Nat) : State :=
  let b := s.bell d
  let b' := { b with vec := vec % 256 }
  if !s.live || b.busy then s
  else if b.addr.toNat % 64 != 0 || !(vec % 256 == 0 || (8 ≤ vec % 256 && vec % 256 ≤ 63)) then s.setBell d { b' with ans := 1 }
  else
    let unread := s.setBell d { b' with ans := 7 }
    if regionOf b.addr.toNat != .global then unread
    else match s.objRead [] d true b.addr.toNat 8 with
      | .error _ => unread
      | .ok bs =>
        let ws := (List.range 8).map fun k => w64 (leAt bs (8 * k) 8)
        let p : Post := { who := none, bell := some (d, vec % 256), die := recField ws 3 57 55, dom := d, addr := b.addr, words := ws, objs := [] }
        (s.setBell d { b' with busy := true }).send (.record p)

/-- DOORBELL_POST. -/
def execDoorbellPost (dom vec : Nat) (s : State) : Host.Outcome State Fault Refusal := event (if dom < 16 then s.doorbell dom vec else s)

/-! ## BAR 0 (R401) -/

/-- Is an access to BAR 0 one that it accepts? -/
def bar0Ok (off size : Nat) : Bool := (size == 4 || size == 8) && off % size == 0 && off < 2 ^ 21

/-- A doubleword with the bytes of a write of 4 or 8 bytes at an offset within it. -/
def mergeWrite (old : W64) (off size : Nat) (v : W64) : W64 :=
  if size == 8 then v else if off % 8 == 0 then w64 (old.toNat / 2 ^ 32 * 2 ^ 32 + v.toNat % 2 ^ 32)
  else w64 (old.toNat % 2 ^ 32 + v.toNat % 2 ^ 32 * 2 ^ 32)

/-- The event of a mailbox command. A bring-up that the host asks for finds every unit sound; an image that the controller reads is the
operand of its own event. -/
def commandOf (code : Nat) : Option Instr :=
  match code with
  | 0x0001 => some .readFailureLog
  | 0x0011 => some .commitImage
  | 0x0020 => some .setPolicy
  | 0x0030 => some .readTraceRegister
  | 0x0031 => some .writeTraceRegister
  | 0x0032 => some .claimLaunch
  | 0x0033 => some .releaseClaim
  | 0x0034 => some .haltGroup
  | 0x0035 => some .resumeOrStep
  | 0x0036 => some .readState
  | 0x0037 => some .writeState
  | 0x0038 => some .setWatchpoint
  | 0x0039 => some .reverseStep
  | 0x003A => some .stopAtTickCommand
  | 0x003B => some .readRegistrationEntry
  | 0x003C => some .readModuleCounter
  | 0x003D => some .readScratchpadWord
  | 0x003E => some .writeScratchpadWord
  | 0x003F => some .readDebugEvent
  | 0x0040 => some .fenceUnit
  | 0x00FF => some (.moduleResetCommand { arrays := [], cores := [], clusters := [], hbmFail := [], ports := [] })
  | _ => none

/-- A write of `MCMD` (26 R428). -/
def State.writeMcmd (s : State) (code : Nat) : State :=
  let t := { s with mgmt := { s.mgmt with mcmd := code, busy := true } }
  if s.mgmt.busy then s
  else if code == 0x0010 then t
  else match commandOf code with
    | some i => t.soon (.event i 0 0)
    | none => t.mailDone 1

/-- A write of a doorbell's registers. -/
def State.writeBell (s : State) (off size : Nat) (v : W64) : State :=
  let d := off / 32 % 16
  let b := s.bell d
  match off % 32 / 8 with
  | 0 => if !s.live || b.busy then s else s.setBell d { b with addr := mergeWrite b.addr off size v }
  | 1 => if off % 8 == 0 then s.doorbell d (v.toNat % 256) else s
  | _ => s

/-- REGISTER_WRITE: a write to a BAR 0 register sets the field by its access code (00 R4). -/
def execRegisterWrite (off size : Nat) (v : BitVec 64) (s : State) : Host.Outcome State Fault Refusal :=
  let a := off / 8 * 8
  event (if !bar0Ok off size then s
    else if a == 0x10 then if off == 0x10 then s.writeMcmd (v.toNat % 2 ^ 16) else s
    else if 0x18 ≤ a && a ≤ 0x30 then
      s.setMarg ((a - 0x18) / 8) (mergeWrite (s.marg ((a - 0x18) / 8)) off size v)
    else if 0x10000 ≤ a && a < 0x10200 then s.writeBell (off - 0x10000) size v
    else if 0x100000 ≤ a && a < 0x100400 then
      let k := (a - 0x100000) / 8
      { s with host := { s.host with msixTab := put 0 s.host.msixTab k (mergeWrite (look 0 s.host.msixTab k) off size v) } }
    else s)

/-- A doubleword of BAR 0 as a read returns it. -/
def State.bar0Word (s : State) (a : Nat) : W64 :=
  if a < 0x40 then s.mailWord a
  else if 0x10000 ≤ a && a < 0x10200 then
    let b := s.bell ((a - 0x10000) / 32)
    match a % 32 / 8 with
    | 0 => b.addr
    | 2 => b.ans
    | 3 => w64 (natOf b.busy)
    | _ => 0
  else if 0x100000 ≤ a && a < 0x100400 then look 0 s.host.msixTab ((a - 0x100000) / 8)
  else if a == 0x101000 then s.host.msixPba
  else if s.mgmt.capptr ≤ a && s.mgmt.state == 3 then w64 (natOfBytes ((s.capList.drop (a - s.mgmt.capptr)).take 8))
  else 0

/-- BAR0_INVALID_ACCESS, R401: an access of another size or alignment has no effect, and a read of that kind returns zero. A read that BAR 0
accepts returns the bytes of its register; no other step of the spec performs one. -/
def execBar0InvalidAccess (off size : Nat) (write : Bool) (s : State) : Host.Outcome State Fault Refusal :=
  let v := if bar0Ok off size then lil size ((s.bar0Word (off / 8 * 8)).toNat / 256 ^ (off % 8)) else List.replicate size 0
  event (if write then s else { s with host := { s.host with readVal := v } })

/-! ## BAR 2 (R402) -/

/-- `n` bytes that the spec does not state. -/
def State.freeBytes (s : State) : Nat → List Byte × State
  | 0 => ([], s)
  | k + 1 =>
    let (v, s) := s.freeWord
    let (bs, s) := State.freeBytes s k
    (v.setWidth 8 :: bs, s)

/-- The lines of HBM that the snoop filter of one plinth tracks for the host (R402). -/
def filterLines : Nat := 2 ^ 20

/-- The host may cache a line of HBM from now on, exclusively or not: the filter of the home's plinth (01 R9) tracks it, and a full filter evicts its oldest line
by back-invalidation (R402). -/
def State.hdmHold (s : State) (line : Nat) (excl : Bool) : State :=
  let plinth (l : Nat) : Nat := s.homeOf (l * 64) / 8 % 4
  if (s.hdmLine (line * 64)).isSome then
    { s with host := { s.host with hdm := s.host.hdm.map fun h => if h.line == line then { h with excl := h.excl || excl } else h } }
  else
    let mine := s.host.hdm.filter fun h => plinth h.line == plinth line
    let s := match mine.head? with
      | some h => if filterLines ≤ mine.length then s.recall (h.line * 64) else s
      | none => s
    { s with host := { s.host with hdm := s.host.hdm ++ [{ line := line, excl := excl, data := none }] } }

/-- Can the host cache a line: CXL is active, and no core owns a word of it (notes/assumptions/22.md)? -/
def State.hdmOk (s : State) (line : Nat) : Bool :=
  s.host.cxl && s.isHbm (line * 64) && (List.range 8).all fun k => (s.regEnt (line * 64 + 8 * k)).isNone

/-- BAR2_READ: bytes of HBM, as load requests at the words' homes. What a read returns of a word whose owner was lost, or of an absent
range, is not stated: free bytes. A read through CXL.mem may leave the line in the host's cache, exclusively when `hold` says so. -/
def execBar2Read (pa : Nat) (read : HostRead) (s : State) : Host.Outcome State Fault Refusal :=
  let n := read.n
  event (if !s.live || hbmEnd < pa + n then s
    else
      let s := s.served pa n
      let t := match if (List.range n).all fun k => s.isHbm (pa + k) then s.engineBytes pa n else .error .xlateNone with
        | .ok bs => { s with host := { s.host with readVal := bs } }
        | .error _ =>
          let (bs, s) := s.freeBytes n
          { s with host := { s.host with readVal := bs } }
      match read.hold with
      | some excl => if n != 0 && (pa + n - 1) / 64 == pa / 64 && t.hdmOk (pa / 64) then t.hdmHold (pa / 64) excl else t
      | none => t)

/-- Bytes that the host writes into a line of its own cache, when it holds the line exclusively. -/
def State.hdmStore (s : State) (pa : Nat) (bytes : List Byte) : Option State :=
  match s.hdmLine pa with
  | some h =>
    if !h.excl || 64 < pa % 64 + bytes.length then none
    else
      let old : Memory := h.data.getD (putBytes [] 0 (bytesAt s.mem (h.line * 64) 64))
      some { s with host := { s.host with hdm := s.host.hdm.map fun x =>
        if x.line == h.line then { x with data := some (putBytes old (pa % 64) bytes) } else x } }
  | none => none

/-- BAR2_WRITE: bytes of HBM, written at the words' homes after revoking registrations; a narrow write of a LOST word is refused
(09 R181). A write into a line that the host's own cache holds exclusively stays there until a home asks for it. -/
def execBar2Write (pa : Nat) (write : HostWrite) (s : State) : Host.Outcome State Fault Refusal :=
  let bytes := write.bytes
  event (if !s.live || hbmEnd < pa + bytes.length then s
    else match if write.cached then s.hdmStore pa bytes else none with
      | some t => t
      | none => (spParts pa bytes.length bytes).foldl (fun (s : State) (p : SpPart) =>
        if !s.isHbm p.off then s
        else match s.engineWrite p.off p.n p.data.toNat with
          | .ok s => s
          | .error _ => s) s)

end Sys2Proof.Machine
end

