-- ==== Sys2Proof/Machine/Vcvt.lean ====
section
/-! DEFINITION. VCVT (08 R151 to R154): vector conversions. -/

namespace Sys2Proof.Machine

/-- The integer format of an I tag. -/
def intOfTag (tag : Nat) : IntFmt := { width := tagBits tag, signed := true }

/-- A source element's value converted to a format that is not block-scaled (R152, 06 R86, R92). -/
def convert (src dst : Nat) (mode : RMode) (x : Num) : Nat × Flg :=
  match tagFp dst with
  | some f => f.ofNum mode x
  | none =>
    if dst == 5 then t8.ofNum x
    else match tagFp src with
      | some _ => (intOfTag dst).ofIeee mode x
      | none => if tagInt src then
          (match x with
            | .fin n m e => (intOfTag dst).clamp (asMultiple n m e 0)
            | _ => (0, 0))
        else (intOfTag dst).ofTapered mode x

/-- A conversion is narrowing (06, AMAX): fewer bits per element, or a tapered or block-scaled destination. 06 Table 4 gives T8B, T6B and
INT8B the element bits "8 + scale". DESIGN CHOICE: the scale is not counted as an element's bits, so a conversion of one of them to I8 is not
narrowing (notes/assumptions/32.md). Unsafe: hardware may update `AMAX` there. -/
def narrowing (src dst : Nat) : Bool := tagBits dst < tagBits src || dst == 5 || tagBlock dst

/-- The lanes a conversion reads and writes (R151): the first source lane, the first destination lane, how many; none for an
offset that breaks the conditions. -/
def laneSpan (ls lt e0 : Nat) : Option (Nat × Nat × Nat) :=
  if lt ≤ ls then (if e0 % lt == 0 && e0 + lt ≤ ls then some (e0, 0, lt) else none)
  else (if e0 % ls == 0 && e0 + ls ≤ lt then some (0, e0, ls) else none)

/-- Replace the lanes of a list from a place on. -/
def spliceLanes (old new : List Nat) (k : Nat) : List Nat := old.take k ++ new ++ old.drop (k + new.length)

/-- The values of a register's lanes, under its tag or the tag that a dead register counts as. -/
def VReg.nums (v : VReg) (tag : Nat) : List Num :=
  let n := tagBits tag
  (((lanesOf n v.data).zip (List.range (256 / n))).map fun e => elemNum tag e.1 (sideByte v.side (e.2 / 4)))

/-- `vcvt`, R151, R152. -/
def execVcvt (fmt : VM) (rm : Rm) (d a : Reg) (e0 : BitVec 5) (s : State) : Host.Outcome State Fault Refusal :=
  let i : Instr := .vcvt fmt rm d a e0
  finish s.cur (do
    let th ← getMe s
    needLive s th [] [a]
    let dst := (tagVM fmt).toNat
    let src := if (th.rv a).live then (th.rv a).tag.toNat else dst
    let lt := 256 / tagBits dst
    if tagBits src == 0 then raise s .format (lowBits i)
    else match laneSpan (256 / tagBits src) lt e0.toNat with
      | none => raise s .format (lowBits i)
      | some (from_, dest, n) =>
        let xs := (((th.rv a).nums src).drop from_).take n
        let rs := (xs.zip (List.range n)).map fun e => convert src dst (th.mode rm (dest + e.2)) e.1
        let ls := spliceLanes (lanesOf (tagBits dst) (th.rv d).data) (rs.map (·.1)) dest
        fpRetire s th (List.replicate dest 0 ++ rs.map (·.2)) fun th =>
          let th := (th.wv d (packLanes (tagBits dst) ls) (tagVM fmt) 0).amaxOf (narrowing src dst) xs
          (if dst == 5 then th else th.drawn rm lt).advance 8)

/-! ## Block scales (R153) -/

/-- The headroom that a block-scaled format has unless one is named. -/
def headroom (dst : Nat) : Nat :=
  match dst with
  | 6 => 11
  | 7 => 3
  | _ => 6

/-- The larger of two magnitudes; a NaN has none. -/
def largerMag (a b : Num) : Num :=
  match a, b with
  | .nan _, b => b
  | a, .nan _ => a
  | .inf _, _ => a
  | _, .inf _ => b
  | .zero _, b => b
  | a, .zero _ => a
  | .fin _ m e, .fin _ l f => if (cmpMag l f m e).1 then b else a

/-- The scale byte of a block (R153). -/
def blockScale (h : Nat) (xs : List Num) : Nat :=
  match xs.foldl largerMag (.nan false) with
  | .nan _ | .zero _ => 127
  | .inf _ => 254
  | .fin _ m e =>
    let v : Int := e + (Nat.log2 m : Nat) - h + 127
    (max 1 (min v 254)).toNat

/-- An element of a block under its scale (R153). -/
def blockElem (dst scale : Nat) (mode : RMode) (x : Num) : Nat × Flg :=
  let y := x.scale (127 - (scale : Int))
  match dst with
  | 6 => t8.ofNum y
  | 7 => t6.ofNum y
  | _ => ({ width := 8, signed := true } : IntFmt).ofTapered mode y

/-- One block: its scale byte, and its elements with their conditions; `j` is its first destination lane. -/
def blockOf (dst h : Nat) (mode : Nat → RMode) (j : Nat) (xs : List Num) : Nat × List (Nat × Flg) :=
  if dst == 12 && xs.any Num.isNan then (255, [(0, fNV), (0, 0), (0, 0), (0, 0)])
  else
    let e := blockScale h xs
    (e, (xs.zip (List.range 4)).map fun x => blockElem dst e (mode (j + x.2)) x.1)

/-- The blocks of a list of values. -/
def blocksOf (dst h : Nat) (mode : Nat → RMode) (n j : Nat) (xs : List Num) : List (Nat × List (Nat × Flg)) :=
  match n with
  | 0 => []
  | k + 1 => blockOf dst h mode j (xs.take 4) :: blocksOf dst h mode k (j + 4) (xs.drop 4)

/-- Replace bytes of a sidecar from a block on. -/
def putSide (side : W64) (b : Nat) (es : List Nat) : W64 :=
  BitVec.ofNat 64 (packNat 8 (spliceLanes ((List.range 8).map (sideByte side)) es b))

/-- `vcvt.blk`, R153. -/
def execVcvtBlk (fmt : MFmt) (rm : Rm) (d a : Reg) (e0 : BitVec 5) (h : BitVec 4) (he : Bool) (s : State) :
    Host.Outcome State Fault Refusal :=
  let i : Instr := .vcvtBlk fmt rm d a e0 h he
  finish s.cur (do
    let th ← getMe s
    needLive s th [] [a]
    let dst := (tagM fmt).toNat
    let src := if (th.rv a).live then (th.rv a).tag.toNat else 10
    if !(src == 8 || src == 9 || src == 10) then raise s .format (lowBits i)
    else match laneSpan (256 / tagBits src) 32 e0.toNat with
      | none => raise s .format (lowBits i)
      | some (_, dest, n) =>
        let xs := (th.rv a).nums src
        let bs := blocksOf dst (if he then h.toNat else headroom dst) (th.mode rm) (n / 4) dest xs
        let es := bs.flatMap (·.2)
        let ls := spliceLanes (lanesOf 8 (th.rv d).data) (es.map (·.1)) dest
        fpRetire s th (List.replicate dest 0 ++ es.map (·.2)) fun th =>
          let side := putSide (th.rv d).side (dest / 4) (bs.map (·.1))
          let th := (th.wv d (packLanes 8 ls) (tagM fmt) side).amaxOf true xs
          (if dst == 12 then th.drawn rm 32 else th).advance 8)

/-! ## `vpack` and `vunpack` (R154) -/

/-- The width of an integer of coding V. -/
def widthV (f : VFmt) : Nat := tagBits (tagV f).toNat

/-- `vpack`, R154. -/
def execVpack (fmt : VFmt) (d a b : Reg) (u : Bool) (s : State) : Host.Outcome State Fault Refusal :=
  let n := widthV fmt
  vectorOp s (.vpack fmt d a b u) [] [a, b] (tagI (2 * n)) fun th =>
    let vs := (th.lanes (2 * n) false a ++ th.lanes (2 * n) false b).map (sv (2 * n))
    let rs := vs.map fun v => ({ width := n, signed := !u } : IntFmt).clamp v
    (rs.map (·.2), fun t => (t.putLanes n false d (tagI n) (rs.map (·.1))).amaxOf true (vs.map numOfInt))

/-- `vunpack`, R154. -/
def execVunpack (fmt : VFmt) (d a : Reg) (hi z : Bool) (s : State) : Host.Outcome State Fault Refusal :=
  let n := widthV fmt
  let l := 256 / n
  vectorOp s (.vunpack fmt d a hi z) [] [a] (tagI (n / 2)) fun th =>
    let xs := ((th.lanes (n / 2) false a).drop (if hi then l else 0)).take l
    ([], fun t => t.putLanes n false d (tagI n) (xs.map fun x => if z then x else bitsN n (sv (n / 2) x)))

end Sys2Proof.Machine
end

