-- ==== Sys2Proof/Machine/Sp.lean ====
section
/-! DEFINITION. SPM (08 R139, R162): the stream pointers. -/

namespace Sys2Proof.Machine

/-- Write a stream pointer. -/
def Thread.setP (th : Thread) (k : Nat) (v : BitVec 21) : Thread := { th with p := vset th.p k v }

/-- `sp.set`, R162. -/
def execSpSet (d a : Reg) (imm : ImmA) (s : State) : Host.Outcome State Fault Refusal :=
  scalar s [a] fun th => (th.setP d.toNat ((th.rx a + immA imm).setWidth 21)).advance (sizeA imm)

/-- `sp.rd`, R162. -/
def execSpRd (d a : Reg) (s : State) : Host.Outcome State Fault Refusal :=
  toX s 8 d [] fun th => (vget 0 th.p a.toNat).setWidth 64

end Sys2Proof.Machine
end

