-- ==== Sys2Proof/Machine/Vmem.lean ====
section
/-! DEFINITION. VMEM (10 R197 to R200): vector loads and stores, gathers and scatters. -/

namespace Sys2Proof.Machine

/-- The scalar register that a base reads, if any (R197). -/
def baseReg (b : VBase) : List Reg :=
  match b with
  | .reg a _ | .regLong a _ => [a]
  | .ptr _ _ => []

/-- The address of a base (R198). -/
def Thread.vea (th : Thread) (b : VBase) : Nat :=
  match b with
  | .reg a disp => (th.rx a + disp.signExtend 64).toNat
  | .regLong a disp => (th.rx a + disp.signExtend 64).toNat
  | .ptr p _ => (vget 0 th.p p.toNat).toNat

/-- The post-increment of a pointer (08 R140), at retirement. -/
def Thread.bump (th : Thread) (b : VBase) : Thread :=
  match b with
  | .ptr p true => th.setP p.toNat (vget 0 th.p p.toNat + (vget 0 th.pstride p.toNat).setWidth 21)
  | _ => th

/-- The length of the instruction in bytes. -/
def vlen (b : VBase) : Nat :=
  match b with
  | .regLong _ _ => 12
  | _ => 8

/-- Lanes of 8 bits from packed T6 codes (06 R91). -/
def unpackT6 (v n : Nat) : List Nat := (List.range n).map fun j => v / 2 ^ (6 * j) % 64

/-- The bytes of a register's data in memory: 24 for T6B, else 32 (R198). -/
def vbytes (tag : BitVec 4) : Nat := if tag == 7 then 24 else 32

/-- The data as memory holds it. -/
def toMemory (tag : BitVec 4) (data : W256) : Nat := if tag == 7 then packNat 6 (lanesOf 8 data) else data.toNat
/-- The data as the register holds it. -/
def fromMemory (tag : BitVec 4) (v : Nat) : W256 := if tag == 7 then packLanes 8 (unpackT6 v 32) else BitVec.ofNat 256 v

/-- The runs of `vld` and `vst`: the data, and the scale array of a block-scaled format (R198). -/
def vruns (th : Thread) (tag : BitVec 4) (b : VBase) (c : Reg) (data : W256) (side : W64) : List Run :=
  { ea := th.vea b, n := vbytes tag, align := tagBits tag.toNat / 8, data := toMemory tag data } ::
    (if blockTag tag then [{ ea := (th.rx c).toNat, n := 8, align := 1, data := side.toNat }] else [])

/-- The scalar registers that `vld` and `vst` read. -/
def vregs (tag : BitVec 4) (b : VBase) (c : Reg) : List Reg := baseReg b ++ (if blockTag tag then [c] else [])

/-- `vld`, R198. -/
def execVld (fmt : VM) (ord : MemOrd) (scope : Scope) (reuse : BitVec 3) (d : Reg) (base : VBase) (c : Reg) (s : State) :
    Host.Outcome State Fault Refusal :=
  let tag := tagVM fmt
  finish s.cur (do
    let th ← getMe s
    needLive s th (vregs tag base c) []
    let (s, vals) ← loadRuns s true ord scope reuse.toNat (vruns th tag base c 0 0)
    let th ← getMe s
    .ok (s.retire (((th.wv d (fromMemory tag (vals.getD 0 0)) tag (w64 (vals.getD 1 0))).bump base).advance (vlen base))))

/-- FORMAT unless a live store source carries the format's tag, or RAW for one that is not block-scaled (R198, R199). -/
def needStoreTag (s : State) (th : Thread) (i : Instr) (tag : BitVec 4) (b : Reg) : Do Unit :=
  let v := th.rv b
  if !v.live || v.tag == tag || (v.tag == 0 && !blockTag tag) then .ok () else raise s .format (lowBits i)

/-- `vst`, R198. -/
def execVst (fmt : VM) (ord : MemOrd) (scope : Scope) (b : Reg) (base : VBase) (c : Reg) (s : State) :
    Host.Outcome State Fault Refusal :=
  let tag := tagVM fmt
  finish s.cur (do
    let th ← getMe s
    needLive s th (vregs tag base c) [b]
    needStoreTag s th (.vst fmt ord scope b base c) tag b
    let s ← storeRuns s true ord scope (vruns th tag base c (th.rv b).data (th.rv b).side)
    let th ← getMe s
    .ok (s.retire ((th.bump base).advance (vlen base))))

/-- The addresses of the lanes of `vldg` and `vsts` (R199). -/
def laneEas (n : Nat) (base : W64) (idx : W256) : List Nat :=
  (lanesOf n idx).map fun x => (base + sext n x * w64 (n / 8)).toNat

/-- The runs of a gather or scatter: one for each lane. -/
def laneRuns (n : Nat) (eas data : List Nat) : List Run :=
  (eas.zip data).map fun e => { ea := e.1, n := n / 8, align := n / 8, data := e.2 }

/-- FORMAT unless the index register carries the I tag of the width (R199). -/
def needIndex (s : State) (th : Thread) (i : Instr) (n : Nat) (r : Reg) : Do Unit :=
  let v := th.rv r
  if !v.live || v.tag == tagI n then .ok () else raise s .format (lowBits i)

/-- `vldg`, R199. -/
def execVldg (fmt : VM) (ord : MemOrd) (scope : Scope) (reuse : BitVec 3) (d a b : Reg) (long : Bool) (s : State) :
    Host.Outcome State Fault Refusal :=
  let tag := tagVM fmt
  let n := tagBits tag.toNat
  finish s.cur (do
    let th ← getMe s
    needLive s th [a] [b]
    needIndex s th (.vldg fmt ord scope reuse d a b long) n b
    let eas := laneEas n (th.rx a) (th.rv b).data
    let (s, vals) ← loadRuns s true ord scope reuse.toNat (laneRuns n eas (eas.map fun _ => 0))
    let th ← getMe s
    .ok (s.retire ((th.wv d (packLanes n vals) tag 0).advance (if long then 12 else 8))))

/-- `vsts`, R199: lanes in ascending order. -/
def execVsts (fmt : VM) (ord : MemOrd) (scope : Scope) (a b c : Reg) (long : Bool) (s : State) :
    Host.Outcome State Fault Refusal :=
  let tag := tagVM fmt
  let n := tagBits tag.toNat
  let i : Instr := .vsts fmt ord scope a b c long
  finish s.cur (do
    let th ← getMe s
    needLive s th [a] [b, c]
    needIndex s th i n c
    needStoreTag s th i tag b
    let s ← storeRuns s true ord scope (laneRuns n (laneEas n (th.rx a) (th.rv c).data) (lanesOf n (th.rv b).data))
    let th ← getMe s
    .ok (s.retire (th.advance (if long then 12 else 8))))

end Sys2Proof.Machine
end

