-- ==== Sys2Proof/Machine/Tile.lean ====
section
/-! DEFINITION. TILE (16 R275, R276, R290 to R292): tile registers, and their loads, stores, conversions and moves. -/

namespace Sys2Proof.Machine

/-! ## Tile registers -/

/-- A tile of a group. -/
def Group.tile (g : Group) (r : Reg) : Tile := vget { data := [], side := [], shape := 0 } g.tiles r.toNat
/-- Replace a tile. -/
def Group.setTile (g : Group) (r : Reg) (t : Tile) : Group := { g with tiles := vset g.tiles r.toNat t }
/-- `ROWS`. -/
def Tile.rows (t : Tile) : Nat := fld t.shape 14 8
/-- `COLS`. -/
def Tile.cols (t : Tile) : Nat := fld t.shape 22 16
/-- `FMT`. -/
def Tile.fmt (t : Tile) : Nat := fld t.shape 3 0
/-- A shape (R276). -/
def shapeOf (fmt rows cols : Nat) : W64 := w64 (fmt + rows * 2 ^ 8 + cols * 2 ^ 16)

/-- The element width in bytes of a tile format (R275). -/
def tileW (fmt : Nat) : Nat := if fmt == 8 || fmt == 9 then 2 else 1

/-- The code of an element (R275). -/
def Tile.code (t : Tile) (r c : Nat) : Nat := readN t.data (64 * r + c * tileW t.fmt) (tileW t.fmt)
/-- The scale byte of an element's block. -/
def Tile.scale (t : Tile) (r c : Nat) : Nat := (byteAt t.side (16 * r + c / 4)).toNat
/-- The value of an element, its scale applied (06 R93). -/
def Tile.num (t : Tile) (r c : Nat) : Num := elemNum t.fmt (t.code r c) (t.scale r c)

/-- Wait for the operations that read a tile (R283). -/
def tileFree (s : State) (r : Reg) : Do Unit := if s.tileBusy s.cur.core r.toNat then waitFor s .latch else .ok ()

/-- Retire with a tile written. -/
def State.retireTile (s : State) (r : Reg) (t : Tile) (len : Nat) : State :=
  match s.group s.cur.core with
  | some g => (s.setGroup s.cur.core (g.setTile r t)).retireNext len
  | none => s

/-! ## Rows of memory (R291) -/

/-- The bytes of a row: 3 for each four T6B codes. -/
def rowBytes (tag : Nat) (cols : Nat) : Nat := if tag == 7 then 3 * ((cols + 3) / 4) else cols * tileW tag

/-- The runs of one row: its data, and its scale bytes for a block-scaled format. -/
def rowRuns (th : Thread) (tag cols : Nat) (a b c : Reg) (imm : ImmA) (data side : Nat) (r : Nat) : List Run :=
  let k := w64 r
  { ea := (th.rx a + immA imm + k * th.rx b).toNat, n := rowBytes tag cols, align := tileW tag, data := data } ::
    (if tagBlock tag then
      let nb := (cols + 3) / 4
      [{ ea := (th.rx c + k * w64 nb).toNat, n := nb, align := 1, data := side }]
    else [])

/-- The scalar registers that `tld` and `tst` read. -/
def tileRegs (tag : Nat) (a b c : Reg) : List Reg := [a, b] ++ (if tagBlock tag then [c] else [])

/-- The parts of a row. -/
def rowParts (ps : List Part) (per r : Nat) : List Part := ps.filter fun p => p.run / per == r

/-- Step the scratchpad windows of the rows from `r` on, in ascending order, near ones and far ones (R291): a row waits until every window of
the rows before it is performed. -/
def stepRows (n : Nat) (s : State) (g : Group) (seq : Nat) (asked : List Nat) (again miss : Bool) (got : Map W64) (ps : List Part)
    (per r : Nat) : Do (State × Map W64) :=
  match n with
  | 0 => .ok (s, got)
  | m + 1 =>
    let w := s.cur
    let open_ := (rowParts ps per r).filter fun p => (find got p.k).isNone
    let mine := nearParts open_
    let far := open_.filter fun p => p.tgt matches .far _ _
    let farAsk (s : State) (got : Map W64) : Do (State × Map W64) :=
      let todo := far.filter fun p => !asked.contains p.k
      waitIssued (s.loadFar w g seq true todo) w seq (asked ++ todo.map (·.k)) got miss .memory
    if mine.isEmpty then
      if far.isEmpty then stepRows m s g seq asked again miss got ps per (r + 1) else farAsk s got
    else match s.bankStep w.core g (ownWaiter w mine) again (s.issuedBy w) (nearKind w .ld) true .load mine with
      | .wait s => waitIssued s w seq asked got miss (if s.isParked w.core (ownWaiter w mine 0) then .tag else .memory)
      | .trap s code tag cls word => raise s .tag (tagTval w.core code tag cls word (nearKind w .ld))
      | .ok s vals =>
        if far.isEmpty then do
          let g ← getGroup s
          stepRows m s g seq asked false miss (bind got vals) ps per (r + 1)
        else farAsk s (bind got vals)

/-- A weak load of rows (R291): the values of their runs. What lies in no scratchpad is asked for at once. -/
def loadRows (s : State) (reuse : Nat) (rows : List (List Run)) : Do (State × List Nat) := do
  let w := s.cur
  let th ← getMe s
  let g ← getGroup s
  let q := th.prog
  let rs := rows.flatMap id
  let per := (rows.headD []).length
  match q.reply with
  | some (.trap c v) => raise s c v
  | _ =>
    let ps := q.partsOr (s.partsFrom w g th .read 0 0 rs)
    if q.seq == 0 then
      checkRuns s w g th .read rs
      overlapWait s w ps
    let (seq, s) := if q.seq == 0 then s.fresh else (q.seq, s)
    let s := s.holdParts w ps
    let todo := (q.todo ps).filter fun p => p.tgt matches .mem _ _
    let (s, hits, asked) := s.issueLoads w g seq true .weak .th reuse todo
    let asked := q.asked ++ asked
    let g ← getGroup s
    let miss := q.misses != 0 || missed ps asked
    let (s, got) ← stepRows rows.length s g seq asked (q.note == 1) miss (bind q.got hits) ps per 0
    if ps.all fun p => (find got p.k).isSome then .ok (s.noteLoad w ps miss, runVals ps got rs.length)
    else waitIssued s w seq asked got miss .memory

/-- The data and sidecar of a tile from the values of its rows' runs. -/
def tileFrom (tag cols : Nat) (rows : List (List Nat)) : Memory × Memory :=
  ((rows.zip (List.range rows.length)).foldl (fun (acc : Memory × Memory) (e : List Nat × Nat) =>
    let v := e.1.headD 0
    let d := if tag == 7 then packNat 8 (unpackT6 v cols) else v
    (writeN acc.1 (64 * e.2) (cols * tileW tag) d, writeN acc.2 (16 * e.2) ((cols + 3) / 4) (e.1.getD 1 0))) ([], []))

/-- The values, run by run, of each row. -/
def byRow (per n : Nat) (vals : List Nat) : List (List Nat) := (List.range n).map fun r => (vals.drop (r * per)).take per

/-- FORMAT unless a row of a format fits in 64 bytes. -/
def needWidth (s : State) (i : Instr) (cols tag : Nat) : Do Unit :=
  if cols * tileW tag ≤ 64 then .ok () else raise s .format (lowBits i)

/-- `tld`, R291: the operations that read the tile have retired when it issues (R283), and when it writes the tile. DESIGN CHOICE: one that waits
part-way writes the `ROWS` and `COLS` that the tile has when the last row is there, though another thread may have changed `TSHAPE` since the load
issued; R291 does not say which hold (notes/assumptions/32.md). Unsafe: hardware may keep those of the issue. -/
def execTld (fmt : MFmt) (reuse : BitVec 3) (d a b c : Reg) (imm : ImmA) (s : State) : Host.Outcome State Fault Refusal :=
  let i : Instr := .tld fmt reuse d a b c imm
  let tag := (tagM fmt).toNat
  finish s.cur (do
    let th ← getMe s
    let g ← getGroup s
    needAllot s g i [d] []
    needLive s th (tileRegs tag a b c) []
    let t := g.tile d
    if th.prog.seq == 0 then tileFree s d
    let rows := (List.range t.rows).map (rowRuns th tag t.cols a b c imm 0 0)
    if th.prog.seq == 0 then checkRuns s s.cur g th .read (rows.flatMap id)
    needWidth s i t.cols tag
    let (s', vals) ← loadRows s reuse.toNat rows
    if s'.tileBusy s.cur.core d.toNat then waitFor s .latch
    else
      let per := (rows.headD []).length
      let m := tileFrom tag t.cols (byRow per t.rows vals)
      .ok (s'.retireTile d { data := m.1, side := if tagBlock tag then m.2 else [], shape := shapeOf tag t.rows t.cols } (sizeA imm)))

/-- A row's data as memory holds it: T6B packed by 06 R91, codes beyond `COLS` zero. -/
def Tile.rowData (t : Tile) (tag r : Nat) : Nat :=
  if tag == 7 then packNat 6 ((List.range t.cols).map fun c => (byteAt t.data (64 * r + c)).toNat)
  else readN t.data (64 * r) (t.cols * tileW tag)

/-- A row's scale bytes. -/
def Tile.rowSide (t : Tile) (r : Nat) : Nat := readN t.side (16 * r) ((t.cols + 3) / 4)

/-- Keep how many rows of a `tst` are performed. -/
def State.rowsDone (s : State) (r : Nat) : State :=
  match s.me with
  | some th => s.setMe { th with prog := { th.prog with seq := 1, got := [(0, w64 r)], note := 0, stage := 0 } }
  | none => s

/-- Store `n` rows from `r` on as weak vector stores, one after the other (R291), of the parts that the core checked and translated when the
instruction issued (13 R245, 07 R130). -/
def storeRows (n : Nat) (s : State) (ps : List Part) (per r : Nat) : Do State :=
  match n with
  | 0 => .ok s
  | m + 1 => do
    let th ← getMe s
    let row := rowParts ps per r
    if th.prog.stage != 16 then overlapWait s s.cur (row.filter fun p => !s.needsEntry s.cur.core false p)
    let s ← storeDo s true .weak .th row
    storeRows m (s.rowsDone (r + 1)) ps per (r + 1)

/-- `tst`, R291. DESIGN CHOICE: it stores the rows, columns and data that the tile has when it issues, whatever another thread writes to the tile or
its `TSHAPE` while it waits part-way; R291 does not say which hold (notes/assumptions/32.md). Unsafe: hardware may take them row by row. -/
def execTst (fmt : MFmt) (d a b c : Reg) (imm : ImmA) (s : State) : Host.Outcome State Fault Refusal :=
  let i : Instr := .tst fmt d a b c imm
  let tag := (tagM fmt).toNat
  finish s.cur (do
    let th ← getMe s
    let g ← getGroup s
    needAllot s g i [d] []
    needLive s th (tileRegs tag a b c) []
    let t := g.tile d
    let rows := ((List.range t.rows).map fun r => rowRuns th tag t.cols a b c imm (t.rowData tag r) (t.rowSide r) r).flatMap id
    if !th.prog.hasIssued then
      checkRuns s s.cur g th .write rows
      if t.fmt == tag || (t.fmt == 0 && !tagBlock tag) then needWidth s i t.cols tag else raise s .format (lowBits i)
    let ps := th.prog.partsOr (s.partsFrom s.cur g th .write 0 0 rows)
    let per := if tagBlock tag then 2 else 1
    let done := (look 0 th.prog.got 0).toNat
    let s ← storeRows (ps.foldl (fun m p => max m (p.run / per + 1)) 0 - done) (s.holdParts s.cur ps) ps per done
    .ok (s.retireNext (sizeA imm)))

/-! ## Tiles only (R292) -/

/-- `tzero`, R292. -/
def execTzero (fmt : MFmt) (d : Reg) (s : State) : Host.Outcome State Fault Refusal :=
  let i : Instr := .tzero fmt d
  let tag := (tagM fmt).toNat
  finish s.cur (do
    let g ← getGroup s
    needAllot s g i [d] []
    let t := g.tile d
    needWidth s i t.cols tag
    tileFree s d
    .ok (s.retireTile d { data := [], side := [], shape := shapeOf tag t.rows t.cols } 8))

/-- A tile with bits `[7:6]` of each of its elements zero. -/
def Tile.sixBits (t : Tile) : Tile :=
  let row (m : Memory) (r : Nat) : Memory := writeN m (64 * r) t.cols (packNat 8 ((List.range t.cols).map fun c => t.code r c % 64))
  { t with data := (List.range t.rows).foldl row t.data }

/-- What `tmov` writes: the data, sidecar and shape of its source. After a `TSHAPE` write has relabelled the source, R292's copy and the rules of
06 disagree on bits that the format does not use. DESIGN CHOICE between the rules: 06 R91 speaks of every instruction that reads or writes T6,
and R94 of an instruction that reads or writes under a tag that is not block-scaled, so bits `[7:6]` of T6 elements and the sidecar of a format
that is not block-scaled are written as zero (notes/assumptions/32.md). Unsafe: hardware may copy them. -/
def Tile.moved (t : Tile) : Tile :=
  let t := if t.fmt == 7 then t.sixBits else t
  if tagBlock t.fmt then t else { t with side := [] }

/-- `tmov`, R292. -/
def execTmov (fmt : MFmt) (d a : Reg) (s : State) : Host.Outcome State Fault Refusal :=
  let i : Instr := .tmov fmt d a
  finish s.cur (do
    let g ← getGroup s
    needAllot s g i [d, a] []
    if (g.tile a).fmt != (tagM fmt).toNat then raise s .format (lowBits i)
    else
      tileFree s d
      .ok (s.retireTile d (g.tile a).moved 8))

/-- The values of a row of a tile. -/
def Tile.rowNums (t : Tile) (r : Nat) : List Num := (List.range t.cols).map (t.num r)

/-- The blocks of a row, four columns each, columns at or above `COLS` taking no part (R292). -/
def rowBlocks (dst h : Nat) (mode : Nat → RMode) (fuel j : Nat) (xs : List Num) : List (Nat × List (Nat × Flg)) :=
  match fuel, xs with
  | 0, _ | _, [] => []
  | k + 1, xs =>
    let b := blockOf dst h mode j (xs.take 4)
    (b.1, b.2.take (xs.take 4).length) :: rowBlocks dst h mode k (j + 4) (xs.drop 4)

/-- A row converted: its codes with their conditions, and its scale bytes. -/
def convertRow (src dst h : Nat) (mode : Nat → RMode) (j : Nat) (xs : List Num) : List (Nat × Flg) × List Nat :=
  if tagBlock dst then
    let bs := rowBlocks dst h mode 16 j xs
    (bs.flatMap (·.2), bs.map (·.1))
  else ((xs.zip (List.range xs.length)).map fun e => convert src dst (mode (j + e.2)) e.1, [])

/-- `tcvt`, R292. -/
def execTcvt (fmt : MFmt) (rm : Rm) (d a : Reg) (h : BitVec 4) (he : Bool) (s : State) : Host.Outcome State Fault Refusal :=
  let i : Instr := .tcvt fmt rm d a h he
  let dst := (tagM fmt).toNat
  finish s.cur (do
    let th ← getMe s
    let g ← getGroup s
    needAllot s g i [d, a] []
    let t := g.tile a
    if t.fmt == 0 then raise s .format (lowBits i)
    else
      needWidth s i t.cols dst
      tileFree s d
      let hh := if he then h.toNat else headroom dst
      let rows := (List.range t.rows).map fun r => convertRow t.fmt dst hh (th.mode rm) (r * t.cols) (t.rowNums r)
      let nums := (List.range t.rows).flatMap t.rowNums
      let m := (rows.zip (List.range t.rows)).foldl (fun (acc : Memory × Memory) (e : (List (Nat × Flg) × List Nat) × Nat) =>
        (writeN acc.1 (64 * e.2) (t.cols * tileW dst) (packNat (8 * tileW dst) (e.1.1.map (·.1))),
         writeN acc.2 (16 * e.2) e.1.2.length (packNat 8 e.1.2))) ([], [])
      let fl := rows.flatMap fun e => e.1.map (·.2)
      needQuiet s th fl
      let s := s.setGroup s.cur.core (g.setTile d { data := m.1, side := m.2, shape := shapeOf dst t.rows t.cols })
      let th := th.amaxOf (narrowing t.fmt dst) nums
      let th := if dst == 5 || dst == 6 || dst == 7 then th else th.drawn rm (t.rows * t.cols)
      fpRetire s th fl fun th => th.advance 8)

end Sys2Proof.Machine
end

