-- ==== Sys2Proof/Machine/Matrix.lean ====
section
/-! DEFINITION. MMA (16 R273 to R289): the row latch, the joint array's arithmetic (06 R96, R97; R287), accumulators and the
microprogram buffer. -/

namespace Sys2Proof.Machine

/-! ## Accumulators (R277, R288) -/

/-- An accumulator of a group. -/
def Group.acc (g : Group) (r : Nat) : Map (BitVec 32) := vget [] g.accs r
/-- Replace an accumulator. -/
def Group.setAcc (g : Group) (r : Nat) (m : Map (BitVec 32)) : Group := { g with accs := vset g.accs r m }
/-- An element: row i, column j. -/
def accElem (m : Map (BitVec 32)) (i j : Nat) : Nat := (look 0 m (i * 16 + j)).toNat
/-- Write elements of an accumulator. -/
def accPut (m : Map (BitVec 32)) (es : Map (BitVec 32)) : Map (BitVec 32) := es.foldl (fun m e => put 0 m e.1 e.2) m

/-- Wait for the operations that target an accumulator (R283). -/
def accFree (s : State) (r : Reg) : Do Unit := if s.accBusy s.cur.core r.toNat then waitFor s .latch else .ok ()

/-- `acc.rd`, R288. -/
def execAccRd (d a : Reg) (row : BitVec 6) (s : State) : Host.Outcome State Fault Refusal :=
  finish s.cur (do
    let th ← getMe s
    let g ← getGroup s
    needAllot s g (.accRd d a row) [] [a]
    accFree s a
    let m := g.acc a.toNat
    .ok (s.retire ((th.putLanes 32 true d 10 ((List.range 16).map (accElem m row.toNat))).advance 8)))

/-- `acc.wr`, R288. -/
def execAccWr (d a : Reg) (row : BitVec 6) (s : State) : Host.Outcome State Fault Refusal :=
  finish s.cur (do
    let th ← getMe s
    let g ← getGroup s
    needAllot s g (.accWr d a row) [] [d]
    needLive s th [] [a, a + 1]
    needTags s th (.accWr d a row) 10 [a, a + 1]
    accFree s d
    let es := ((List.range 16).zip (th.lanes 32 true a)).map fun e => (row.toNat * 16 + e.1, BitVec.ofNat 32 e.2)
    .ok ((s.setGroup s.cur.core (g.setAcc d.toNat (accPut (g.acc d.toNat) es))).retireNext 8))

/-- `acc.zero`, R288. -/
def execAccZero (d : Reg) (s : State) : Host.Outcome State Fault Refusal :=
  finish s.cur (do
    let g ← getGroup s
    needAllot s g (.accZero d) [] [d]
    accFree s d
    .ok ((s.setGroup s.cur.core (g.setAcc d.toNat [])).retireNext 8))

/-- `cp.ld`, R286. -/
def execCpLd (nops join : BitVec 2) (prog : BitVec 64) (s : State) : Host.Outcome State Fault Refusal :=
  finish s.cur (do
    let g ← getGroup s
    if s.cpBusy s.cur.core then waitFor s .latch
    else .ok ((s.setGroup s.cur.core { g with cpValid := true, cpJoin := join, cpNops := nops, ucode := prog }).retireNext 16))

/-! ## The cells (06 R97, R287) -/

/-- One product added to a chain (06 R97): a NaN product sets NV. -/
def chainStep (e : Nat) (a b : Num) : Nat × Flg :=
  if a.isNan || b.isNan then (fp32.nanBits, fNV) else fp32.fma .rne a b (fp32.read e)

/-- The chains E and O of `mma`, from the products in ascending k (06 R97). -/
def chains (k : Nat) (e o : Nat) (fl : Flg) (ps : List (Num × Num)) : Nat × Nat × Flg :=
  match ps with
  | [] => (e, o, fl)
  | (a, b) :: rest =>
    if k % 2 == 0 then
      let r := chainStep e a b
      chains (k + 1) r.1 o (fl ||| r.2) rest
    else
      let r := chainStep o a b
      chains (k + 1) e r.1 (fl ||| r.2) rest

/-- FP32 bits joined by a sum. -/
def add32 (x y : Nat) : Nat × Flg := fp32.add .rne (fp32.read x) (fp32.read y)

/-- An element after `mma` (06 R97). -/
def mmaElem (acc : Nat) (ps : List (Num × Num)) : Nat × Flg :=
  let c := chains 0 0 0 0 ps
  let x := add32 c.1 c.2.1
  let y := add32 acc x.1
  (y.1, c.2.2 ||| x.2 ||| y.2)

/-- The larger or smaller of two values by 06 R87, rounded to FP32. -/
def pick32 (isMax : Bool) (a b : Num) : Nat × Flg :=
  let fl := flagIf (a.isSig || b.isSig) fNV
  let r := if a.isNan then b else if b.isNan then a
    else if isMax then (if a.before b then b else a) else (if b.before a then b else a)
  ((fp32.ofNum .rne r).1, fl ||| (if r.isNan then 0 else (fp32.ofNum .rne r).2))

/-- A function of Table 3 on two values. -/
def cellFn (fn : Nat) (p q : Num) : Nat × Flg :=
  match fn with
  | 0 => fp32.add .rne p q
  | 1 => fp32.add .rne p q.neg
  | 2 => fp32.mul .rne p q
  | 3 => pick32 true p q
  | 4 => pick32 false p q
  | _ => if p.isNan || q.isNan then (0, fNV) else (if p.below q then 0x3F800000 else 0, 0)

/-- `PSEL` and `QSEL` of Table 3. -/
def cellSel (k : Nat) (a b : Num) (st u : Nat) : Num :=
  match k with
  | 0 => a
  | 1 => b
  | 2 => fp32.read st
  | _ => fp32.read u

/-- The operations of a microprogram from the m-th on, on a chain's state and u (R287). -/
def cellOps (n : Nat) (ucode : Nat) (a b : Num) (st u : Nat) (fl : Flg) : Nat × Flg :=
  match n with
  | 0 => (st, fl)
  | k + 1 =>
    let r := cellFn (bitsOf ucode 7 5) (cellSel (bitsOf ucode 2 1) a b st u) (cellSel (bitsOf ucode 4 3) a b st u)
    if ucode % 2 == 0 then cellOps k (ucode / 2 ^ 16) a b r.1 u (fl ||| r.2)
    else cellOps k (ucode / 2 ^ 16) a b st r.1 (fl ||| r.2)

/-- The chains of `mma.cp` (R287). -/
def cpChains (n ucode k e o : Nat) (fl : Flg) (ps : List (Num × Num)) : Nat × Nat × Flg :=
  match ps with
  | [] => (e, o, fl)
  | (a, b) :: rest =>
    if k % 2 == 0 then
      let r := cellOps n ucode a b e 0 fl
      cpChains n ucode (k + 1) r.1 o r.2 rest
    else
      let r := cellOps n ucode a b o 0 fl
      cpChains n ucode (k + 1) e r.1 r.2 rest

/-- `JOIN` on FP32 bits. -/
def join32 (join x y : Nat) : Nat × Flg :=
  match join with
  | 0 => add32 x y
  | 1 => pick32 true (fp32.read x) (fp32.read y)
  | _ => pick32 false (fp32.read x) (fp32.read y)

/-- The identity of `JOIN` (R287). -/
def joinUnit (join : Nat) : Nat :=
  match join with
  | 0 => 0
  | 1 => fp32.inf true
  | _ => fp32.inf false

/-- An element after `mma.cp` (R282, R287). -/
def cpElem (join n ucode acc : Nat) (ps : List (Num × Num)) : Nat × Flg :=
  let c := cpChains n ucode 0 (joinUnit join) (joinUnit join) 0 ps
  let x := join32 join c.1 c.2.1
  let y := join32 join acc x.1
  (y.1, c.2.2 ||| x.2 ||| y.2)

/-! ## The latch (R279 to R281) -/

/-- The operation of a gang-issued instruction: `OP`, `SZ` and `IMM16` (R280). -/
def gangKind (i : Instr) : Option (Nat × Option MFmt × Nat) :=
  match i with
  | .mma fmt _ _ _ k => some (0, some fmt, k.toNat)
  | .mmaCp fmt _ _ _ k => some (1, some fmt, k.toNat)
  | .gang _ => some (6, none, 0)
  | _ => none

/-- The gang of a core's group. -/
def State.gangAt (s : State) (core : Nat) : Option (Nat × Gang) :=
  match s.group core with
  | some g => (find s.gangs g.gang).map fun k => (g.gang, k)
  | none => none

/-- Replace a gang. -/
def State.setGang (s : State) (id : Nat) (k : Gang) : State := { s with gangs := set s.gangs id k }

/-- A member's first instruction at the latch. -/
def Gang.first (k : Gang) (core : Nat) : Option LatchEnt := k.latch.find? fun l => l.core == core

/-- Has every member issued the next gang-issued instruction? -/
def Gang.ready (k : Gang) : Bool := k.cores.all fun c => (k.first c).isSome

/-- The local checks of R281. -/
def matrixCheck (s : State) (g : Group) (i : Instr) (cp : Bool) (fmt : MFmt) (a b : Reg) (k : Nat) : Do Unit :=
  let tag := (tagM fmt).toNat
  let tb := g.tile b
  let ta := g.tile a
  let ok := tb.fmt == tag && tb.rows == k && tb.cols ≤ 16 && (g.gidx != 0 || (ta.fmt == tag && ta.cols == k)) && (!cp || g.cpValid)
  if ok then .ok () else raise s .format (lowBits i)

/-- Issue a gang-issued instruction to the latch (R279): the thread is not ready until the latch starts it. -/
def issueGang (s : State) (i : Instr) : Do State := do
  let w := s.cur
  let th ← getMe s
  if th.prog.seq != 0 then .error (.wait s)
  else match s.gangAt w.core with
    | none => .error (.fault .noAgent)
    | some (id, k) =>
      let k := { k with latch := k.latch ++ [{ core := w.core, t := w.issuer.setNo, inst := i }] }
      let (seq, s) := (s.setGang id k).fresh
      let s := s.setMe { th with wait := .latch, prog := { th.prog with inst := some i, seq := seq } }
      .error (.wait (if k.ready then s.soon (.event .gangOpStart id 0) else s))

/-- `mma` and `mma.cp` (R281, R282). -/
def matrixOp (s : State) (i : Instr) (cp : Bool) (fmt : MFmt) (d a b : Reg) (k : Nat) : Host.Outcome State Fault Refusal :=
  finish s.cur (do
    let th ← getMe s
    let g ← getGroup s
    if th.prog.seq == 0 then
      needAllot s g i [a, b] [d]
      matrixCheck s g i cp fmt a b k
      accFree s d
    issueGang s i)

/-- `mma`, R282. -/
def execMma (fmt : MFmt) (d a b : Reg) (k : BitVec 7) (s : State) : Host.Outcome State Fault Refusal :=
  matrixOp s (.mma fmt d a b k) false fmt d a b k.toNat
/-- `mma.cp`, R282. -/
def execMmaCp (fmt : MFmt) (d a b : Reg) (k : BitVec 7) (s : State) : Host.Outcome State Fault Refusal :=
  matrixOp s (.mmaCp fmt d a b k) true fmt d a b k.toNat
/-- `gang`, R289. -/
def execGang (d : Reg) (s : State) : Host.Outcome State Fault Refusal := finish s.cur (issueGang s (.gang d))

/-! ## Starting an operation (R279, R280, R282) -/

/-- The products of an element: row i of `A` and column j of `B`. -/
def products (a b : Tile) (kk i j : Nat) : List (Num × Num) := (List.range kk).map fun k => (a.num i k, b.num k j)

/-- What a member will hold: its elements and the conditions of its cells. DESIGN CHOICE: a tile or `CPCTL` that another thread has changed between
the checks of R281 and the start is computed with as it stands at the start, in the accumulator's 16 columns, and nothing is checked again; R282
says nothing of it (notes/assumptions/32.md). Unsafe: hardware may raise FORMAT, or hold such a write back. -/
def memberResult (g : Group) (cp : Bool) (a : Tile) (d b : Reg) (kk : Nat) : Map (BitVec 32) × Flg :=
  let tb := g.tile b
  let acc := g.acc d.toNat
  let one (i j : Nat) : Nat × Flg :=
    let ps := products a tb kk i j
    if cp then cpElem g.cpJoin.toNat (g.cpNops.toNat + 1) g.ucode.toNat (accElem acc i j) ps else mmaElem (accElem acc i j) ps
  let es := (List.range a.rows).flatMap fun i => (List.range (min 16 tb.cols)).map fun j => (i * 16 + j, one i j)
  (es.map fun e => (e.1, BitVec.ofNat 32 e.2.1), unionOf (es.map fun e => e.2.2))

/-- A member of a matrix operation that starts. -/
def State.memberOf (s : State) (a : Tile) (l : LatchEnt) : Option MemberRes :=
  let res (cp : Bool) (d b : Reg) (k : Nat) : Option MemberRes := match s.group l.core with
    | some g =>
      let r := memberResult g cp a d b k
      some { core := l.core, t := l.t, acc := d.toNat, btile := b.toNat, elems := r.1, flags := r.2.setWidth 64 }
    | none => none
  match l.inst with
  | .mma _ d _ b k => res false d b k.toNat
  | .mmaCp _ d _ b k => res true d b k.toNat
  | _ => none

/-- The `A` tile that a gang-issued instruction names. -/
def aTile (i : Instr) : Reg :=
  match i with
  | .mma _ _ a _ _ | .mmaCp _ _ a _ _ => a
  | _ => 0

/-- `gang` retires at the start (R288 Table 4). -/
def State.gangRetire (s : State) (k : Gang) (l : LatchEnt) : State :=
  let w : Who := { core := l.core, issuer := .thread l.t }
  match l.inst, s.agent w, s.group l.core with
  | .gang d, some th, some g =>
    let v := w64 (k.cores.length + g.gidx * 2 ^ 4 + k.cores.headD 0 * 2 ^ 8)
    s.retireOf w (((th.wx d v).advance 8).count 8)
  | _, _, _ => s

/-- A member's instruction has started: it is not discarded any more (R284). -/
def State.started (s : State) (l : LatchEnt) : State :=
  let w : Who := { core := l.core, issuer := .thread l.t }
  match s.agent w with
  | some th => s.setAgent w { th with prog := { th.prog with stage := 1 } }
  | none => s

/-- Start the operation whose instructions are the members' first (R279, R280). -/
def State.startOp (s : State) (id : Nat) (k : Gang) (ls : List LatchEnt) : State :=
  let k := { k with latch := k.latch.filter fun l => !ls.contains l }
  let s := s.setGang id k
  let again (s : State) : State := if k.ready then s.soon (.event .gangOpStart id 0) else s
  match ls with
  | [] => s
  | l0 :: rest =>
    if rest.any fun l => gangKind l.inst != gangKind l0.inst then
      again (ls.foldl (fun (s : State) l => s.takeTrap { core := l.core, issuer := .thread l.t }
        { cause := .format, tval := lowBits l.inst, tepc := none } false 0 0) s)
    else match l0.inst with
      | .gang _ => again (ls.foldl (fun (s : State) l => s.gangRetire k l) s)
      | _ =>
        let a := match s.group l0.core with
          | some g => g.tile (aTile l0.inst)
          | none => { data := [], side := [], shape := 0 }
        let op : RunOp := { cp := l0.inst matches .mmaCp .., atile := (aTile l0.inst).toNat, members := ls.filterMap (s.memberOf a) }
        let s := s.setGang id { k with running := k.running ++ [op] }
        again ((ls.foldl State.started s).soon (.event .matrixRetire id 0))

/-- The accumulator that a gang-issued instruction targets. -/
def accOf (i : Instr) : Option Nat :=
  match i with
  | .mma _ d _ _ _ | .mmaCp _ d _ _ _ => some d.toNat
  | _ => none

/-- Does an operation run that targets the accumulator of a member's next instruction? Its final step comes first (R283). -/
def Gang.clashes (k : Gang) (l : LatchEnt) : Bool :=
  k.running.any fun op => op.members.any fun m => m.core == l.core && accOf l.inst == some m.acc

/-- Has the agreed tick of a suspension of the gang come? Nothing starts at the latch from then on (R284). -/
def Gang.latchShut (k : Gang) (tick : Nat) : Bool :=
  match k.susp with
  | some u => u.agreed ≤ tick
  | none => false

/-- The latch of gang `selA` starts an operation when every member has issued its next instruction. -/
def execGangOpStart (s : State) : Host.Outcome State Fault Refusal :=
  event (match find s.gangs s.selA with
    | some k =>
      let ls := k.cores.filterMap k.first
      if k.ready && !ls.any k.clashes && !k.latchShut s.gtick then s.startOp s.selA k ls else s
    | none => s)

/-- A member's part of a matrix operation retires (R282, R284): its elements, its thread's `FLAGS`, and its instruction. -/
def State.memberRetire (s : State) (m : MemberRes) : State :=
  let w : Who := { core := m.core, issuer := .thread m.t }
  match s.group m.core, s.agent w with
  | some g, some th =>
    let f : Flg := m.flags.setWidth 6
    let s := s.setGroup m.core (g.setAcc m.acc (accPut (g.acc m.acc) m.elems))
    (s.retireOf w (((th.raiseFlags f).advance 8).count 8)).unite m.core f
  | _, _ => s

/-- The oldest running operation of gang `selA` retires on every member (R284); the latch may start the next. -/
def execMatrixRetire (s : State) : Host.Outcome State Fault Refusal :=
  event (match find s.gangs s.selA with
    | some k => match k.running with
      | op :: rest =>
        let t := op.members.foldl State.memberRetire (s.setGang s.selA { k with running := rest })
        if k.ready then t.soon (.event .gangOpStart s.selA 0) else t
      | [] => s
    | none => s)

end Sys2Proof.Machine
end

