-- ==== Sys2Proof/Machine/Spans.lean ====
section
/-! DEFINITION. Where a hub may place a gang (02 R17, R23; 17 R305, R308, R310): free cores, spans, reservations and save areas. -/

namespace Sys2Proof.Machine

/-- Cores and groups in the order of the core table, of one die. -/
def State.groupsOf (s : State) (die : Nat) : List (Nat × Group) :=
  s.cores.filterMap fun (e : Nat × Core) => if dieOf e.1 == die then e.2.group.map fun g => (e.1, g) else none

/-- May a core be given to a group: is it there, and does it hold none (02 R26)? -/
def State.coreFree (s : State) (c : Nat) : Bool :=
  let k := s.core c
  !s.coreFenced c && !k.dead && !k.gated && k.group.isNone

/-- Is a core part of a gang that holds its whole row? -/
def State.inRowGang (s : State) (c : Nat) : Bool :=
  match s.group c with
  | some g => match find s.gangs g.gang with
    | some k => k.row
    | none => false
  | none => false

/-- The record of a pending gang's launch. -/
def State.pendWords (s : State) (p : Pend) : List W64 :=
  match find (s.hub p.home).slots p.slot with
  | some l => l.words
  | none => []

/-- Has a pending range's launch failed (R312)? The range of a home that is gone is kept (R315). -/
def State.gone (s : State) (p : Pend) : Bool :=
  match find (s.hub p.home).slots p.slot with
  | some l => l.failed.isSome && !(s.hub p.home).dead
  | none => true

/-- The first gang of a pending range. -/
def Pend.head (p : Pend) : HeadId := { home := p.home, slot := p.slot, num := p.lo, was := p.was }

/-- The head gang of a level of a hub's queue (R308). -/
def Hub.headAt (h : Hub) (level : Nat) : Option HeadId := (h.queue.find? fun q => q.level == level).map Pend.head

/-- How often the head of a level has been passed over. -/
def Hub.passedOf (h : Hub) (level : Nat) : Nat := ((h.passed.find? fun x => x.level == level).map (·.count)).getD 0

/-- The counts and reservations of heads that are heads still: both end when a head is placed or leaves its place, and a new head starts
at 0 (R308). -/
def Hub.renew (h : Hub) : Hub :=
  { h with
    passed := h.passed.filter fun x => h.headAt x.level == some x.head,
    reserve := h.reserve.filter fun x => h.headAt x.level == some x.head }

/-- Is a core reserved for the head of a level at or above the gang's, which is not that head (R308)? -/
def State.reserved (s : State) (p : Pend) (c : Nat) : Bool :=
  s.hubs.any fun (e : Nat × Hub) => e.2.reserve.any fun r =>
    r.first ≤ c && c < r.first + r.count && p.level ≤ r.level && e.2.headAt r.level == some r.head && r.head != p.head

/-- Can a gang of `n` groups stand at cores `first` upward, when the cores in `extra` are free too? -/
def State.spanOk (s : State) (p : Pend) (n : Nat) (row : Bool) (extra : List Nat) (first : Nat) : Bool :=
  ((List.range n).all fun k =>
    (s.coreFree (first + k) || (extra.contains (first + k) && !s.coreFenced (first + k))) && !s.reserved p (first + k)) &&
  (List.range 8).all fun k =>
    let c := first / 8 * 8 + k
    extra.contains c || (!s.inRowGang c && (!row || (s.group c).isNone))

/-- The first cores of the spans of a die that fit a pending gang (R17, R23, R305). -/
def State.spans (s : State) (p : Pend) (die : Nat) (extra : List Nat) : List Nat :=
  let ws := s.pendWords p
  let n := recGroups ws
  if ws.isEmpty || !(s.domain ((find (s.hub p.home).slots p.slot).elim 0 Launch.dom)).valid then []
  else ((List.range 32).flatMap fun r => (List.range (9 - n)).map fun b => die * 256 + r * 8 + b).filter
    (s.spanOk p n (recRow ws) extra)

/-- The co-placement set of a gang of a record (R22): fields 3 to 5 of its work identifier. -/
def recSet (ws : List W64) (n : Nat) : Nat := (recWid ws n 0 0).toNat / 2 ^ (((recWidths ws).take 3).foldl (· + ·) 0)

/-- The die on which the first gang of a pending gang's co-placement set was placed (R22). -/
def State.setDie (s : State) (p : Pend) : Option Nat :=
  match find (s.hub p.home).slots p.slot with
  | some l => find l.sets (recSet l.words p.lo)
  | none => none

/-- A launch of which a gang is placed on a die: one more is resident, and the die is its set's if it is the first of the set (R22). -/
def Launch.placedOn (l : Launch) (num die : Nat) : Launch :=
  let key := recSet l.words num
  { l with out := l.out + 1, sets := if (find l.sets key).isSome then l.sets else set l.sets key die }

/-- The dies on which a hub may place a pending gang of its queue, in the order in which it tries them (R305). -/
def State.dies (s : State) (die : Nat) (p : Pend) : List Nat :=
  let ws := s.pendWords p
  if p.stolen.isSome then [die]
  else match recAmode ws with
    | 0 => [die]
    | 2 => [recAdie ws]
    | _ => match s.setDie p with
      | some d => if d == die then [die, recAdie ws] else [recAdie ws, die]
      | none => [recAdie ws, die]

/-- Can a ready gang of a higher level than `level` be placed on a die (02 R31)? A lower level takes no cores there then, whichever hub
its gang is pending in. -/
def State.outranked (s : State) (level die : Nat) : Bool :=
  s.hubs.any fun (e : Nat × Hub) => !e.2.dead && e.2.queue.any fun q =>
    level < q.level && !s.gone q && (s.dies e.1 q).contains die && !(s.spans q die []).isEmpty

/-! ## Save areas (R310) -/

/-- Is an area free: no LIVE or RESUMING object lies in it, and no save has claimed it? -/
def State.areaFree (s : State) (dom : Nat) (va : W64) : Bool :=
  !(s.hubs.any fun (e : Nat × Hub) => e.2.claims.contains (areaKey dom va)) &&
    match s.objStatePa [] dom true .write va.toNat with
    | .error _ => false
    | .ok pa => match s.engineRead pa.pa 4 with
      | .ok st => st != 1 && st != 2
      | .error _ => false

/-- The areas that a gang's groups would be saved into, beside `used` areas of the domain that other gangs will take. -/
def State.areasFor (s : State) (g : Gang) (used : Nat) : Option (List W64) :=
  let fr := (((s.domain g.dom).areas.filter (s.areaFree g.dom)).drop used).take g.cores.length
  if fr.length == g.cores.length then some fr else none

/-- Does a debugger halt a group of the gang (25 R423)? -/
def State.gangHalted (s : State) (g : Gang) : Bool :=
  g.cores.any fun c => match s.group c with
    | some k => k.halting || k.halted || k.threads.any fun th => th.status == Status.halted
    | none => false

/-- A suspension of a gang begins (02 R25) with the areas that it is saved into, which are claimed (R310, 20 R359). A group that has
retired has no state to save. -/
def State.beginSave (s : State) (id : Nat) (g : Gang) (why at_ : Nat) (claim : Option HeadId) (areas : List W64) : State :=
  let d := (g.cores.head?.map dieOf).getD 0
  let h := s.hub d
  let s := s.setHub d { h with claims := h.claims ++ areas.map (areaKey g.dom) }
  let u : Susp := { why := why, agreed := at_, stride := 0, objs := areas, byWho := none, claim := claim, stopped := false,
                    saved := (s.retiredOf id g).map (·.2) }
  { s with gangs := set s.gangs id { g with susp := some u } }

/-- Suspend a gang for a time slice or a pre-emption (R309, R310, 20 R359), which the claim of a pending gang causes. -/
def State.suspend (s : State) (id why : Nat) (claim : Option HeadId) : State :=
  match find s.gangs id with
  | none => s
  | some g =>
    if g.susp.isSome || s.gangHalted g then s
    else match s.areasFor g 0 with
      | none => s
      | some areas => s.beginSave id g why (s.gtick + 2048) claim areas

/-- The gangs resident on a die, with their numbers. -/
def State.gangsOn (s : State) (die : Nat) : List (Nat × Gang) :=
  s.gangs.filter fun (e : Nat × Gang) => (e.2.cores.head?.map dieOf) == some die

/-- The cores of a die that suspensions under way will free. -/
def State.freeing (s : State) (die : Nat) : List Nat :=
  (s.gangsOn die).flatMap fun (e : Nat × Gang) => if e.2.susp.isSome then e.2.cores.filter (s.holds e.1) else []

/-! ## Pre-emption (R309) and time slices (02 R32) -/

/-- The gangs that may be victims for a level, in the order in which they are chosen: the lowest level first, the most recently
placed first. -/
def State.victims (s : State) (die level : Nat) : List (Nat × Gang) :=
  let ok := (s.gangsOn die).filter fun (e : Nat × Gang) =>
    e.2.prio < level && e.2.susp.isNone && !s.gangHalted e.2 && (s.areasFor e.2 0).isSome
  ok.foldl (fun l e => insertBy (fun x : Nat × Gang => e.2.prio < x.2.prio || (e.2.prio == x.2.prio && x.2.placed ≤ e.2.placed)) l e) []

/-- Add victims until their cores and the free cores contain a fitting span; one whose domain has no areas beside those of the victims
chosen before it is no victim. -/
def State.choose (s : State) (p : Pend) (die : Nat) (extra : List Nat) (chosen vs : List (Nat × Gang)) : Option (List Nat) :=
  match vs with
  | [] => none
  | (id, g) :: rest =>
    let used := ((chosen.filter fun e => e.2.dom == g.dom).map fun e => e.2.cores.length).foldl (· + ·) 0
    if (s.areasFor g used).isNone then State.choose s p die extra chosen rest
    else
      let extra := extra ++ g.cores.filter (s.holds id)
      let chosen := chosen ++ [(id, g)]
      if (s.spans p die extra).isEmpty then State.choose s p die extra chosen rest else some (chosen.map (·.1))

/-- Pre-empt for a pending gang that cannot be placed, unless suspensions under way make room for it. -/
def State.preempt (s : State) (die : Nat) (p : Pend) : State :=
  let ds := s.dies die p
  if s.gone p || ds.any fun d => !(s.spans p d (s.freeing d)).isEmpty then s
  else match ds.findSome? fun d => s.choose p d (s.freeing d) [] (s.victims d p.level) with
    | some ids => ids.foldl (fun (s : State) id => s.suspend id 2 (some p.head)) s
    | none => s

/-- Is a level the highest that holds ready gangs on a die (02 R32)? A gang that is ready and not placed is pending. -/
def State.topLevel (s : State) (die level : Nat) : Bool :=
  !s.hubs.any fun (e : Nat × Hub) => !e.2.dead && e.2.queue.any fun q => level < q.level && !s.gone q && (s.dies e.1 q).contains die

/-- The resident gang of a level whose quantum has expired longest ago, for a pending gang that waits on a die. -/
def State.expired (s : State) (die level : Nat) : Option Nat :=
  let l := (s.gangsOn die).filter fun (e : Nat × Gang) =>
    e.2.prio == level && e.2.susp.isNone && !s.gangHalted e.2 && e.2.placed + s.quantum ≤ s.gtick && (s.areasFor e.2 0).isSome
  (l.foldl (fun (m : Option (Nat × Gang)) e => match m with
    | some b => if e.2.placed < b.2.placed then some e else some b
    | none => some e) none).map (·.1)

/-- The first pending gang that a test names and that waits for a die: it cannot be placed there (R323), or, with `all`, on none of its dies
(02 R32). -/
def State.waiter (s : State) (die : Nat) (all : Bool) (p : Pend → Bool) : Option Pend :=
  s.hubs.findSome? fun (e : Nat × Hub) => if e.2.dead then none else e.2.queue.find? fun q =>
    p q && !s.gone q && (s.dies e.1 q).contains die &&
      (if all then s.dies e.1 q else [die]).all fun d => (s.spans q d []).isEmpty

/-- QUANTUM_EXPIRY: the quantum of gang `selA` has expired while a gang of its level waits (02 R32). -/
def execQuantumExpiry (s : State) : Host.Outcome State Fault Refusal :=
  event (match find s.gangs s.selA with
    | none => s
    | some g =>
      let d := (g.cores.head?.map dieOf).getD 0
      match s.waiter d true fun q => q.level == g.prio with
      | some q => if g.placed + s.quantum ≤ s.gtick && s.topLevel d g.prio then s.suspend s.selA 1 (some q.head) else s
      | none => s)

/-- The first of a list that has the most of something. -/
def mostOf (f : Nat → Nat) (l : List Nat) : Option Nat :=
  l.foldl (fun m x => match m with
    | some b => if f b < f x then some x else m
    | none => some x) none

/-- HEAD_RESERVATION: hub `selA` reserves a span for the head of level `selB` (R308). -/
def execHeadReservation (s : State) : Host.Outcome State Fault Refusal :=
  let h := s.hub s.selA
  event (match h.queue.find? fun q => q.level == s.selB with
    | none => s
    | some p =>
      if h.passedOf s.selB < 64 || h.reserve.any (fun r => r.level == s.selB) then s
      else
        let n := recGroups (s.pendWords p)
        let free (first k : Nat) : Nat := (((List.range k).map (first + ·)).filter s.coreFree).length
        let runs (row : Nat) : List Nat := ((List.range (9 - n)).map (row * 8 + ·)).filter fun first =>
          (List.range n).all fun k => !s.coreFenced (first + k)
        let rows (d : Nat) : List Nat := ((List.range 32).map (d * 32 + ·)).filter fun r => !(runs r).isEmpty
        let ds := ((s.dies s.selA p).foldl (fun l d => insertBy (fun x => d < x) l d) []).filter fun d => !(rows d).isEmpty
        match mostOf (fun d => free (d * 256) 256) ds with
        | none => s
        | some d =>
          let r := (mostOf (fun r => free (r * 8) 8) (rows d)).getD 0
          let best := (mostOf (fun first => free first n) (runs r)).getD 0
          s.setHub s.selA { h with reserve := h.reserve ++ [{ level := s.selB, head := p.head, first := best, count := n }] })

end Sys2Proof.Machine
end

