-- ==== Sys2Proof/Machine/Load.lean ====
section
/-! DEFINITION. Placing a gang (02 R23, 17 R306, R299) and restoring a resumed one from its objects (20 R360, R364, R370). -/

namespace Sys2Proof.Machine

/-- A core made ready for a group: the lines in the units that become scratchpad are written back and leave, every V word is
discarded as an acquire with every window disabled discards it (R306), and its wait queues are empty. -/
def State.clearCore (s : State) (c spm : Nat) : State :=
  let (s, _) := s.sendHome c (CLine.inUnits 0 spm) fun _ => CWord.empty
  let s := s.dropV c fun _ _ => true
  let k := s.core c
  s.setCore c { k with cache := k.cache.filter fun (e : Nat × CLine) => !e.2.inUnits 0 spm, banks := Vector.replicate 3 Bank.init }

/-- The image of a record (R299): its bytes, read with kernel rights, or the cause of a translation that fails. -/
def State.image (s : State) (dom : Nat) (ws : List W64) : Except Cause (List Byte) :=
  match s.objRead [] dom true (recField ws 6 54 16 * 65536) (recField ws 6 8 0 * 512) with
  | .ok bs => .ok bs
  | .error (c, _) => .error c

/-- A group as a record places it (R306). -/
def recGroup (ws : List W64) (addr : W64) (d : Domain) (dom id n g : Nat) (img : List Byte) : Group :=
  let lay := w64 (recField ws 2 31 0)
  let th (t : Nat) : Thread := if t < recThreads ws then Thread.placed (recWord ws 0) addr (recWid ws n g t) lay else Thread.init
  let nt := recField ws 2 57 54
  { Group.init with
    gang := id, gidx := g, dom := dom, prio := recPrio ws, threads := (List.range 4).map th, nt := nt, na := recField ws 2 60 58,
    spm := recSpm ws, tvec := ctlBits 0x040 d.tvec, spData := putBytes [] 0 img, spWritten := List.range (recField ws 6 8 0) }

/-- The gang of a placement, which starts at a common tick that the hub chooses (R23). -/
def State.gangOf (s : State) (p : Pend) (l : Launch) (cores : List Nat) : Gang × State :=
  let (t, s) := s.freeNat 64
  ({ home := p.home, slot := p.slot, num := p.lo, cores := cores, row := recRow l.words, prio := p.level, dom := l.dom, placed := s.gtick,
     start := s.gtick + 1 + t, answer := p.answer, latch := [], running := [], susp := none, stolen := p.stolen }, s)

/-- Groups take their cores. -/
def State.seat (s : State) (gs : List (Nat × Group)) : State :=
  gs.foldl (fun (s : State) (e : Nat × Group) => (s.clearCore e.1 e.2.spm).setGroup e.1 { e.2 with lastRetire := s.gtick }) s

/-! ## A fresh gang -/

/-- What a placement comes to: the gang is resident, or its launch fails. -/
inductive Placed where
  | ok (s : State) | fail (s : State) (c : Cause)
  deriving Repr

/-- Place a gang from its record. -/
def State.placeFresh (s : State) (p : Pend) (l : Launch) (first : Nat) : Placed :=
  match s.image l.dom l.words with
  | .error c => .fail s c
  | .ok img =>
    let id := s.nextGang + 1
    let cores := (List.range (recGroups l.words)).map fun k => first + k
    let (k, s) := s.gangOf p l cores
    let gs := (cores.zip (List.range cores.length)).map fun (e : Nat × Nat) =>
      (e.1, recGroup l.words l.addr (s.domain l.dom) l.dom id p.lo e.2 img)
    .ok ({ s with gangs := set s.gangs id k, nextGang := id }.seat gs)

/-! ## A resumed gang -/

/-- Where a cause that a context holds pending may have come from: this thread, or a feed core that a fault has stopped (14 R262). A context's
record does not say (20 R355). STORE_REFUSED may be either's, ENGINE and ECC are no feed core's, and every other pending cause is one. -/
def Group.sources (g : Group) (c : Cause) : List (Nat × Nat) :=
  let feeds := (if g.loader.flt then [(1, g.loader.th.pc.toNat)] else []) ++ (if g.storer.flt then [(2, g.storer.th.pc.toNat)] else [])
  match c with
  | .engine => [(0, 0)]
  | .storeRefused | .ecc => (0, 0) :: feeds
  | _ => if feeds.isEmpty then [(0, 0)] else feeds

/-- `SRCE` and `FPC` of a cause that a resume holds pending again (14 R267): which of several stopped feed cores raised it is a free choice
(notes/assumptions/17.md). -/
def State.sourceOf (s : State) (core : Nat) (c : Cause) : (Nat × Nat) × State :=
  match s.group core with
  | none => ((0, 0), s)
  | some g =>
    let l := g.sources c
    let (k, s) := s.freeNat l.length
    ((l[k]?).getD (0, 0), s)

/-- A record of a context as a core's journal or a thread's pending causes hold it again (R364). -/
def State.recreate (s : State) (c t : Nat) (old : W64) (r : ARec) : State :=
  let w : Who := { core := c, issuer := .thread t }
  let k := s.core c
  match r.cause == .storeRefused, k.freeIdx, s.agent w with
  | true, i :: _, some th =>
    let dom := (k.group.map (·.dom)).getD 0
    let kind := match regionOf r.addr.toNat with
      | .far d => JKind.far d (r.addr.toNat % 2 ^ 21)
      | _ => match s.xlate [] dom r.addr.toNat true .read with
        | .ok p => JKind.home p.pa true
        | .error _ => JKind.home 0 true
    let e : JEnt := { idx := i, owner := .thread t, rel := 0,
                      parts := [{ addr := r.addr, data := r.data, n := 2 ^ (r.sz % 4), kind := kind, bad := true }],
                      state := if r.reported then .reported r.reason r.code else .refused r.reason r.code, pub := false, also := [] }
    let s := s.setCore c { k with jrnl := k.jrnl ++ [e] }
    if r.reported then
      if th.causeCode == Cause.storeRefused.code && fld old 4 0 == fld r.tval 4 0 then
        s.setAgent w { th with tval := w64 (fld th.tval 63 5 * 32 + i) }
      else s
    else
      let (f, s) := s.sourceOf c r.cause
      s.pend c t { cause := .storeRefused, tval := e.tval, srce := f.1, fpc := f.2, jidx := some i }
  | true, _, _ => s
  | false, _, _ =>
    let (f, s) := s.sourceOf c r.cause
    s.pend c t { cause := r.cause, tval := r.tval, srce := f.1, fpc := f.2, jidx := none }

/-- The records of every thread set of a core. -/
def State.recreateAll (s : State) (c : Nat) (recs : List (List ARec)) : State :=
  ((List.range recs.length).zip recs).foldl (fun (s : State) (e : Nat × List ARec) =>
    let old := match s.agent { core := c, issuer := .thread e.1 } with
      | some th => th.tval
      | none => 0
    e.2.foldl (fun (s : State) r => s.recreate c e.1 old r) s) s

/-- A held message for the core that now holds its group (R360). -/
def Held.redirect (h : Held) (cores : List Nat) : Msg :=
  let c := (cores[h.gidx]?).getD 0
  match h.msg with
  | .far m => .far { m with target := c }
  | .deposit d => .deposit { d with core := c }
  | m => m

/-- A held reply's job goes with its group. -/
def State.followReply (s : State) (id : Nat) (cores : List Nat) (h : Held) : State :=
  match h.msg with
  | .reply k => match find s.jobs k with
    | some j => { s with jobs := set s.jobs k { j with gang := id, origin := (cores[h.gidx]?).getD 0 } }
    | none => s
  | _ => s

/-- The held messages of a gang go to its new cores, in the order in which they were held. -/
def State.reinject (s : State) (was id : Nat) (cores : List Nat) : State :=
  let hs := s.spill.filter fun h => h.gang == was
  let s := hs.foldl (fun (s : State) h => s.followReply id cores h) s
  { s with net := s.net ++ hs.map (fun h => h.redirect cores), spill := s.spill.filter fun h => h.gang != was }

/-- A held message that is refused with XLATE_NONE (R360, 18 R339, 10 R185): a reply is not deposited. -/
def State.refuseMsg (s : State) (m : Msg) : State :=
  match m with
  | .far m => s.farRefuse m .xlateNone (m.addr m.low) 0
  | .deposit d => s.send (d.refuse .xlateNone)
  | .reply k => { s with jobs := del s.jobs k }
  | _ => s

/-- The messages held for a gang that is lost are refused. -/
def State.refuseHeld (s : State) (was : Nat) : State :=
  let hs := s.spill.filter fun h => h.gang == was
  let s := hs.foldl (fun (s : State) h => s.refuseMsg h.msg) s
  { s with spill := s.spill.filter fun h => h.gang != was }

/-- The same for a pending gang that is not to be resumed. -/
def State.dropPend (s : State) (p : Pend) : State :=
  match p.was with
  | some was => s.refuseHeld was
  | none => s

/-- Mark an object DAMAGED if it is RESUMING (R358), and fail. -/
def State.damaged (s : State) (dom va : Nat) (c : Cause) : Placed := .fail (s.objMark dom va 2 5) c

/-- A hub's own object goes from LIVE to RESUMING before it is read. -/
def State.claimObj (s : State) (dom va : Nat) (hub : Bool) : Except Cause State :=
  if !hub then .ok s
  else match s.objStatePa [] dom true .both va with
    | .error c => .error c
    | .ok pa => match s.coSwap pa 2 with
      | .error c => .error c
      | .ok (_, some _) => .error .coNotLive
      | .ok (s, none) => .ok s

/-- Read every object of a gang: its group and records, with the group's index. A group that had retired has none. -/
def State.readObjs (s : State) (dom : Nat) (hub : Bool) (k : Nat) (vas : List Nat) :
    Except (State × Nat × Cause) (State × List (Nat × Group × List (List ARec))) :=
  match vas with
  | [] => .ok (s, [])
  | 0 :: rest => if hub then State.readObjs s dom hub (k + 1) rest else .error (s, 0, .xlateNone)
  | va :: rest => match s.claimObj dom va hub with
    | .error c => .error (s, va, c)
    | .ok s => match s.objBytes [] dom true va with
      | .error (c, _) => .error (s, va, c)
      | .ok b =>
        if !sectsOk b then .error (s, va, .xlateNone)
        else match State.readObjs s dom hub (k + 1) rest with
          | .error e => .error e
          | .ok (s, gs) => .ok (s, (k, loadGroup b va) :: gs)

/-- Place a gang from its objects (R370). The position of a group that had retired holds none again. -/
def State.placeResumed (s : State) (p : Pend) (l : Launch) (first : Nat) : Placed :=
  let vas := p.objs.map (·.toNat)
  match s.readObjs l.dom p.was.isSome 0 vas with
  | .error (s, va, c) => s.damaged l.dom va c
  | .ok (s, gs) =>
    let id := s.nextGang + 1
    let cores := (List.range vas.length).map fun k => first + k
    let (k, s) := s.gangOf p l cores
    let s := { s with gangs := set s.gangs id k, nextGang := id }
    let placed := gs.map fun (e : Nat × Group × List (List ARec)) =>
      (first + e.1, { e.2.1 with gang := id, dom := l.dom, prio := p.level })
    let s := s.seat placed
    let s := gs.foldl (fun (s : State) (e : Nat × Group × List (List ARec)) => s.recreateAll (first + e.1) e.2.2) s
    let s := vas.foldl (fun (s : State) va => s.objMark l.dom va 2 3) s
    .ok (match p.was with
      | some was => s.reinject was id cores
      | none => s)

/-! ## One placement of a pending range -/

/-- Place the first gang of a pending range on a die, if it has a span there and no ready gang of a higher level has (02 R31): the launch
counts it, and a stolen gang is reported to its victim in the same step (R313, R314). -/
def State.tryPlace (s : State) (p : Pend) (die : Nat) : Option Placed :=
  match find (s.hub p.home).slots p.slot, s.spans p die [] with
  | none, _ => none
  | _, [] => none
  | some l, sp =>
    if s.outranked p.level die then none
    else
    let (k, s) := s.freeNat sp.length
    let first := (sp[k]?).getD 0
    let r := if p.objs.isEmpty then s.placeFresh p l first else s.placeResumed p l first
    some (match r with
      | .fail s c => .fail s c
      | .ok s =>
        let h := s.hub p.home
        let s := s.setHub p.home { h with slots := set h.slots p.slot (l.placedOn p.lo die) }
        .ok (match p.stolen with
          | some v => s.send (.stealPlaced die (s.hub die).inc v p.slot p.lo)
          | none => s))

/-- The same on the first die that fits, with that die. -/
def State.tryDies (s : State) (p : Pend) (dies : List Nat) : Option (Nat × Placed) :=
  match dies with
  | [] => none
  | d :: rest => match s.tryPlace p d with
    | some r => some (d, r)
    | none => State.tryDies s p rest

end Sys2Proof.Machine
end

