-- ==== Sys2Proof/Machine/Hub.lean ====
section
/-! DEFINITION. The dispatch hub (17 R301 to R317): its cycle, completion and failure, its watchdog, and the TASK instructions (R321
to R323). -/

namespace Sys2Proof.Machine

/-! ## Failure and completion (R311, R312) -/

/-- Remove a launch's pending gangs. -/
def Hub.drop (h : Hub) (home slot : Nat) : Hub :=
  let keep (p : Pend) : Bool := !(p.home == home && p.slot == slot)
  Hub.renew { h with
    queue := h.queue.filter keep, offers := h.offers.filter fun o => keep o.range, loans := h.loans.filter fun l => keep l.range }

/-- A launch fails with a cause: its failure is reported next. -/
def State.fail (s : State) (home slot : Nat) (c : Cause) : State :=
  let h := s.hub home
  match find h.slots slot with
  | none => s
  | some l =>
    if l.failed.isSome then s
    else (s.setHub home { h with slots := set h.slots slot { l with failed := some c } }).soon (.event .launchFailure home slot)

/-- The slot of a failed launch is free once none of its gangs is resident, and the supervisor knows of it. -/
def State.freeFailed (s : State) (home slot : Nat) : State :=
  let h := s.hub home
  match find h.slots slot with
  | none => s
  | some l => if l.failed.isSome && l.told && l.out == 0 then s.setHub home { h with slots := del h.slots slot } else s

/-- LAUNCH_FAILURE: launch `selB` of hub `selA` has failed (R312): it places no further gang, and the supervisor receives a record. -/
def execLaunchFailure (s : State) : Host.Outcome State Fault Refusal :=
  let h := s.hub s.selA
  event (match find h.slots s.selB with
    | none => s
    | some l => match l.failed with
      | none => s
      | some c =>
        if l.told then s
        else
          let s := s.setHub s.selA { h with slots := set h.slots s.selB { l with told := true } }
          let s := (s.hubs.flatMap fun (e : Nat × Hub) => e.2.queue ++ e.2.offers.map (·.range)).foldl
            (fun (s : State) p => if p.home == s.selA && p.slot == s.selB then s.dropPend p else s) s
          let s := { s with hubs := mapVals (fun h : Hub => h.drop s.selA s.selB) s.hubs }
          let s := s.report { core := recEvcl l.words * 32, t := 0, wid := recWord l.words 1, code := c.code, tepc := 0, tval := l.addr }
          let s := s.logFailure { w0 := s.gtick64, w1 := 6, w2 := l.answer s.selA s.selB, w3 := 0 }
          s.freeFailed s.selA s.selB)

/-- GANG_RETIREMENT_REPORT: a gang's retirement or loss reaches its home hub (R311, R312). When the home is gone, the supervisor
receives it (R315). -/
def execGangRetirementReport (s : State) : Host.Outcome State Fault Refusal :=
  event (match s.takeMsg with
    | some (.retired home slot num lost, s) =>
      let h := s.hub home
      if h.dead then s.report { core := home * 256, t := 0, wid := w64 num, code := (lost.elim 0 Cause.code), tepc := 0, tval := w64 slot }
      else match find h.slots slot with
        | none => s
        | some l =>
          let l := { l with out := l.out - 1, retired := l.retired + 1 }
          let s := s.setHub home { h with slots := set h.slots slot l }
          match lost with
          | some c => (s.fail home slot c).freeFailed home slot
          | none =>
            if l.failed.isSome then s.freeFailed home slot
            else if l.retired == recN l.words then s.soon (.event .completionSet home slot)
            else s
    | _ => s)

/-- COMPLETION_SET: launch `selB` of hub `selA` has completed (R311); a doorbell's vector is sent after the set (24 R405). -/
def execCompletionSet (s : State) : Host.Outcome State Fault Refusal :=
  let h := s.hub s.selA
  event (match find h.slots s.selB with
    | none => s
    | some l =>
      if l.failed.isSome || l.retired < recN l.words then s
      else
        let s := s.setEvents (recEvcl l.words) (recField l.words 3 51 50) (recWord l.words 5)
        let s := s.setHub s.selA { s.hub s.selA with slots := del (s.hub s.selA).slots s.selB }
        if l.vec == 0 then s else { s with host := { s.host with sent := s.host.sent ++ [l.vec] } })

/-! ## Placement in queue order (R305) -/

/-- What one pass over a queue leaves: the state, the gangs that wait, whether one was placed, and the levels of which one was placed on the
hub's die while an earlier one of the level waits. -/
structure Pass where
  s      : State
  left   : List Pend
  placed : Bool
  later  : List Nat
  deriving Repr

/-- Place gangs of one range until one cannot be placed, or its launch fails. `before` and `rest` are the gangs that wait and those still to
be tried: the queue of the state is kept as each gang is tried, so that the heads of the levels are known (R308). -/
def placeRange (d : Nat) (before rest : List Pend) (a : Pass) (p : Pend) : Nat → Pass × Option Pend
  | 0 => (a, some p)
  | k + 1 =>
    if p.n == 0 then (a, none)
    else
      let s := a.s.setHub d { a.s.hub d with queue := before ++ p :: rest }
      match s.tryDies p (s.dies d p) with
      | none => ({ a with s := s }, some p)
      | some (_, .fail s c) => ({ a with s := (s.dropPend p).fail p.home p.slot c }, none)
      | some (die, .ok s) =>
        let passing := die == d && before.any (fun q => q.level == p.level) && !a.later.contains p.level
        placeRange d before rest { a with s := s, placed := true, later := if passing then a.later ++ [p.level] else a.later }
          { p with lo := p.lo + 1, n := p.n - 1 } k

/-- Consider the pending gangs of a hub in their order. -/
def passOver (d : Nat) (a : Pass) (q : List Pend) : Pass :=
  match q with
  | [] => a
  | p :: rest =>
    if a.s.gone p then passOver d a rest
    else
      let (b, left) := placeRange d a.left rest a p 512
      passOver d { b with left := a.left ++ left.toList } rest

/-- The head of a level has been passed over (R308). -/
def Hub.passHead (h : Hub) (level : Nat) : Hub :=
  match h.headAt level with
  | none => h
  | some p => { h with
      passed := h.passed.filter (fun x => x.level != level) ++ [{ level := level, head := p, count := h.passedOf level + 1 }] }

/-- The queue, the counts and the reservations after a pass. -/
def Hub.heads (h : Hub) (a : Pass) : Hub := a.later.foldl Hub.passHead (Hub.renew { h with queue := a.left })

/-- Is a level's head due a reservation? -/
def Hub.dueLevels (h : Hub) : List Nat :=
  (h.passed.filter fun x => 64 ≤ x.count && !h.reserve.any fun r => r.level == x.level).map (·.level)

/-! ## The cycle -/

/-- One readiness sample of each quarter that a waiting record names, and the admission of the records that are ready (R303, R304),
in the order of their acceptance. -/
def State.sample (s : State) (d : Nat) : State :=
  let h := s.hub d
  let ready := h.slots.filter fun (e : Nat × Launch) =>
    let w := recWord e.2.words 4
    !e.2.ready && e.2.failed.isNone && (s.cluster (recEvcl e.2.words)).quarter (recField e.2.words 3 49 48) &&& w == w
  let order := ready.foldl (fun l e => insertBy (fun x : Nat × Launch => e.2.serial.toNat < x.2.serial.toNat) l e) []
  s.setHub d (order.foldl (fun (h : Hub) e => h.takeIn d e.1 e.2) h)

/-- Has a group's watchdog expired (R317)? It does not run while a debugger halts the group. -/
def State.dogDue (s : State) (g : Group) : Bool :=
  g.lastRetire + s.watchdog ≤ s.gtick && !g.debugged &&
    ((g.threads.any fun th => th.status == Status.running) || g.loader.run || g.storer.run)

/-- A hub's own steps that have come due; who waits for its die may be in any hub's queue (02 R22, R32). -/
def State.hubDue (s : State) (d : Nat) : List Turn :=
  let h := s.hub d
  (h.dueLevels.map fun l => Turn.event .headReservation d l) ++
  ((s.groupsOf d).filterMap fun (e : Nat × Group) => if s.dogDue e.2 then some (Turn.event .hubWatchdog e.1 0) else none) ++
  (if h.loans.any fun l => !l.acked && l.dl < s.gtick then [Turn.event .stealDeadline d 0] else []) ++
  (((s.hubs.flatMap fun (e : Nat × Hub) => e.2.queue.map (·.level)).eraseDups).filterMap fun l =>
    if s.topLevel d l && (s.waiter d true fun q => q.level == l).isSome then (s.expired d l).map fun id => Turn.event .quantumExpiry id 0 else none) ++
  (h.slots.filterMap fun (e : Nat × Launch) =>
    if e.2.claimed && e.2.nextMq ≤ s.gtick then some (Turn.event .maquette d e.1) else none)

/-- Ask another hub for work, when this die has a free core and nothing was placed (R313): whether it does is the hub's own choice. -/
def State.maySteal (s : State) (d : Nat) (placed : Bool) : State :=
  let h := s.hub d
  let asked := h.offers.any (fun _ => true) || s.net.any fun m => match m with
    | .stealReq t _ _ => t == d
    | _ => false
  if placed || asked || !((List.range 256).any fun k => s.coreFree (d * 256 + k)) || !Config.freeBool s.freeCtr then s
  else
    let (k, s) := { s with freeCtr := s.freeCtr + 1 }.freeNat 7
    s.send (.stealReq d h.inc ((d + 1 + k) % 8))

/-- The hub's cycle on a die. -/
def State.hubCycle (s : State) (d : Nat) : State :=
  if (s.hub d).dead || !s.live then s
  else
    let s := (s.groupsOf d).foldl (fun (s : State) (e : Nat × Group) => s.groupOver e.1) s
    let s := s.sample d
    let a := passOver d { s := s, left := [], placed := false, later := [] } (s.hub d).queue
    let s := a.s.setHub d ((a.s.hub d).heads a)
    let s := (s.hub d).queue.foldl (fun (s : State) p => s.preempt d p) s
    let s := s.maySteal d a.placed
    { s with due := s.due ++ (s.hubDue d).filter fun t => !s.due.contains t }

/-- HUB_CYCLE: the hub of die `selA` samples readiness, admits records and tries placements (R303 to R310). -/
def execHubCycle (s : State) : Host.Outcome State Fault Refusal := event (s.hubCycle (s.selA % 8))

/-! ## The watchdog (R317) -/

/-- HUB_WATCHDOG: the group on core `selA` has retired nothing for the period: its threads are held with code 0, and its feed cores stop.
R26 says that the watchdog stops a feed core that runs on after the last thread has ended, and R317 that it holds the threads. DESIGN
CHOICE: it stops the feed cores of every group for which it fires, also of one whose threads it holds (notes/assumptions/18.md). Unsafe:
hardware may let them run on there. -/
def execHubWatchdog (s : State) : Host.Outcome State Fault Refusal :=
  event (match s.group s.selA with
    | none => s
    | some g =>
      if !s.dogDue g then s
      else
        let feeds : List Who := [{ core := s.selA, issuer := .loader }, { core := s.selA, issuer := .storer }]
        let s := feeds.foldl (fun (s : State) w => s.withdraw w) s
        let s := (List.range 4).foldl (fun (s : State) t =>
          let w : Who := { core := s.selA, issuer := .thread t }
          match s.agent w with
          | some th => if th.status == Status.running then (s.withdraw w).hold w th 0 th.pc 0 else s
          | none => s) s
        match s.group s.selA with
        | none => s
        | some g =>
          let stop (f : Feed) : Feed := { f with run := false, th := { f.th with wait := .none, prog := Prog.idle } }
          (s.setGroup s.selA { g with loader := stop g.loader, storer := stop g.storer, lastRetire := s.gtick }).groupOver s.selA)

/-! ## TASK (R321 to R323) -/

/-- `task.post`, R302; a record with `CO` ≠ 0 is resumed (20 R369). -/
def execTaskPost (d a : Reg) (s : State) : Host.Outcome State Fault Refusal :=
  finish s.cur (do
    let th ← getMe s
    let g ← getGroup s
    if th.sent then
      let v ← answer s .sync
      .ok (s.retireX d v 8)
    else if th.prog.stage == 3 then postAnswer s d
    else
      needLive s th [a] []
      let ea := (th.rx a).toNat
      if ea % 64 != 0 then raise s .align (th.rx a)
      else
        let (s, ws) ← loadAll s (dwords ea 8)
        let th ← getMe s
        let (seq, s) := s.fresh
        let s := if th.prog.stage == 17 then s else s.setMe { th with prog := { th.prog with
          seq := seq, asked := [], got := (List.range 8).zip ws, stage := 17, note := 0 } }
        let s ← releaseWait s s.cur .rel .mod
        if recWord ws 7 != 0 && recField ws 7 5 0 == 0 then resumeFrom s (recWord ws 7).toNat (dwords ea 8) (some ws) 0
        else sentAndWait s (fun w seq => .record
          { who := some (w, seq), bell := none, die := recField ws 3 57 55, dom := g.dom, addr := w64 ea, words := ws, objs := [] }) .sync)

/-- The causes that still wait for a thread that ends go to the lowest thread that has not ended; none is left for a group whose
threads have all ended (14 R262, R266). -/
def State.handOn (s : State) (core : Nat) (as : List Async) : State :=
  match s.group core with
  | none => s
  | some g => match g.deliverTo with
    | none => s
    | some t => (as.filter fun a => a.jidx.isNone || a.srce != 0).foldl (fun (s : State) a => s.pend core t a) s

/-- `task.exit`, R322, 02 R26. -/
def execTaskExit (s : State) : Host.Outcome State Fault Refusal :=
  finish s.cur (do
    let th ← getMe s
    let s ← releaseWait s s.cur .rel .mod
    let t := s.retire { th.advance 8 with status := .ended, pend := [] }
    .ok ((t.handOn s.cur.core th.pend).groupOver s.cur.core))

/-- `task.yield`, R323. -/
def execTaskYield (s : State) : Host.Outcome State Fault Refusal :=
  finish s.cur (do
    let th ← getMe s
    let g ← getGroup s
    let d := dieOf s.cur.core
    let t := match s.waiter d false fun q => g.prio ≤ q.level with
      | some q => s.suspend g.gang 1 (some q.head)
      | none => s
    .ok (t.retire (th.advance 8)))

/-- Field `k` of a work identifier under `WIDLAY` (02 R19). -/
def widField (wid lay : W64) (k : Nat) : Nat :=
  let w := layWidths lay
  wid.toNat / 2 ^ ((w.take k).foldl (· + ·) 0) % 2 ^ ((w[k]?).getD 0)

/-- `task.wid`, R321. -/
def execTaskWid (d : Reg) (k : BitVec 3) (s : State) : Host.Outcome State Fault Refusal :=
  toX s 8 d [] fun th => w64 (widField th.wid th.widlay k.toNat)

/-- `task.self`, R321. -/
def execTaskSelf (d : Reg) (which : BitVec 2) (s : State) : Host.Outcome State Fault Refusal :=
  finish s.cur (do
    let g ← getGroup s
    match find s.gangs g.gang with
    | none => .error (.fault .noAgent)
    | some k =>
      .ok (s.retireX d (if which == 0 then k.answer else if which == 1 then w64 k.num else w64 s.cur.core) 8))

end Sys2Proof.Machine
end

