-- ==== Sys2Proof/Machine/Susp.lean ====
section
/-! DEFINITION. Suspending a gang: its agreed tick (20 R359, R360), the save of its groups (R361 to R365), and what becomes of it
(R366, R309; 02 R32). -/

namespace Sys2Proof.Machine

/-! ## The agreed tick (R359, R360) -/

/-- The cores that a gang holds: a group that has retired holds none (02 R26). -/
def State.coresOf (s : State) (id : Nat) (g : Gang) : List Nat := g.cores.filter (s.holds id)

/-- The agents of a gang. -/
def State.gangAgents (s : State) (id : Nat) (g : Gang) : List Who := (s.coresOf id g).flatMap agentsOf

/-- Is every agent of a gang at an instruction boundary (07 R120, 16 R284, 11 R230)? -/
def State.quiet (s : State) (id : Nat) (g : Gang) : Bool :=
  g.running.isEmpty && (s.gangAgents id g).all fun w => match s.agent w with
    | some th => !s.underway w th.prog
    | none => true

/-- An agent stops at its instruction boundary: its instruction is discarded, but for its requests to homes when `kept`, and a refusal that
has reached a feed core meanwhile stops it. -/
def State.stopAgent (s : State) (kept : Bool) (w : Who) : State :=
  match s.agent w with
  | some th =>
    let s := (s.withdrawFrom kept w).setAgent w { th with wait := .none, prog := Prog.idle }
    if w.issuer.isFeed then s.feedLate w else s
  | none => s

/-- The jobs that are parked at a core's banks. -/
def State.parkedJobs (s : State) (core : Nat) : List Nat :=
  ((s.core core).banks.toList.flatMap fun b => b.queue ++ b.retry).filterMap fun q => match q with
    | .job id _ _ => some id
    | _ => none

/-- A parked job leaves the wait queue with XLATE_NONE: it fails (11 Table 4, 18 R332). -/
def State.failJob (s : State) (id : Nat) : State :=
  match find s.jobs id with
  | none => s
  | some j => match j.st with
    | .running done _ | .sub done _ _ => s.jobEnd id j 1 done
    | .held set _ _ => s.setEnd (s.setCards set) 1
    | _ => s

/-- The deposits that wait for room in a group's rings are held from the agreed tick on, or refused (R360). -/
def State.holdDeposits (s : State) (core : Nat) : State :=
  match s.group core with
  | none => s
  | some g =>
    let ds := (List.range 4).flatMap fun j => (g.ring j).waiting
    let g := (List.range 4).foldl (fun (g : Group) j => g.setRing j { g.ring j with waiting := [] }) g
    ds.foldl (fun (s : State) d => match s.arrive core with
      | .hold gang gidx => s.holdMsg gang gidx core (.deposit d)
      | _ => s.send (d.refuse .xlateNone)) (s.setGroup core g)

/-- The core that a message in the armature is addressed to, of those that a suspension holds (R360). -/
def State.destOf (s : State) (m : Msg) : Option Nat :=
  match m with
  | .far m => some m.target
  | .deposit d => some d.core
  | .reply id => (find s.jobs id).map (·.origin)
  | _ => none

/-- At the agreed tick of a time slice or pre-emption, what the armature carries to a core of the gang is held, or refused when the buffer is
full (R360). -/
def State.sweep (s : State) (cores : List Nat) : State :=
  let mine (m : Msg) : Bool := (s.destOf m).any cores.contains
  (s.net.filter mine).foldl (fun (s : State) m => match s.destOf m with
    | some c => match s.arrive c with
      | .hold gang gidx => s.holdMsg gang gidx c m
      | _ => s.refuseMsg m
    | none => s) { s with net := s.net.filter fun m => !mine m }

/-- A core of a gang at its agreed tick: nobody stays parked on its scratchpad. -/
def State.stopCore (s : State) (core : Nat) : State :=
  let s := (s.parkedJobs core).foldl (fun (s : State) id => s.failJob id) s
  (s.releaseParked core 0).holdDeposits core

/-- The objects of a gang that are still to be written, each with its group's index. -/
def Susp.openObjs (u : Susp) : List (W64 × Nat) := (u.objs.zip (List.range u.objs.length)).filter fun e => !u.saved.contains e.2

/-! ## The save of a group (R361) -/

/-- Does a region or barrier object of a job lie in the scratchpad of its group (R361 item 4)? -/
def Job.touches (j : Job) : Bool :=
  let here (r : Nat × Nat) : Bool :=
    r.2 != 0 && (meets r.1 r.2 0 (2 ^ 21) || meets r.1 r.2 (farBase + j.origin * 2 ^ 21) (2 ^ 21))
  ([0, 1, 2, 3, 4].any fun k => here (cardRegion j.card k)) || (cardBar j.card != 0 && here (cardBar j.card, 16))

/-- The jobs of a group of a gang that have not completed. -/
def State.jobsOf (s : State) (id core : Nat) : Map Job :=
  s.jobs.filter fun (e : Nat × Job) => e.2.gang == id && e.2.origin == core && e.2.open_

/-- Have a group's stores been acknowledged or refused, and its jobs on its scratchpad completed (items 3 and 4)? -/
def State.saveReady (s : State) (id core : Nat) : Bool :=
  ((s.core core).jrnl.all fun e => e.parts.all fun p => p.bad) && !((s.jobsOf id core).any fun (e : Nat × Job) => e.2.touches)

/-- Write a header but for `STATE`, and then LIVE (items 6 and 7). -/
def State.writeHeader (s : State) (dom va : Nat) (h : List Byte) : Except Cause State :=
  match s.objWrite dom va (h.take 8) 1 with
  | .error c => .error c
  | .ok s => match s.xlate [] dom ((va + 8) % 2 ^ 64) true .write with
    | .error c => .error c
    | .ok p => match s.objPoke p 4 (natOfBytes ((h.drop 8).take 4)) with
      | .error c => .error c
      | .ok s => match s.objWrite dom (va + 16) (h.drop 16) 30 with
        | .error c => .error c
        | .ok s => s.objState dom va 1

/-- Write the object of group `k` of a gang (items 5 to 7). -/
def State.saveGroup (s : State) (id : Nat) (g : Gang) (u : Susp) (k core : Nat) : Except Cause State :=
  match s.group core with
  | none => .ok s
  | some gr =>
    let js := s.jobsOf id core
    let rw : Option (Nat × Reg) := match u.byWho with
      | some (w, d) => if w.core == core then some (w.issuer.setNo, d) else none
      | none => none
    let info : SaveInfo :=
      { why := u.why, hub := u.why != 0, row := g.row, gsize := g.cores.length, stride := u.stride, tick := u.agreed, rw := rw }
    let (body, hdr) := s.objOf core gr (js.map (·.2)) info
    let va := ((u.objs[k]?).getD 0).toNat
    match s.objWrite gr.dom (va + 256) body (body.length / 8) with
    | .error c => .error c
    | .ok s => match s.writeHeader gr.dom va (hdr ++ s.sealOf gr.dom hdr va) with
      | .error c => .error c
      | .ok s => .ok (js.foldl (fun (s : State) (e : Nat × Job) => s.setJob e.1 { e.2 with recorded := true }) s)

/-! ## The end of a save (R361, R365, R366) -/

/-- The save has failed: the gang is lost, and its objects that are FORMING become DAMAGED (R365, R358). The record's `TEPC` and `TVAL` are not
stated: free values. -/
def State.saveLost (s : State) (id : Nat) (g : Gang) (u : Susp) (k core : Nat) : State :=
  let s := if u.stopped then u.openObjs.foldl (fun (s : State) e => s.objMark g.dom e.1.toNat 0 5) s else s
  let wid := match s.agent { core := core, issuer := .thread 0 } with
    | some th => th.wid
    | none => 0
  let (tepc, s) := s.freeWord
  let (tval, s) := s.freeWord
  let s := s.report { core := core, t := 0, wid := wid, code := Cause.saveLost.code, tepc := tepc, tval := tval }
  let s := s.logFailure
    { w0 := s.gtick64, w1 := w64 (5 + Cause.saveLost.code * 2 ^ 8 + core * 2 ^ 40), w2 := 0, w3 := (u.objs[k]?).getD 0 }
  let s := (s.coresOf id g).foldl (fun (s : State) c => match s.group c with
    | some gr => s.clearGroup c gr
    | none => s) s
  let s := ((s.refuseHeld id).abandonJobs id).unclaim g u
  ({ s with gangs := del s.gangs id }).send (.retired g.home g.slot g.num (some .saveLost))

/-- A core whose group's object is LIVE is free. -/
def State.vacate (s : State) (core : Nat) : State :=
  let k := s.core core
  s.setCore core { k with group := none, jrnl := [], banks := Vector.replicate 3 Bank.init }

/-- A gang that a hub has saved returns to its queue: at the tail of its level after a time slice (02 R32), at the head after a
pre-emption (R309, R366). A gang whose launch has failed is not resumed. `objs` holds 0 for a group that had retired. -/
def State.requeue (s : State) (id : Nat) (g : Gang) (u : Susp) (objs : List W64) : State :=
  let h := s.hub g.home
  match find h.slots g.slot with
  | none => s.refuseHeld id
  | some l =>
    let s := s.setHub g.home { h with slots := set h.slots g.slot { l with out := l.out - 1 } }
    let d := if h.dead then (g.cores.head?.map dieOf).getD 0 else g.home
    let p : Pend := { home := g.home, slot := g.slot, lo := g.num, n := 1, level := g.prio, stolen := none, objs := objs,
                      answer := g.answer, was := some id, turn := if u.why == 1 then (s.hub d).admits else 0 }
    if s.gone p then (s.refuseHeld id).freeFailed g.home g.slot
    else
      let q := s.hub d
      s.setHub d (Hub.renew { q with queue := if u.why == 1 then enqueue q.queue p else enqueueHead q.queue p })

/-- A pending range without its first gang. -/
def Pend.tail (p : Pend) : List Pend := if p.n ≤ 1 then [] else [{ p with lo := p.lo + 1, n := p.n - 1 }]

/-- The pending gang whose claim caused a save goes to the head of its level when the save completes (R366). -/
def Hub.claimFirst (c : HeadId) (h : Hub) : Hub :=
  match h.queue.find? fun q => q.head == c with
  | none => h
  | some p => Hub.renew { h with
      queue := enqueueHead (h.queue.flatMap fun q => if q == p then q.tail else [q]) { p with n := 1 } }

/-- Every object of a gang is LIVE: its cores are free, and the gang leaves its launch or its queue has it again. -/
def State.saveDone (s : State) (id : Nat) (g : Gang) (u : Susp) : State :=
  let objs := (u.objs.zip g.cores).map fun (e : W64 × Nat) => if s.holds id e.2 then e.1 else 0
  let s := ((s.coresOf id g).foldl (fun (s : State) c => s.vacate c) s).unclaim g u
  let s := { s with gangs := del s.gangs id }
  if u.why == 0 then s.send (.retired g.home g.slot g.num none)
  else
    let s := s.requeue id g u objs
    match u.claim with
    | some c => { s with hubs := mapVals (Hub.claimFirst c) s.hubs }
    | none => s

/-! ## The agreed tick -/

/-- Set an object FORMING (R361 item 1), or none when it is LIVE or RESUMING, from which nothing makes it FORMING (R358). -/
def State.objForm (s : State) (dom va : Nat) : Option State :=
  match s.objStatePa [] dom true .write va with
  | .error _ => some s
  | .ok pa => match s.engineRead pa.pa 4 with
    | .error _ => some s
    | .ok old => if old == 1 || old == 2 then none else match s.objPoke pa 4 0 with
      | .ok s => some s
      | .error _ => some s

/-- Set each object of a gang FORMING, up to the first that cannot be. -/
def State.formAll (s : State) (dom : Nat) (objs : List (W64 × Nat)) : State × Option Nat :=
  match objs with
  | [] => (s, none)
  | (va, k) :: rest => match s.objForm dom va.toNat with
    | some s => State.formAll s dom rest
    | none => (s, some k)

/-- AGREED_TICK: gang `selA` stops, once each of its agents stands at an instruction boundary, and its objects are FORMING (R361 item 1). A
save whose area holds a LIVE or RESUMING object by then fails, and leaves that object (notes/assumptions/17.md). -/
def execAgreedTick (s : State) : Host.Outcome State Fault Refusal :=
  event (match find s.gangs s.selA with
    | some g => match g.susp with
      | some u =>
        if u.stopped || s.gtick < u.agreed || !s.quiet s.selA g then s
        else
          let id := s.selA
          let cs := s.coresOf id g
          let s := (s.gangAgents id g).foldl (fun (s : State) w => s.stopAgent false w) s
          let s := if u.why == 0 then s else s.sweep cs
          let s := cs.foldl (fun (s : State) c => s.stopCore c) s
          let v : Susp := { u with stopped := true, saved := (s.retiredOf id g).map (·.2) }
          let g : Gang := { g with susp := some v, latch := [] }
          let s := { s with gangs := set s.gangs id g }
          match s.formAll g.dom v.openObjs with
          | (s, none) => s
          | (s, some k) => s.saveLost id g v k ((g.cores[k]?).getD 0)
      | none => s
    | none => s)

/-- SAVE_BODY_WRITE: the save of gang `selA` goes on with the first of its groups that is ready for it. -/
def execSaveBodyWrite (s : State) : Host.Outcome State Fault Refusal :=
  event (match find s.gangs s.selA with
    | some g => match g.susp with
      | some u =>
        let id := s.selA
        let open_ := (g.cores.zip (List.range g.cores.length)).filter fun (e : Nat × Nat) => !u.saved.contains e.2
        if !u.stopped then s
        else match open_.find? fun (e : Nat × Nat) => s.saveReady id e.1 with
          | none => s
          | some (core, k) => match s.saveGroup id g u k core with
            | .error _ => s.saveLost id g u k core
            | .ok s =>
              let v : Susp := { u with saved := u.saved ++ [k] }
              if open_.length == 1 then s.saveDone id g v
              else { s with gangs := set s.gangs id { g with susp := some v } }
      | none => s
    | none => s)

end Sys2Proof.Machine
end

