-- ==== Sys2Proof/Machine/Debug.lean ====
section
/-! DEFINITION. The debug commands (26 R429, Table 6): the trace registers (25 R414), claims, halts and steps (R423), the state of
halted groups (Table 7), watchpoints (R419), maquettes and reverse steps (R422), and the module counters (R425). -/

namespace Sys2Proof.Machine

/-! ## Trace registers (25 R414) -/

/-- `TRCTL`. -/
def Trace.ctl (t : Trace) : W64 :=
  w64 (natOf t.en + natOf t.marks * 2 + natOf t.wrap * 4 + natOf t.full * 8 + t.period.toNat * 2 ^ 32)

/-- A trace register. -/
def Trace.reg (t : Trace) (n : Nat) : W64 :=
  match n with
  | 0 => t.ctl
  | 1 => t.base
  | 2 => t.units.setWidth 64
  | 3 => t.head
  | _ => t.lost

/-- A write of a trace register through its map, or none when R414 refuses it. The first frieze after `EN` is set starts from zero
(R416). -/
def Trace.write (t : Trace) (n : Nat) (v : W64) : Option Trace :=
  match n with
  | 0 =>
    let p := fld v 63 32
    if 1 ≤ p && p ≤ 4095 then none
    else some { t with
      period := BitVec.ofNat 32 p, full := t.full && !bitOf v 3, wrap := bitOf v 2, marks := bitOf v 1, en := bitOf v 0,
      prior := if !t.en && bitOf v 0 then [] else t.prior }
  | 1 => if t.en then none else some { t with base := keep [(51, 12)] v }
  | 2 => if t.en then none else some { t with units := v.setWidth 20 }
  | _ => none

/-- READ_TRACE_REGISTER. -/
def execReadTraceRegister (s : State) : Host.Outcome State Fault Refusal :=
  mailCmd s 0x0030 false fun s =>
    let n := (s.marg 0).toNat
    if 5 ≤ n then s.mailDone 3 else (s.setMarg 1 (s.trace.reg n)).mailDone 0

/-- WRITE_TRACE_REGISTER. -/
def execWriteTraceRegister (s : State) : Host.Outcome State Fault Refusal :=
  mailCmd s 0x0031 false fun s => match s.trace.write (s.marg 0).toNat (s.marg 1) with
    | some t => ({ s with trace := t }).mailDone 0
    | none => s.mailDone 3

/-! ## Claims (R422) -/

/-- The hub and slot of the launch that a post answer names (17 R302). -/
def State.launchOf (s : State) (v : W64) : Option (Nat × Nat × Launch) :=
  let die := fld v 10 8
  let slot := fld v 20 11
  match find (s.hub die).slots slot with
  | some l => if l.answer die slot == v then some (die, slot, l) else none
  | none => none

/-- Replace a launch. -/
def State.setLaunch (s : State) (die slot : Nat) (l : Launch) : State :=
  let h := s.hub die
  s.setHub die { h with slots := set h.slots slot l }

/-- A launch's maquettes are given up. -/
def State.dropMaquettes (s : State) (die slot : Nat) : State :=
  { s with maquettes := s.maquettes.filter fun m => !(m.die == die && m.slot == slot) }

/-- A claim with a maquette period in µs; `GTICK` runs at 1,350 ticks a µs (01 R12). -/
def State.claim (s : State) (die slot : Nat) (l : Launch) (p : Nat) : State :=
  let ticks := p * 1350
  (s.dropMaquettes die slot).setLaunch die slot { l with claimed := true, period := ticks, nextMq := s.gtick + ticks }

/-- CLAIM_LAUNCH. -/
def execClaimLaunch (s : State) : Host.Outcome State Fault Refusal :=
  mailCmd s 0x0032 false fun s =>
    let p := (s.marg 1).toNat
    if p != 0 && (p < 10 || 10000 < p) then s.mailDone 3
    else match s.launchOf (s.marg 0) with
      | some (die, slot, l) => (s.claim die slot l (if p == 0 then 100 else p)).mailDone 0
      | none => s.mailDone 3

/-- A halted thread runs again; no step is under way any more. -/
def Thread.unhalt (th : Thread) : Thread :=
  { th with status := if th.status == .halted then .running else th.status, stepsLeft := none }

/-- A group resumes at its agents' boundaries (R423). -/
def Group.unhalt (g : Group) : Group := { g with threads := g.threads.map Thread.unhalt, halted := false, halting := false }

/-- No watchpoint is set on a core. -/
def Core.unwatch (k : Core) : Core := { k with watch := Vector.replicate 4 { kind := 0, base := 0, len := 0 } }

/-- RELEASE_CLAIM: halted groups resume, and the launch's watchpoints and maquettes are given up. -/
def execReleaseClaim (s : State) : Host.Outcome State Fault Refusal :=
  mailCmd s 0x0033 false fun s => match s.launchOf (s.marg 0) with
    | some (die, slot, l) =>
      if !l.claimed then s.mailDone 3
      else
        let t := (s.launchGroups die slot).foldl (fun (s : State) (e : Nat × Group) =>
          (s.setCore e.1 (s.core e.1).unwatch).setGroup e.1 e.2.unhalt) s
        ((t.dropMaquettes die slot).setLaunch die slot { l with claimed := false, nextMq := 0 }).mailDone 0
    | none => s.mailDone 3

/-! ## Halts and steps (R423) -/

/-- May a debugger name this core's group (R429)? The `MSTAT` that refuses it, or the group. -/
def State.claimedGroup (s : State) (core : Nat) (mustHalt : Bool) : Except Nat Group :=
  if 2048 ≤ core then .error 3
  else match s.group core with
    | none => .error 2
    | some g => if s.claimed core && (!mustHalt || g.halted) then .ok g else .error 2

/-- Do all agents of a core stand at instruction boundaries (07 R120, 16 R284)? -/
def State.atBoundary (s : State) (core : Nat) : Bool :=
  ((s.opsOf core).all fun r => (r.memberOf core).isNone) && (agentsOf core).all fun w => match s.agent w with
    | some th => !s.underway w th.prog
    | none => true

/-- A thread of a group that a debugger halts (R423); the counters of one that firmware holds are halted too (R411). -/
def Thread.haltIn (th : Thread) : Thread :=
  match th.status with
  | .running => { th.halt with prog := Prog.idle }
  | .held => th.noteHalt
  | _ => th

/-- A group halts whole. -/
def Group.halt (g : Group) : Group := { g with threads := g.threads.map Thread.haltIn, halting := false, halted := true }

/-- The halt of a core's group is complete: what its agents have not retired is discarded. -/
def State.haltDone (s : State) (core : Nat) : State :=
  let s := (agentsOf core).foldl (fun (s : State) w => s.stopAgent false w) s
  match s.group core with
  | some g => s.setGroup core g.halt
  | none => s

/-- The PC of thread set 0 of a group. -/
def Group.pc0 (g : Group) : W64 :=
  match g.threads[0]? with
  | some th => th.pc
  | none => 0

/-- Does the mailbox wait for the halt of this core's group? -/
def State.haltAsked (s : State) (core : Nat) : Bool := s.mgmt.busy && s.mgmt.mcmd == 0x0034 && (s.marg 0).toNat == core

/-- HALT_GROUP as the controller waits for it (`selB` 1): the group of core `selA` has come to its boundaries, or has left. -/
def State.haltPoll (s : State) (core : Nat) : State :=
  match s.group core with
  | none => if s.haltAsked core then s.mailDone 2 else s
  | some g =>
    if !g.halting then if s.haltAsked core then s.mailDone (if g.halted then 0 else 2) else s
    else if !s.atBoundary core then s
    else
      let t := s.haltDone core
      if s.haltAsked core then (t.debugEvent 5 core 0 g.pc0 0).mailDone 0 else t

/-- HALT_GROUP: the command, which completes when the group is halted, or its completion. -/
def execHaltGroup (s : State) : Host.Outcome State Fault Refusal :=
  if s.selB == 1 then event (s.haltPoll s.selA)
  else mailCmd s 0x0034 false fun s =>
    let core := (s.marg 0).toNat
    match s.claimedGroup core false with
    | .error n => s.mailDone n
    | .ok g => if g.halted then s.mailDone 0 else s.setGroup core { g with halting := true }

/-- RESUME_OR_STEP: the group runs; for a step, until thread set `MARG2` has retired n instructions. -/
def execResumeOrStep (s : State) : Host.Outcome State Fault Refusal :=
  mailCmd s 0x0035 false fun s =>
    let core := (s.marg 0).toNat
    let n := (s.marg 1).toNat
    let t := (s.marg 2).toNat
    if 65535 < n || (n != 0 && 4 ≤ t) then s.mailDone 3
    else match s.claimedGroup core false with
      | .error n => s.mailDone n
      | .ok g =>
        let g := g.unhalt
        let g := match n, g.threads[t]? with
          | 0, _ | _, none => g
          | _, some th => g.setAgent (.thread t) { th with stepsLeft := some n }
        (s.setGroup core g).mailDone 0

/-! ## State items (Table 7) -/

/-- Is a control register held by the thread (03 Table 6a)? -/
def ctlOfThread (n : Nat) : Bool := n ≤ 0x011 || (0x041 ≤ n && n ≤ 0x043)

/-- A tile's doubleword. -/
def Tile.word (t : Tile) (w : Nat) : W64 := if w < 512 then read64 t.data (8 * w) else read64 t.side (8 * (w - 512))
/-- Replace a tile's doubleword. -/
def Tile.setWord (t : Tile) (w : Nat) (v : W64) : Tile :=
  if w < 512 then { t with data := write64 t.data (8 * w) v } else { t with side := write64 t.side (8 * (w - 512)) v }

/-- Doubleword `k` of a vector register: data, sidecar, tag. -/
def VReg.word (r : VReg) (k : Nat) : W64 :=
  if k < 4 then r.data.extractLsb' (64 * k) 64 else if k == 4 then r.side else r.tag.setWidth 64
/-- Replace a doubleword of a vector register, which is live then. -/
def VReg.setWord (r : VReg) (k : Nat) (v : W64) : VReg :=
  if k < 4 then
    let low := r.data.toNat % 2 ^ (64 * k)
    let high := r.data.toNat / 2 ^ (64 * (k + 1)) * 2 ^ (64 * (k + 1))
    { r with data := BitVec.ofNat 256 (low + v.toNat * 2 ^ (64 * k) + high), live := true }
  else if k == 4 then { r with side := v, live := true }
  else { r with tag := v.setWidth 4, live := true }

/-- A feed core of a group. -/
def Group.feed (g : Group) (f : Nat) : Feed := if f == 1 then g.loader else g.storer
/-- Replace a feed core of a group. -/
def Group.setFeed (g : Group) (f : Nat) (v : Feed) : Group := if f == 1 then { g with loader := v } else { g with storer := v }

/-- Is an item's index inside its limits? -/
def itemOk (g : Group) (item idx : Nat) : Bool :=
  let lo := idx % 256
  let hi := idx / 256
  match item with
  | 0 | 4 => idx == 0
  | 1 => 1 ≤ idx && idx ≤ 31
  | 2 => ctlExists idx && (!(0x018 ≤ idx && idx ≤ 0x01F) || idx - 0x018 < g.nt)
  | 3 => lo < 32 && hi ≤ 5
  | 5 => lo < 8 && hi ≤ 2
  | 6 => (lo == 1 || lo == 2) && hi ≤ 32
  | 7 => lo < g.nt && hi < 640
  | 8 => lo < g.na && hi % 256 < 64 && hi / 256 < 16
  | _ => false

/-- The value and the second result of an item. -/
def State.item (s : State) (core t : Nat) (g : Group) (item idx : Nat) : W64 × W64 :=
  let th := (g.agent (.thread t)).getD Thread.init
  let lo := idx % 256
  let hi := idx / 256
  match item with
  | 0 => (th.pc, 0)
  | 1 => (vget 0 th.x lo, w64 (natOf (th.xlive.getLsbD lo)))
  | 2 => (s.ctlRead core g th idx, 0)
  | 3 =>
    let r := vget VReg.dead th.v lo
    (r.word hi, w64 (natOf r.live))
  | 4 => (w64 (natOf th.kernel), 0)
  | 5 =>
    let c := vget Counter.init th.ctrs lo
    (if hi == 0 then c.value else if hi == 1 then c.start else c.control, 0)
  | 6 =>
    let f := (g.feed lo).th
    (if hi == 32 then f.pc else f.rx (BitVec.ofNat 5 hi), 0)
  | 7 => ((vget Tile.init g.tiles lo).word hi, 0)
  | 8 => (w64 (accElem (g.acc lo) (hi % 256) (hi / 256)), 0)
  | _ => (0, 0)

/-- The arguments of READ_STATE and WRITE_STATE: core, thread set and item; or the `MSTAT` that refuses them. -/
def State.itemArgs (s : State) : Except Nat (Nat × Nat × Nat × Group) :=
  let a := (s.marg 0).toNat
  let item := a / 2 ^ 16
  if a / 2 ^ 13 % 8 != 0 || 8 < item then .error 3
  else match s.claimedGroup (a % 2 ^ 11) true with
    | .error n => .error n
    | .ok g => if itemOk g item (s.marg 1).toNat then .ok (a % 2 ^ 11, a / 2 ^ 11 % 4, item, g) else .error 3

/-- READ_STATE. -/
def execReadState (s : State) : Host.Outcome State Fault Refusal :=
  mailCmd s 0x0036 false fun s => match s.itemArgs with
    | .error n => s.mailDone n
    | .ok (core, t, item, g) =>
      let r := s.item core t g item (s.marg 1).toNat
      ((s.setMarg 2 r.1).setMarg 3 r.2).mailDone 0

/-- A write of a control register with kernel rights: the register's own map. A write that must wait (11 R207, 16 R283) leaves the command
under way. -/
def State.writeCtlItem (s : State) (core t : Nat) (g : Group) (n : Nat) (v : W64) : State :=
  let w : Who := { core := core, issuer := .thread t }
  let done (t : State) (stat : Option Nat) : State :=
    let t := { t with cur := s.cur }
    match stat, t.agent w with
    | some k, some th => (t.setAgent w { th with wait := .none, prog := Prog.idle }).mailDone k
    | some k, none => t.mailDone k
    | none, _ => t
  let th := (g.agent (.thread t)).getD Thread.init
  if ctlReadOnly n then s.mailDone 3
  else match ctlWrite { s with cur := w } (.ctlWr 0 0) w g th n v v with
    | .ok t => done t (some 0)
    | .error (.wait t) => done t none
    | .error _ => s.mailDone 3

/-- A write of an item of one thread set, or none when it is refused. -/
def Thread.setItem (th : Thread) (item idx : Nat) (v : W64) : Option Thread :=
  let lo := idx % 256
  let hi := idx / 256
  match item with
  | 0 => some { th with pc := v &&& ~~~(3 : W64) }
  | 1 => some (th.wx (BitVec.ofNat 5 lo) v)
  | 3 => if hi == 5 && 16 ≤ v.toNat then none else some { th with v := vset th.v lo ((vget VReg.dead th.v lo).setWord hi v) }
  | 4 => if v.toNat ≤ 1 then some { th with kernel := v == 1 } else none
  | 5 =>
    let c := vget Counter.init th.ctrs lo
    if hi == 0 then some { th with ctrs := vset th.ctrs lo { c with value := v } }
    else if hi == 1 then some { th with ctrs := vset th.ctrs lo { c with start := v } }
    else none
  | _ => none

/-- A write of an item that the group holds. -/
def Group.setItem (g : Group) (item idx : Nat) (v : W64) : Group :=
  let lo := idx % 256
  let hi := idx / 256
  match item with
  | 6 =>
    let f := g.feed lo
    let th := if hi == 32 then { f.th with pc := w64 (v.toNat % 2 ^ 14 / 4 * 4) } else f.th.wx (BitVec.ofNat 5 hi) v
    g.setFeed lo { f with th := th }
  | 7 => { g with tiles := vset g.tiles lo ((vget Tile.init g.tiles lo).setWord hi v) }
  | 8 => g.setAcc lo (put 0 (g.acc lo) (16 * (hi % 256) + hi / 256) (v.setWidth 32))
  | _ => g

/-- WRITE_STATE. -/
def execWriteState (s : State) : Host.Outcome State Fault Refusal :=
  mailCmd s 0x0037 false fun s => match s.itemArgs with
    | .error n => s.mailDone n
    | .ok (core, t, item, g) =>
      let idx := (s.marg 1).toNat
      let v := s.marg 2
      if item == 2 then s.writeCtlItem core t g idx v
      else if 6 ≤ item then (s.setGroup core (g.setItem item idx v)).mailDone 0
      else match g.agent (.thread t) with
        | none => s.mailDone 3
        | some th => match th.setItem item idx v with
          | some th => (s.setGroup core (g.setAgent (.thread t) th)).mailDone 0
          | none => s.mailDone 3

/-! ## Watchpoints (R419) -/

/-- SET_WATCHPOINT. -/
def execSetWatchpoint (s : State) : Host.Outcome State Fault Refusal :=
  mailCmd s 0x0038 false fun s =>
    let a := (s.marg 0).toNat
    let n := (s.marg 2).toNat
    if a / 2 ^ 15 != 0 || n == 0 || 2 ^ 32 < n then s.mailDone 3
    else match s.claimedGroup (a % 2 ^ 11) false with
      | .error n => s.mailDone n
      | .ok _ =>
        let k := s.core (a % 2 ^ 11)
        let w : Watch := { kind := a / 2 ^ 13 % 4, base := s.marg 1, len := n }
        (s.setCore (a % 2 ^ 11) { k with watch := vset k.watch (a / 2 ^ 11 % 4) w }).mailDone 0

/-! ## Maquettes and reverse steps (R422) -/

/-- The gangs of a launch. -/
def State.gangsOf (s : State) (die slot : Nat) : Map Gang := s.gangs.filter fun e => e.2.home == die && e.2.slot == slot

/-- A suspension of a group that continues at once: its running counters note it (R411). -/
def Group.blink (g : Group) : Group :=
  { g with threads := g.threads.map fun th : Thread => if th.status == .idle || th.status == .ended then th else th.mapCtrs Counter.resumed }

/-- The bytes of a group's object in a maquette (20 R361). A maquette's WHY is not stated: the caller's free choice. -/
def State.maquetteObj (s : State) (why core : Nat) (g : Group) : List Byte :=
  let (row, n) := match find s.gangs g.gang with
    | some k => (k.row, k.cores.length)
    | none => (false, 1)
  let i : SaveInfo := { why := why, hub := true, row := row, gsize := n, stride := 0, tick := s.gtick, rw := none }
  let (body, h) := s.objOf core g ((s.jobsOf g.gang core).map (·.2)) i
  h ++ s.sealOf g.dom h 0 ++ body

/-- MAQUETTE: hub `selA` saves the launch of slot `selB`, once its period has passed, every agent of its gangs stands at an instruction
boundary, and each group's stores and jobs are done with as a save waits for them (20 R361 items 2 to 4). -/
def execMaquette (s : State) : Host.Outcome State Fault Refusal :=
  event (match find (s.hub s.selA).slots s.selB with
    | none => s
    | some l =>
      let gs := s.gangsOf s.selA s.selB
      let ready (e : Nat × Gang) : Bool := s.quiet e.1 e.2 && (s.coresOf e.1 e.2).all fun c => s.saveReady e.1 c
      if !l.claimed || s.gtick < l.nextMq || !gs.all ready then s
      else
        let t := (gs.flatMap fun e => s.gangAgents e.1 e.2).foldl (fun (s : State) w => s.stopAgent false w) s
        let (why, t) := t.freeNat 3
        let gs := t.launchGroups s.selA s.selB
        let m : Maquette :=
          { die := s.selA, slot := s.selB, groups := gs, jrnls := t.jrnlsOf gs, points := [],
            objs := gs.map fun (e : Nat × Group) => (e.1, t.maquetteObj why e.1 e.2) }
        let t := m.groups.foldl (fun (s : State) (e : Nat × Group) => s.setGroup e.1 e.2.blink) t
        let t := t.setLaunch s.selA s.selB { l with nextMq := l.nextMq + l.period }
        if m.groups.isEmpty then t else { t with maquettes := t.maquettes ++ [m] })

/-- The retired-instruction count of an agent in a set of groups. -/
def countIn (gs : Map Group) (w : Who) : Option Nat :=
  match find gs w.core with
  | some g => (g.agent w.issuer).map (·.retired)
  | none => none

/-- The point of a maquette's run where an agent has retired so many instructions: as it was taken, or as a replay reaches it, with every
effect on the module that the replay has on the way; and the maquette with the points up to there. -/
def Maquette.reach (m : Maquette) (w : Who) (n : Nat) : Option (Point × Maquette) :=
  match findIdx (fun p : Point => p.who == w && p.count == n) m.points with
  | some (k, p) =>
    let past := m.points.take (k + 1)
    some ({ p with redo := past.flatMap (·.redo) }, { m with points := past })
  | none =>
    if countIn m.groups w == some n then
      some ({ who := w, count := n, groups := m.groups, jrnls := m.jrnls, redo := [] }, { m with points := [] })
    else none

/-- The point that is reached from the nearest earlier maquette of a launch, and the maquettes that stay. -/
def reachIn (die slot : Nat) (w : Who) (n : Nat) (ms : List Maquette) : Option (Point × List Maquette) :=
  match ms with
  | [] => none
  | m :: rest => match reachIn die slot w n rest with
    | some (p, left) => some (p, m :: left)
    | none =>
      if m.die == die && m.slot == slot then match m.reach w n with
        | some (p, m') => some (p, m' :: rest.filter fun x : Maquette => !(x.die == die && x.slot == slot))
        | none => none
      else none

/-- A ring as a replay leaves it: the deposits that wait are those that wait now. -/
def Group.keepWaiting (old now : Group) : Group :=
  let at_ (j : Nat) : MRing := { vget MRing.init old.rings j with waiting := (vget MRing.init now.rings j).waiting }
  { old with rings := #v[at_ 0, at_ 1, at_ 2, at_ 3] }

/-- A thread that a replay leaves halted. -/
def Thread.replayed (th : Thread) : Thread :=
  let u := { th with wait := .none, prog := Prog.idle, stepsLeft := none }
  if u.status == .running then u.halt else u

/-- The journal of a core at a point of its group's run: what is outstanding now, and the refusals of then. -/
def Core.rewindJrnl (k : Core) (old : List JEnt) : List JEnt :=
  let now := k.jrnl.filter fun e => e.state == .out
  now ++ old.filter fun e => !(e.state == .out) && !now.any fun x => x.idx == e.idx

/-- A halted group goes back to a point of its run. -/
def State.rewind (s : State) (p : Point) (core : Nat) (old : Group) : State :=
  match s.group core with
  | some g =>
    if !g.halted || g.gang != old.gang then s
    else
      let s := s.setGroup core { old.keepWaiting g with threads := old.threads.map Thread.replayed, halting := false, halted := true }
      s.setCore core { s.core core with jrnl := (s.core core).rewindJrnl (look [] p.jrnls core) }
  | none => s

/-- A replay has an effect again, at the home of its word. -/
def State.redoWrite (s : State) (r : Redo) : State :=
  let put (v : Except Cause Nat) : State := match v with
    | .error _ => s
    | .ok v => match s.engineWrite r.pa r.n v with
      | .ok s => s
      | .error _ => s
  match r.kind with
  | .clear => s.clearEvents (r.pa / 4) (r.pa % 4) r.data
  | .store => put (.ok r.data.toNat)
  | .amo op c => put ((s.engineRead r.pa r.n).map fun old =>
      op.apply (8 * r.n) old (r.data.toNat % 2 ^ (8 * r.n)) (c.toNat % 2 ^ (8 * r.n)))
  | .swap was => match s.engineRead r.pa r.n with
    | .ok st => if st == was then put (.ok r.data.toNat) else s
    | .error _ => s

/-- REVERSE_STEP: thread set `[12:11]` of core `[10:0]` goes back `MARG1` instructions. -/
def execReverseStep (s : State) : Host.Outcome State Fault Refusal :=
  mailCmd s 0x0039 false fun s =>
    let a := (s.marg 0).toNat
    let n := (s.marg 1).toNat
    let w : Who := { core := a % 2 ^ 11, issuer := .thread (a / 2 ^ 11 % 4) }
    if a / 2 ^ 13 != 0 || n == 0 || 65535 < n then s.mailDone 3
    else match s.claimedGroup w.core true with
      | .error n => s.mailDone n
      | .ok g => match find s.gangs g.gang, g.agent w.issuer with
        | some k, some th =>
          if th.retired < n then s.mailDone 3
          else match reachIn k.home k.slot w (th.retired - n) s.maquettes with
            | none => s.mailDone 3
            | some (p, ms) =>
              let t := p.redo.foldl State.redoWrite { s with maquettes := ms }
              let t := p.groups.foldl (fun (s : State) (e : Nat × Group) => s.rewind p e.1 e.2) t
              let pc := ((t.agent w).map (·.pc)).getD 0
              ((t.debugEvent 4 w.core w.issuer.setNo pc 0).setMarg 2 (w64 (th.retired - n))).mailDone 0
        | _, _ => s.mailDone 2

/-! ## Stops, entries and counters (R424, R425) -/

/-- STOP_AT_TICK_COMMAND. -/
def execStopAtTickCommand (s : State) : Host.Outcome State Fault Refusal :=
  mailCmd s 0x003A false fun s =>
    let t := (s.marg 0).toNat
    if t < s.gtick + 64 then s.mailDone 3 else ({ s with stopAt := some t }).mailDone 0

/-- READ_REGISTRATION_ENTRY: the entries of a slice's table (Table 8), without disturbing it. -/
def execReadRegistrationEntry (s : State) : Host.Outcome State Fault Refusal :=
  mailCmd s 0x003B false fun s =>
    let d := (s.marg 0).toNat
    let k := (s.marg 1).toNat
    if 64 ≤ d || 524288 ≤ k then s.mailDone 3
    else
      let (a, b) : W64 × W64 := match (s.slice d).table[k]? with
        | some e => (w64 (e.word % 2 ^ 49 + natOf e.lost * 2 ^ 49 + 2 ^ 63), w64 (e.owner + e.inc.toNat * 2 ^ 16))
        | none => (0, 0)
      ((s.setMarg 2 a).setMarg 3 b).mailDone 0

/-- A module counter (Table 8). The bytes of HBM traffic follow from fills and evictions that no rule fixes: since the last read of the counter
a free number of them has passed. -/
def State.counter (s : State) (kind unit : Nat) : Option (W64 × State) :=
  match kind with
  | 1 => if unit < 64 then some (w64 (s.slice unit).forced, s) else none
  | 2 => if unit < 64 then some (w64 (s.slice unit).stale, s) else none
  | 3 => if unit < 8 then some (w64 (s.hub unit).dropped, s) else none
  | 4 => if unit < 24 then some (w64 (s.port unit).dropped, s) else none
  | 5 => if arrayOk unit then some (w64 (look 0 s.mgmt.softErrs unit), s) else none
  | 6 =>
    if unit < 32 then
      let (more, s) := s.freeWord
      let v := look 0 s.mgmt.hbmBytes unit + more
      some (v, { s with mgmt := { s.mgmt with hbmBytes := set s.mgmt.hbmBytes unit v } })
    else none
  | _ => none

/-- READ_MODULE_COUNTER. -/
def execReadModuleCounter (s : State) : Host.Outcome State Fault Refusal :=
  mailCmd s 0x003C false fun s =>
    let a := (s.marg 0).toNat
    match s.counter (a % 256) (a / 256) with
    | some (v, s) => (s.setMarg 1 v).mailDone 0
    | none => s.mailDone 3

/-! ## Scratchpad words -/

/-- The arguments of the scratchpad commands: the core, its group and the offset; or the `MSTAT` that refuses them. -/
def State.spArgs (s : State) : Except Nat (Nat × Group × Nat) :=
  let core := (s.marg 0).toNat
  let off := (s.marg 1).toNat
  match s.claimedGroup core false with
  | .error n => .error n
  | .ok g => if off % 8 == 0 && off < g.alloc then .ok (core, g, off) else .error 3

/-- READ_SCRATCHPAD_WORD. -/
def execReadScratchpadWord (s : State) : Host.Outcome State Fault Refusal :=
  mailCmd s 0x003D false fun s => match s.spArgs with
    | .error n => s.mailDone n
    | .ok (_, g, off) => ((s.setMarg 2 (read64 g.spData off)).setMarg 3 (w64 (g.tagOf (off / 8)))).mailDone 0

/-- WRITE_SCRATCHPAD_WORD: a change of the word's tag re-evaluates its waiters (11 R223). -/
def execWriteScratchpadWord (s : State) : Host.Outcome State Fault Refusal :=
  mailCmd s 0x003E false fun s => match s.spArgs with
    | .error n => s.mailDone n
    | .ok (core, g, off) =>
      let g := { g with spData := write64 g.spData off (s.marg 2) }.touch (off / 8)
      let (g, changed) := g.setTag (off / 8) ((s.marg 3).toNat % 16)
      let t := s.setGroup core g
      (if changed then t.wake core (off / 8) else t).mailDone 0

/-! ## Events -/

/-- READ_DEBUG_EVENT: the oldest record, with the records dropped since the last one read. -/
def execReadDebugEvent (s : State) : Host.Outcome State Fault Refusal :=
  mailCmd s 0x003F false fun s => match s.mgmt.debugQ with
    | [] => (s.setMarg 0 0).mailDone 0
    | r :: rest =>
      let t := s.margRec { r with w0 := r.w0 ||| w64 (s.mgmt.debugDrop % 2 ^ 16 * 2 ^ 48) }
      ({ t with mgmt := { t.mgmt with debugQ := rest, debugDrop := 0 } }).mailDone 0

end Sys2Proof.Machine
end

