-- ==== Sys2Proof/Machine/Home.lean ====
section
/-! DEFINITION. The events of a word's home and of its owner (09 R165 to R172, R180 to R182), and the answers that reach the
agents that wait for them. -/

namespace Sys2Proof.Machine

/-! ## Answers -/

/-- A value for part `k` of request `seq` reaches an agent; an answer to a request that no instruction has any more is dropped. -/
def State.deliver (s : State) (w : Who) (seq k : Nat) (v : W64) : State :=
  match s.agent w with
  | some th =>
    if seq == 0 || th.prog.seq != seq then s
    else (s.setAgent w { th with prog := { th.prog with
      got := set th.prog.got k v, asked := th.prog.asked.filter (· != k) } }).now (.agent w)
  | none => s

/-- A fault answers parts of request `seq`. -/
def State.deliverTrap (s : State) (w : Who) (seq : Nat) (ks : List Nat) (c : Cause) (v : W64) : State :=
  match s.agent w with
  | some th =>
    if seq == 0 || th.prog.seq != seq then s
    else (s.setAgent w { th with prog := { th.prog with
      reply := some (worse th.prog.reply c v), asked := th.prog.asked.filter fun k => !ks.contains k } }).now (.agent w)
  | none => s

/-- A reply reaches the requesting agent. -/
def State.reply (s : State) (w : Who) (seq : Nat) (ks : List Nat) (r : Reply) : State :=
  match r with
  | .trap c v => s.deliverTrap w seq ks c v
  | .ok vals => ks.foldl (fun (s : State) k => s.deliver w seq k (look 0 vals k)) s

/-- AMO_REPLY: the answer of an AMO, a far access, a deposit, a job card or a post reaches its agent. -/
def execAmoReply (s : State) : Host.Outcome State Fault Refusal :=
  event (match s.takeMsg with
    | some (.amoRep w _ seq ks r, s) => s.reply w seq ks r
    | _ => s)

/-- LOAD_REPLY: the value binds, and fills the cache portion when the load allocates (R166, 10 R189, R190). A load that leaves no copy evicts a
V copy that another one has filled meanwhile: it may be older than the value bound (R173). -/
def execLoadReply (s : State) : Host.Outcome State Fault Refusal :=
  event (match s.takeMsg with
    | some (.loadRep m (.trap c v), s) => s.deliverTrap m.who m.seq [m.k] c v
    | some (.loadRep m (.ok vals), s) =>
      let v := look 0 vals m.k
      let s := match m.fill, m.fresh with
        | some reuse, _ => s.fillWord m.who.core m.pa m.va.toNat reuse v
        | none, true => s.refreshWord m.who.core m.pa v
        | none, false => if m.untracked || isHost m.pa || !s.isClean m.who.core m.pa then s else s.dropWord m.who.core m.pa
      s.deliver m.who m.seq m.k (w64 (v.toNat / 256 ^ (m.pa % 8)))
    | _ => s)

/-! ## Requests at the home -/

/-- The entries a slice's table holds (R165). -/
def tableSize : Nat := 524288

/-- The word of a request. -/
def HomeReq.word (r : HomeReq) : Nat :=
  match r with
  | .reg m => m.pa / 8
  | .amo m => m.pa / 8
  | .store m => m.pa / 8

/-- What becomes of a request at its home: it is served, or it waits. -/
inductive Tried where
  | done (s : State) | wait (s : State)
  deriving Repr

/-- Ask an entry's owner to send its word home, once (R169, R171). -/
def State.askOwner (s : State) (e : REnt) (force : Bool) : State :=
  if e.asked then s
  else
    let h := s.homeOf (e.word * 8)
    let sl := s.slice h
    let s := s.setSlice h { sl with
      table := sl.table.map fun x => if x.word == e.word then { x with asked := true } else x,
      forced := if force then sl.forced + 1 else sl.forced }
    s.send (if force then .forceWb e.owner (e.word * 8) else .revoke e.owner (e.word * 8))

/-- The home answers a registration; an earlier incarnation of the core gets no answer (R180). -/
def State.answerReg (s : State) (m : RegMsg) (ms : List Msg) : State :=
  if m.inc == (s.core m.core).inc then { s with net := s.net ++ ms } else s

/-- The acknowledgement of a registration, the word's value before it when it is one with data (R167). -/
def State.ackMsgs (s : State) (m : RegMsg) : List Msg :=
  (if m.narrow then [.mergeData m.core (m.pa / 8 * 8) (s.homeWord m.pa)] else []) ++ [.regAck m.core (m.pa / 8 * 8)]

/-- The agent whose store to a word of a core has its registration under way. -/
def Core.storer (k : Core) (core pa : Nat) : Option Consumer :=
  let mine (e : JEnt) : Bool := e.parts.any fun p => match p.kind with
    | .reg q => q / 8 == pa / 8 && !p.bad
    | _ => false
  (k.jrnl.find? mine).bind fun e => match e.owner with
    | .thread t => some (.later core t)
    | .loader => some (.feed core false)
    | .storer => some (.feed core true)
    | .departed => none

/-- Merge data from a stack that has failed in service raise ECC on the agent that stored (26 R435), asynchronously on a thread (14 R252). -/
def State.mergeEcc (s : State) (m : RegMsg) : State :=
  if m.narrow && s.stackFails m.pa && m.inc == (s.core m.core).inc then
    match (s.core m.core).storer m.core m.pa with
    | some by_ => s.now (.event (.eccError (m.pa / 8 * 8) none by_) 0 0)
    | none => s
  else s

/-- Record a new entry and acknowledge it (R169); one of a core that has been declared dead is LOST (R180). -/
def State.record (s : State) (m : RegMsg) : State :=
  let s := s.recall m.pa
  let h := s.homeOf m.pa
  let sl := (s.slice h).free (m.pa / 8)
  let e : REnt := { word := m.pa / 8, owner := m.core, inc := m.inc, lost := m.inc != (s.core m.core).inc, asked := false }
  ((s.setSlice h { sl with table := sl.table ++ [e] }).answerReg m (s.ackMsgs m)).mergeEcc m

/-- A registration at the home (R169, R171, R181). DESIGN CHOICE: a full table asks the owner of its earliest entry that is not LOST, since a
LOST entry has no owner to send its word home; where every entry is LOST the registration waits until one frees, and R171 says nothing of
either (notes/assumptions/32.md). Unsafe: hardware may free a LOST entry instead. -/
def State.tryReg (s : State) (m : RegMsg) : Tried :=
  match s.regEnt m.pa with
  | some e =>
    if e.lost then
      if m.narrow then .done (s.answerReg m [.jRefuse m.core 32 (m.pa / 8 + 1) 3 0]) else .done (s.record m)
    else if e.owner == m.core && e.inc == m.inc then .done ((s.answerReg m (s.ackMsgs m)).mergeEcc m)
    else .wait (s.askOwner e false)
  | none =>
    let t := (s.slice (s.homeOf m.pa)).table
    if t.length < tableSize then .done (s.record m)
    else match t.find? fun e => !e.lost with
      | some e => .wait (s.askOwner e true)
      | none => .wait s

/-- An AMO at the home (R172, R181, 26 R435): the read-modify-write in one step, the issuing core's V copy made I. -/
def State.tryAmo (s : State) (m : AmoMsg) : Tried :=
  match s.regEnt m.pa with
  | some e => if e.lost then .done (s.send (.amoRep m.who (some m.pa) m.seq [0] (.trap .ownerLost m.va))) else .wait (s.askOwner e false)
  | none => if s.stackFails m.pa then .done (s.send (.amoRep m.who (some m.pa) m.seq [0] (.trap .ecc (w64 (m.pa / 8 * 8))))) else
    let s := s.recall m.pa
    let old := readN s.mem m.pa m.n
    let v := m.op.apply (8 * m.n) old (m.b.toNat % 2 ^ (8 * m.n)) (m.c.toNat % 2 ^ (8 * m.n))
    let s := (s.poke m.pa m.n v).dropWord m.who.core m.pa
    .done (s.send (.amoRep m.who (some m.pa) m.seq [0] (.ok [(0, w64 old)])))

/-- The acknowledgement of a store at the home (10 R192). -/
def StoreMsg.ack (m : StoreMsg) : Msg :=
  match m.jidx with
  | some j => .jAck m.who.core j (m.pa / 8 + 1)
  | none => .amoRep m.who (some m.pa) m.seq [m.k] (.ok [(m.k, 0)])

/-- The refusal of a narrow store to a LOST word (R181). -/
def StoreMsg.refuse (m : StoreMsg) : Msg :=
  match m.jidx with
  | some j => .jRefuse m.who.core j (m.pa / 8 + 1) 3 0
  | none => .amoRep m.who (some m.pa) m.seq [m.k] (.trap .ownerLost m.va)

/-- The home answers a store; an earlier incarnation of the core gets no answer (R180). -/
def State.answerStore (s : State) (m : StoreMsg) (r : Msg) : State := if m.inc == (s.core m.who.core).inc then s.send r else s

/-- A store at the home (R181, R182, 10 R192): a tracked one revokes the word's registration, an untracked one leaves it. -/
def State.tryStore (s : State) (m : StoreMsg) : Tried :=
  let write (s : State) : State := (s.poke m.pa m.n m.data.toNat).answerStore m m.ack
  match s.regEnt m.pa with
  | some e =>
    if e.lost then
      if m.n == 8 then
        let h := s.homeOf m.pa
        .done (write (s.setSlice h ((s.slice h).free (m.pa / 8))))
      else .done (s.answerStore m m.refuse)
    else if m.tracked then .wait (s.askOwner e false)
    else .done (write s)
  | none => .done (write s)

/-- Serve one request, or leave it waiting. -/
def State.try_ (s : State) (r : HomeReq) : Tried :=
  match r with
  | .reg m => s.tryReg m
  | .amo m => s.tryAmo m
  | .store m => s.tryStore m

/-- The requests that wait, in order: one that waits holds every later one to its word. -/
def State.serveList (s : State) (held : List Nat) (rs : List HomeReq) : State × List HomeReq :=
  match rs with
  | [] => (s, [])
  | r :: rest =>
    if held.contains r.word then
      let (s, left) := State.serveList s held rest
      (s, r :: left)
    else match s.try_ r with
      | .done s => State.serveList s held rest
      | .wait s =>
        let (s, left) := State.serveList s (r.word :: held) rest
        (s, r :: left)

/-- Serve the requests that wait at a home slice (R169). -/
def State.serveHome (s : State) (h : Nat) : State :=
  let (s, left) := s.serveList [] (s.slice h).queue
  s.setSlice h { s.slice h with queue := left }

/-- A request arrives at a word's home, behind those that wait there. -/
def State.atHome (s : State) (r : HomeReq) : State :=
  let h := s.homeOf (r.word * 8)
  (s.setSlice h { s.slice h with queue := (s.slice h).queue ++ [r] }).serveHome h

/-- A message of a dead core is dropped and counted (R180). -/
def State.dropStale (s : State) (pa : Nat) : State :=
  let h := s.homeOf pa
  s.setSlice h { s.slice h with stale := (s.slice h).stale + 1 }

/-- What the home answers from its own copy of a word (R168): a stack that fails raises ECC (26 R435). -/
def State.homeReply (s : State) (m : LoadMsg) : Reply :=
  if s.stackFails m.pa then .trap .ecc (w64 (m.pa / 8 * 8)) else .ok [(m.k, s.homeWord m.pa)]

/-- HOME_LOAD_REQUEST (R168, R180 to R182; the host window: 24 R406). -/
def execHomeLoadRequest (s : State) : Host.Outcome State Fault Refusal :=
  event (match s.takeMsg with
    | some (.loadReq m, s) =>
      if isHost m.pa then
        let (s, v) := s.hostLoad (m.pa - hostBase) (!m.untracked) m.sys
        s.send (.loadRep m (.ok [(m.k, v)]))
      else if m.inc != (s.core m.who.core).inc then s.dropStale m.pa
      else match s.regEnt m.pa with
        | none =>
          let s := s.recallExcl m.pa
          s.send (.loadRep m (s.homeReply m))
        | some e =>
          if e.lost then s.send (.loadRep m (.trap .ownerLost m.va))
          else if m.untracked then s.send (.loadRep m (s.homeReply m))
          else s.send (.fwdLoad m e.owner)
    | _ => s)

/-- FORWARDED_LOAD (R168): the owner replies with the word. One that has sent the word home since, and holds it I, V, or P again with a
registration that the home has not served, owns it no more: the request goes to the home again. -/
def execForwardedLoad (s : State) : Host.Outcome State Fault Refusal :=
  event (match s.takeMsg with
    | some (.fwdLoad m owner, s) =>
      match (s.core owner).cword m.pa with
      | some (_, c) =>
        if s.ownsWord owner m.pa c then s.send (.loadRep m (.ok [(m.k, s.ownedVal owner m.pa c)]))
        else s.send (.loadReq m)
      | none => s.send (.loadReq m)
    | _ => s)

/-- HOME_REGISTRATION (R169, R180). -/
def execHomeRegistration (s : State) : Host.Outcome State Fault Refusal :=
  event (match s.takeMsg with
    | some (.registration m, s) => if m.inc == (s.core m.core).inc then s.atHome (.reg m) else s.dropStale m.pa
    | _ => s)

/-- HOME_AMO (R172; the host window: 24 R406, R408). -/
def execHomeAmo (s : State) : Host.Outcome State Fault Refusal :=
  event (match s.takeMsg with
    | some (.amo m, s) =>
      if isHost m.pa then match s.hostAmo m.op (m.pa - hostBase) m.n m.b m.c with
        | (s, some v) => s.send (.amoRep m.who (some m.pa) m.seq [0] (.ok [(0, v)]))
        | (s, none) => s.send (.amoRep m.who (some m.pa) m.seq [0] (.trap .xlatePerm m.va))
      else if m.inc != (s.core m.who.core).inc then s.dropStale m.pa
      else s.atHome (.amo m)
    | _ => s)

/-- Is a request that waits at the home a core's earlier store to a word (10 R193)? -/
def HomeReq.storeOf (core pa : Nat) (r : HomeReq) : Bool :=
  match r with
  | .reg m => m.core == core && m.pa / 8 == pa / 8
  | .store m => m.who.core == core && m.pa / 8 == pa / 8
  | .amo _ => false

/-- UNTRACKED_STORE_AT_HOME (R182, 10 R192; the host window: 24 R406): an untracked store is performed when it arrives, whatever else waits for
the word's owner, but behind the core's earlier stores to the word (10 R193). -/
def execUntrackedStoreAtHome (s : State) : Host.Outcome State Fault Refusal :=
  event (match s.takeMsg with
    | some (.ustore m, s) =>
      if m.inc != (s.core m.who.core).inc then s.dropStale m.pa
      else if isHost m.pa then (s.hostStore (m.pa - hostBase) m.n m.data.toNat m.tracked m.sys).send m.ack
      else if m.tracked || ((s.slice (s.homeOf m.pa)).queue.any fun r => r.storeOf m.who.core m.pa) then s.atHome (.store m)
      else match s.tryStore m with
        | .done s | .wait s => s
    | _ => s)

/-- The owner's word after it has sent it home: I after a revoke, V after a forced write-back (R166). -/
def State.sendWord (s : State) (core pa : Nat) (after : CWord → CWord) : State :=
  let k := s.core core
  match k.cword pa with
  | some (_, c) =>
    if c.st == WSt.g then
      (s.setCore core (k.setCword pa (after c))).send (.ownerData core k.inc (pa / 8 * 8) (some c.data))
    else s.send (.ownerData core k.inc (pa / 8 * 8) none)
  | none => s.send (.ownerData core k.inc (pa / 8 * 8) none)

/-- REVOKE at the owner (R166, R170). -/
def execRevoke (s : State) : Host.Outcome State Fault Refusal :=
  event (match s.takeMsg with
    | some (.revoke core pa, s) => s.sendWord core pa fun _ => CWord.empty
    | _ => s)

/-- FORCED_WRITE_BACK_AT_OWNER (R166, R171). -/
def execForcedWriteBackAtOwner (s : State) : Host.Outcome State Fault Refusal :=
  event (match s.takeMsg with
    | some (.forceWb core pa, s) => s.sendWord core pa fun c => { c with st := WSt.v }
    | _ => s)

/-- OWNER_DATA_ARRIVAL (R169 to R171, R180): the data is written at the home, the entry leaves, and what waits is served. A reply
with no data is discarded: the word's write-back has come, or comes. -/
def execOwnerDataArrival (s : State) : Host.Outcome State Fault Refusal :=
  event (match s.takeMsg with
    | some (.ownerData core inc pa v, s) =>
      let h := s.homeOf pa
      match v, s.regEnt pa with
      | none, _ => if inc == (s.core core).inc then s.serveHome h else s.dropStale pa
      | some v, some e =>
        if e.owner == core && e.inc == inc && !e.lost then
          let s := s.setSlice h ((s.slice h).free (pa / 8))
          (({ s with mem := write64 s.mem (pa / 8 * 8) v }).send (.wbAck core (pa / 8 * 8))).serveHome h
        else s.dropStale pa
      | some _, none => s.dropStale pa
    | _ => s)

/-- REGISTRATION_ACK (R166). -/
def execRegistrationAck (s : State) : Host.Outcome State Fault Refusal :=
  event (match s.takeMsg with
    | some (.regAck core pa, s) => s.ackReg core pa
    | _ => s)

/-- MERGE_DATA (R167). -/
def execMergeData (s : State) : Host.Outcome State Fault Refusal :=
  event (match s.takeMsg with
    | some (.mergeData core pa v, s) => s.mergeIn core pa v
    | _ => s)

/-- A thread's wait for a write-back's acknowledgement (10 R202). -/
def Thread.wbDone (word : Nat) (th : Thread) : Thread :=
  if th.prog.stage == 20 then { th with prog := { th.prog with asked := th.prog.asked.filter (· != word) } } else th

/-- The same for every agent of a group. -/
def Group.wbDone (word : Nat) (g : Group) : Group :=
  { g with
    threads := g.threads.map (Thread.wbDone word),
    loader := { g.loader with th := g.loader.th.wbDone word },
    storer := { g.storer with th := g.storer.th.wbDone word } }

/-- WRITE_BACK_ACK (10 R202, 11 R207). -/
def execWriteBackAck (s : State) : Host.Outcome State Fault Refusal :=
  event (match s.takeMsg with
    | some (.wbAck core pa, s) => match s.group core with
      | some g => s.setGroup core (Group.wbDone (pa / 8) g)
      | none => s
    | _ => s)

/-! ## The journal (10 R193, R194) -/

/-- Does a key of an acknowledgement name a piece: 0 every piece, `n` + 1 those of word `n`? -/
def JPart.keyed (key : Nat) (p : JPart) : Bool :=
  key == 0 || match p.kind with
    | .home pa _ | .host pa | .reg pa => pa / 8 + 1 == key
    | .far _ _ => false

/-- JOURNAL_ACK (10 R193). -/
def execJournalAck (s : State) : Host.Outcome State Fault Refusal :=
  event (match s.takeMsg with
    | some (.jAck core idx key, s) => s.ackParts core (fun e => e.idx == idx) (JPart.keyed key)
    | _ => s)

/-- A refusal stops a feed core (14 R262): at its next instruction boundary when its instruction has had an effect, and once its journal is
done with when it executes `jmp .` (02 R30); otherwise now, and what has issued is discarded. -/
def State.feedRefused (s : State) (w : Who) (tval : W64) : State :=
  match s.agent w with
  | some th =>
    if s.underway w th.prog || th.prog.inst matches some (.jmp _) then
      s.setAgent w { th with pend := th.pend ++ [{ cause := .storeRefused, tval := tval, srce := 0, fpc := 0, jidx := some (fld tval 4 0) }] }
    else (s.withdraw w).feedFault w .storeRefused tval
  | none => s

/-- The refusal of an entry is held pending for the thread that owns it, or stops the feed core that owns it (14 R254, R262). An
ordered store learns of it when it looks (10 R192). -/
def State.reportLater (s : State) (core : Nat) (e : JEnt) : State :=
  match e.rel == 0, e.owner, (s.core core).jent e.idx with
  | true, .thread t, some e' =>
    s.pend core t { cause := .storeRefused, tval := e'.tval, srce := 0, fpc := 0, jidx := some e.idx }
  | true, i, some e' => s.feedRefused { core := core, issuer := i } e'.tval
  | false, i, some _ =>
    if (s.agent { core := core, issuer := i }).any fun th => th.prog.seq == e.rel then s
    else s.setCore core ((s.core core).freeJent e.idx)
  | _, _, none => s

/-- Refuse the named pieces of an entry. -/
def State.refuseEntry (s : State) (core key reason code : Nat) (e : JEnt) : State :=
  let k := s.core core
  let s := s.setCore core (k.mapJent e.idx (JEnt.refuse (JPart.keyed key) reason code))
  match s.group core, e.owner, e.state with
  | none, _, _ | _, .departed, _ => s.setCore core ((s.core core).clearJent e.idx)
  | some _, _, .out | some _, _, .late => s.reportLater core e
  | _, _, _ => s

/-- STORE_REFUSAL (10 R194, 14 R263). Index 32 names the entries that wait for the registration of the key's word, which is then
held no more. -/
def execStoreRefusal (s : State) : Host.Outcome State Fault Refusal :=
  event (match s.takeMsg with
    | some (.jRefuse core idx key reason code, s) =>
      let mine (e : JEnt) : Bool :=
        if idx < 32 then e.idx == idx else e.parts.any fun p => p.kind == .reg ((key - 1) * 8)
      let k := s.core core
      let s := if idx < 32 then s else s.setCore core (match k.cword ((key - 1) * 8) with
        | some (_, c) => if c.st == WSt.p then k.setCword ((key - 1) * 8) CWord.empty else k
        | none => k)
      ((s.core core).jrnl.filter mine).foldl (fun (s : State) e => s.refuseEntry core key reason code e) s
    | _ => s)

/-! ## Shootdowns (13 R251) -/

/-- Has an instruction that has issued a translated part that it has not asked for, or that it has not performed (R251)? -/
def Prog.keepsParts (q : Prog) : Bool :=
  (q.stage == 16 || (q.stage == 0 && q.seq != 0)) && q.parts.any fun p => p.tgt matches .mem _ _ && (find q.got p.k).isNone

/-- Has every global access that a core has made been answered, whichever group made it and whatever its translation (R251)? -/
def State.drains (s : State) (core : Nat) : Bool :=
  let ours (w : Who) : Bool := w.core == core
  let held := (agentsOf core).any fun w => (s.agent w).any fun th => th.prog.keepsParts
  let inNet := s.net.any fun m => match m with
    | .loadReq m | .fwdLoad m _ | .loadRep m _ => ours m.who
    | .amo a => ours a.who
    | .ustore a => ours a.who
    | _ => false
  let inHome := s.slices.any fun (e : Nat × Slice) => e.2.queue.any fun r => match r with
    | .amo a => ours a.who
    | .store a => ours a.who
    | .reg _ => false
  let posted := (s.core core).jrnl.any fun e => e.parts.any fun p => !p.bad && match p.kind with
    | .far _ _ => false
    | _ => true
  !held && !inNet && !inHome && !posted

/-- Has every access that a cache served completed? -/
def State.cacheDrained (s : State) (c : CacheId) : Bool :=
  match c with
  | .core k => s.drains k
  | .cluster k => s.cores.all fun (e : Nat × Core) => clusterOf e.1 != k || s.drains e.1
  | .die _ => true

/-- TLB_SHOOTDOWN_REQUEST: the cache drops the selected entries; it acknowledges once its accesses have completed. -/
def execTlbShootdownRequest (s : State) : Host.Outcome State Fault Refusal :=
  event (match s.takeMsg with
    | some (.tlbReq c who seq sel, t) =>
      if s.cacheDrained c then (t.shoot c sel).send (.tlbAck who seq) else s.shoot c sel
    | _ => s)

/-- TLB_SHOOTDOWN_ACK. -/
def execTlbShootdownAck (s : State) : Host.Outcome State Fault Refusal :=
  event (match s.takeMsg with
    | some (.tlbAck w seq, s) => match s.agent w with
      | some th =>
        if th.prog.seq != seq || seq == 0 then s
        else (s.setAgent w { th with prog := { th.prog with asked := th.prog.asked.drop 1 } }).now (.agent w)
      | none => s
    | _ => s)

end Sys2Proof.Machine
end

