-- ==== Sys2Proof/Machine/Rot.lean ====
section
/-! DEFINITION. Rotation (22 R380 to R395): sessions, slots, grants, forwards and breaks, the flits that carry them, and ROT. -/

namespace Sys2Proof.Machine

/-! ## Slots -/

/-- `TVAL` of ROT (R394). -/
def rotTval (code ring reason cursor : Nat) : W64 := w64 (code + ring % 16 * 2 ^ 8 + reason % 16 * 2 ^ 12 + cursor % 128 * 2 ^ 16)

/-- A slot of a session. -/
def Session.slot (se : Session) (k : Nat) : RSlot := (se.slots[k]?).getD { st := .free, step := 0, bytes := 0, granted := false }
/-- Replace a slot. -/
def Session.setSlot (se : Session) (k : Nat) (v : RSlot) : Session := { se with slots := setAt se.slots k v }
/-- Block size in bytes. -/
def Session.bytes (se : Session) : Nat := se.bk * 4096
/-- The slot that is FULL with a step, with its number. -/
def Session.fullAt (se : Session) (step : Nat) : Option Nat :=
  (findIdx (fun r : RSlot => r.st == SlotSt.full && r.step == step) se.slots).map (·.1)

/-- Replace the session of a ring. -/
def State.setSess (s : State) (r : Nat) (se : Session) : State := s.setRing r { s.ring r with sess := some se }

/-- Send a flit of a session through its upstream or downstream port. -/
def State.ringSend (s : State) (r : Nat) (up : Bool) (typ slot off : Nat) (payload : List W64) : State :=
  let g := s.ring r
  s.sendFlit (g.portOf up) (mkFlit typ slot g.epoch off payload)

/-- The block flits of a session that still wait to be sent downstream. -/
def State.dropBlockFlits (s : State) (r : Nat) : State :=
  let g := s.ring r
  let p := s.port (g.portOf false)
  s.setPort (g.portOf false) { p with queue := p.queue.filter fun f => !(flitType f == 2 && flitEpoch f == g.epoch) }

/-- Answer the takes that wait for the cursor's step (R391, R395): its slot is FULL, or the session is broken (R386). -/
def State.serveTakes (s : State) (r : Nat) : State :=
  match (s.ring r).sess with
  | none => s
  | some se =>
    let answer : Option Reply := match se.broken, se.fullAt se.cursor with
      | some reason, _ => some (.trap .rot (rotTval 6 r reason se.cursor))
      | none, some k => some (.ok [(0, w64 se.cursor), (1, se.base + w64 (k * se.bytes))])
      | none, none => none
    match answer with
    | none => s
    | some a => se.takes.foldl (fun (s : State) (t : Who × Nat) => s.reply t.1 t.2 [0, 1] a) (s.setSess r { se with takes := [] })

/-- A session breaks (R386): the first reason stays, forwards and the copy of the own block are abandoned, the takes that wait are
answered, and every live neighbour is told. -/
def State.breakRing (s : State) (r reason : Nat) : State :=
  match (s.ring r).sess with
  | none => s
  | some se =>
    if se.broken.isSome then s
    else
      let s := (((s.unparkJob (2 ^ 32 + r)).setSess r { se with broken := some reason, sending := none, put := none }).dropBlockFlits r).serveTakes r
      (s.ringSend r true 6 0 0 []).ringSend r false 6 0 0 []

/-- A slot becomes FREE, and is granted upstream in the same tick (R382, R383). -/
def State.freeSlot (s : State) (r k : Nat) : State :=
  match (s.ring r).sess with
  | none => s
  | some se => (s.setSess r (se.setSlot k { st := .free, step := 0, bytes := 0, granted := true })).ringSend r true 3 k 0 []

/-- The step of the next block that upstream forwards: blocks come in step order (R384). -/
def Session.nextStep (se : Session) : Nat :=
  se.slots.foldl (fun m (x : RSlot) => if x.st != SlotSt.free then max m (x.step + 1) else m) (max 1 se.cursor)

/-! ## Bytes of the slot buffer (R381) -/

/-- The physical address of a byte of the slot buffer. -/
def Session.at_ (se : Session) (off : Nat) : Nat := (se.units[off / 4096]?).getD 0 + off % 4096

/-- Write bytes of the slot buffer at their homes, a piece of one aligned word at a time. -/
def State.bufWrite (s : State) (se : Session) (off : Nat) (bs : List Byte) : Except Cause State :=
  foldM (fun (s : State) (p : SpPart) => s.objPoke { pa := se.at_ p.off, trk := false } p.n p.data.toNat) s (spParts off bs.length bs)

/-- Read doublewords of the slot buffer at their homes. -/
def State.bufRead (s : State) (se : Session) (off : Nat) : Nat → Except Cause (List W64)
  | 0 => .ok []
  | k + 1 => match s.engineRead (se.at_ off) 8 with
    | .error c => .error c
    | .ok v => match State.bufRead s se (off + 8) k with
      | .error c => .error c
      | .ok vs => .ok (w64 v :: vs)

/-! ## Flits of a session -/

/-- A neighbour's open flit is compared with the session (R386): the session word, `B`, `N` and the neighbour's number stand in the
first four doublewords of the payload (notes/assumptions/22.md). -/
def State.openSeen (s : State) (r : Nat) (up : Bool) (se : Session) (f : Flit) : State :=
  let g := s.ring r
  let n := g.members
  let want := if up then (g.self + n - 1) % n else (g.self + 1) % n
  let w (k : Nat) : W64 := (f.payload[k]?).getD 0
  let s := s.setSess r (if up then { se with upEpoch := some (flitEpoch f) } else { se with dnEpoch := some (flitEpoch f) })
  if w 0 == se.word.setWidth 64 && w 1 == w64 se.bytes && w 2 == w64 n && w 3 == w64 want then s else s.breakRing r 3

/-- A block flit (R382, R383): the first of a block uses the grant up. -/
def State.blockSeen (s : State) (r : Nat) (se : Session) (f : Flit) : State :=
  let k := (flitSlot f)
  let x := se.slot k
  let first := x.st == SlotSt.free && x.granted && k < se.slots.length
  let at_ := (flitOff f) * 112
  if !(first || (x.st == SlotSt.filling && x.step != 0)) || se.bytes ≤ at_ then s.breakRing r 3
  else
    let x := if first then { x with st := SlotSt.filling, step := se.nextStep, bytes := 0, granted := false } else x
    let n := min 112 (se.bytes - at_)
    let bs := (f.payload.flatMap fun w => lil 8 w.toNat).take n
    match s.bufWrite se (k * se.bytes + at_) bs with
    | .error _ => s.breakRing r 4
    | .ok s =>
      if x.bytes + n < se.bytes then s.setSess r (se.setSlot k { x with bytes := x.bytes + n })
      else ((s.setSess r (se.setSlot k { x with st := .full, bytes := se.bytes })).ringSend r true 4 k 0 []).serveTakes r

/-- A forward may be due: the collective engine looks again. -/
def State.lookForward (s : State) (r : Nat) : State := s.soon (.event .forwardStart r 0)

/-- A forward acknowledgement (R382, R384): it names the downstream slot. -/
def State.ackSeen (s : State) (r : Nat) (se : Session) (f : Flit) : State :=
  match se.sending with
  | some (k, dst) => if dst == (flitSlot f) then ((s.setSess r { se with sending := none }).freeSlot r k).lookForward r else s
  | none => s

/-- A flit of a ring (R381): held while its neighbour's open flit waits for a session here; dropped and counted when its epoch is
not the announced one. -/
def State.ringFlit (s : State) (port r : Nat) (up : Bool) (f : Flit) : State :=
  let g := s.ring r
  let held := if up then g.heldUp else g.heldDn
  let hold (l : List Flit) : State := s.setRing r (if up then { g with heldUp := l } else { g with heldDn := l })
  let drop : State := s.setPort port { s.port port with dropped := (s.port port).dropped + 1 }
  if (flitType f) == 5 then match g.sess with
    | some se => if (if up then se.upEpoch else se.dnEpoch).isNone then s.openSeen r up se f else hold [f]
    | none => hold [f]
  else if (held.head?.map flitEpoch) == some (flitEpoch f) then hold (held ++ [f])
  else match g.sess with
    | none => drop
    | some se =>
      if (if up then se.upEpoch else se.dnEpoch) != some (flitEpoch f) then drop
      else if se.broken.isSome then s
      else match (flitType f), up with
        | 2, true => s.blockSeen r se f
        | 3, false => (s.setSess r { se with grants := se.grants ++ [(flitSlot f)] }).lookForward r
        | 4, false => s.ackSeen r se f
        | 6, _ => s.breakRing r 5
        | _, _ => s

/-- A flit of types 2 to 6 for the ring that its port serves. -/
def State.portFlit (s : State) (port : Nat) (f : Flit) : State :=
  match s.ringOf port with
  | some (r, up) => s.ringFlit port r up f
  | none => s

/-- BLOCK_FLIT: a block flit lands (R382). A flit that no other event takes (idle, management, or of a type that is never sent) is
received and dropped (R377). -/
def execBlockFlit (port : Nat) (f : Flit) (s : State) : Host.Outcome State Fault Refusal :=
  flitEvent s port f [2, 0, 1, 8, 9, 10, 11, 12, 13, 14, 15] fun s => if (flitType f) == 2 then s.portFlit port f else s
/-- SLOT_GRANT, R383. -/
def execSlotGrant (port : Nat) (f : Flit) (s : State) : Host.Outcome State Fault Refusal := flitEvent s port f [3] fun s => s.portFlit port f
/-- FORWARD_ACK, R382. -/
def execForwardAck (port : Nat) (f : Flit) (s : State) : Host.Outcome State Fault Refusal := flitEvent s port f [4] fun s => s.portFlit port f
/-- OPEN_FLIT, R386. -/
def execOpenFlit (port : Nat) (f : Flit) (s : State) : Host.Outcome State Fault Refusal := flitEvent s port f [5] fun s => s.portFlit port f
/-- BREAK_FLIT, R386. -/
def execBreakFlit (port : Nat) (f : Flit) (s : State) : Host.Outcome State Fault Refusal := flitEvent s port f [6] fun s => s.portFlit port f

/-! ## Ports that go down or come back (R378, R386) -/

/-- A port goes down: the rings it serves break with reason 1. -/
def State.portDown (s : State) (port : Nat) : State :=
  let s := s.setPort port { s.port port with up := false }
  (List.range 12).foldl (fun (s : State) k =>
    let g := s.ring k
    if g.valid && (g.portOf true == port || g.portOf false == port) then s.breakRing k 1 else s) s

/-- PORT_DOWN: port `selA` goes down. -/
def execPortDown (s : State) : Host.Outcome State Fault Refusal :=
  event (if s.selA < 24 && (s.port s.selA).up then s.portDown s.selA else s)

/-- FLIT_CRC_FAILURE: a flit whose CRC fails, or that is not the next one expected, is dropped, and a retry request names the expected
`SEQ`. The sixteenth failure in a row takes the port down. -/
def execFlitCrcFailure (port : Nat) (f : Flit) (s : State) : Host.Outcome State Fault Refusal :=
  let p := s.port port
  event (if port < 24 && p.up && !p.expects f then
      let fails := if (flitIntact f) then p.fails else p.fails + 1
      let s := s.setPort port { p with fails := fails }
      if 16 ≤ fails then s.portDown port else s.sendFlit port (mkFlit 7 0 0 0 [])
    else s)

/-- PORT_RETRAINING: firmware retrains port `selA`, which comes up with its sequence numbers at 0. -/
def execPortRetraining (s : State) : Host.Outcome State Fault Refusal :=
  let p := s.port s.selA
  event (if s.live && s.selA < 24 && !p.up && !p.fenced then s.setPort s.selA { Port.init with up := true, dropped := p.dropped, sent := p.sent } else s)

/-- RING_TEARDOWN: firmware tears ring `selA` down. -/
def execRingTeardown (s : State) : Host.Outcome State Fault Refusal := event (s.breakRing s.selA 2)

/-! ## Forwards (R384) -/

/-- The CONSUMED slot of the lowest step. -/
def Session.toForward (se : Session) : Option Nat :=
  ((List.range se.slots.length).filter fun k => (se.slot k).st == SlotSt.consumed).foldl (fun (m : Option Nat) k => match m with
    | some j => if (se.slot k).step < (se.slot j).step then some k else some j
    | none => some k) none

/-- The payloads of a block, from its doublewords. -/
def payloads (ws : List W64) : Nat → List (List W64)
  | 0 => []
  | k + 1 => if ws.isEmpty then [] else ws.take 14 :: payloads (ws.drop 14) k

/-- FORWARD_START: the collective engine forwards a CONSUMED block of ring `selA`, when it holds a grant and no forward is in
progress. -/
def execForwardStart (s : State) : Host.Outcome State Fault Refusal :=
  let r := s.selA
  event (match (s.ring r).sess with
    | none => s
    | some se => match se.toForward, se.grants, se.sending, se.broken with
      | some k, dst :: rest, none, none => match s.bufRead se (k * se.bytes) (se.bytes / 8) with
        | .error _ => s.breakRing r 4
        | .ok ws =>
          let s := (List.range se.bk).foldl (fun (s : State) j => s.served (se.at_ (k * se.bytes + 4096 * j)) 4096) s
          let s := s.setSess r { se with grants := rest, sending := some (k, dst) }
          let ps := payloads ws (ws.length)
          (ps.zip (List.range ps.length)).foldl (fun (s : State) (e : List W64 × Nat) => s.ringSend r false 2 dst e.2 e.1) s
      | _, _, _, _ => s)

/-! ## The copy of the own block (R390) -/

/-- The job as which the ring's collective engine reads the source. -/
def Put.job (p : Put) (die dom : Nat) : Job :=
  { cluster := die * 8, kind := 3, origin := p.who.core, dom := dom, kernel := p.kernel, who := p.who, gang := p.gang, wid := 0,
    card := [], st := .inbox, recorded := false, cond := 0 }

/-- Copy from byte `off` of the block on, a line of the source at a time. -/
def State.copyBlock (s : State) (r : Nat) (j : Job) (se : Session) (src off : Nat) : Nat → EngOut
  | 0 => .ok s []
  | k + 1 =>
    if se.bytes ≤ off then .ok s []
    else
      let a := (src + off) % 2 ^ 64
      match s.engRead (2 ^ 32 + r) j false a (min (64 - a % 64) (se.bytes - off)) with
      | .ok s bs => match s.bufWrite se off bs with
        | .ok s => State.copyBlock s r j se src (off + bs.length) k
        | .error c => .bad s c
      | r => r

/-- PUT_COPY_COMPLETE: the own block of ring `selA` lands in slot 0; a source that an action table makes wait is read again later. -/
def execPutCopyComplete (s : State) : Host.Outcome State Fault Refusal :=
  let r := s.selA
  event (match (s.ring r).sess with
    | none => s
    | some se => match se.put with
      | none => s
      | some p => match s.copyBlock r (p.job (s.ring r).die se.dom) se p.src.toNat 0 (se.bytes / 64 + 2) with
        | .wait t => { s with spill := t.spill, reach := t.reach }
        | .bad s _ => s.breakRing r 4
        | .ok s _ => ((s.unparkJob (2 ^ 32 + r)).setSess r { se.setSlot 0 { st := .full, step := 0, bytes := se.bytes, granted := false } with put := none }).serveTakes r)

/-! ## ROT (R388 to R394) -/

/-- Raise ROT (R394). -/
def rotTrap {α : Type} (s : State) (code ring reason cursor : Nat) : Do α :=
  raise s .rot (rotTval code ring reason cursor)

/-- The handle of a ring's session (Table 6). -/
def RotRing.handle (g : RotRing) (ring : Nat) : W64 := w64 (ring + g.self * 2 ^ 8 + g.members * 2 ^ 16 + g.epoch.toNat * 2 ^ 32)

/-- The session that a handle names (R388). -/
def handleOf (s : State) (h : W64) : Do (Nat × Session) := do
  let g ← getGroup s
  let ring := fld h 3 0
  let x := s.ring ring
  match x.sess with
  | some se => if ring < 12 && h == x.handle ring && se.dom == g.dom then .ok (ring, se) else rotTrap s 4 ring 0 0
  | none => rotTrap s 4 ring 0 0

/-- A cause of an operation on a session. -/
def sessTrap {α : Type} (s : State) (code ring : Nat) (se : Session) : Do α :=
  rotTrap s code ring (if code == 6 then se.broken.getD 0 else 0) se.cursor

/-- The 4 KiB units of a buffer, each as the virtual address of its first byte. -/
def unitVas (va n : Nat) : List Nat := (List.range n).map fun k => va + 4096 * k

/-- The physical addresses of a buffer's units (R389): every byte is checked as a store; then each page needs R and TRK 0. The first
unit that fails, with its cause. -/
def State.pinUnits (s : State) (w : Who) (dom : Nat) (kernel : Bool) (vas : List Nat) : Except (Cause × Nat) (List Nat) :=
  let look (a : Acc) (va : Nat) : Except (Cause × Nat) Nat := match s.xlate (s.coreCaches w.core) dom va kernel a with
    | .error c => .error (c, s.faultAt (s.coreCaches w.core) dom c va)
    | .ok p => if p.trk && a != .write then .error (.xlatePerm, va) else .ok p.pa
  match mapE (look .write) vas with
  | .error e => .error e
  | .ok _ => mapE (look .read) vas

/-- Does some slice pin more than 1 MiB of ring lines (R389)? A 4 KiB unit has eight lines, 512 bytes, in each slice of the die
whose stack holds it (09 R164). -/
def State.overPinned (s : State) (units : List Nat) : Bool :=
  let all := units ++ s.rings.toList.flatMap fun g : RotRing => match g.sess with
    | some se => se.units
    | none => []
  (List.range 8).any fun d => 2048 < (all.filter fun pa => !isHost pa && dieOfStack (s.stackOf pa) == d).length

/-- Flits that were held for a session are taken (R389). -/
def State.takeHeld (s : State) (r : Nat) (up : Bool) : State :=
  let g := s.ring r
  let l := if up then g.heldUp else g.heldDn
  let s := s.setRing r (if up then { g with heldUp := [] } else { g with heldDn := [] })
  l.foldl (fun (s : State) f => s.ringFlit (g.portOf up) r up f) s

/-- The open of a session whose checks have passed: epoch, slots, open flits, grants, and what its neighbours sent before. -/
def State.openSess (s : State) (r : Nat) (se : Session) : State :=
  let g := s.ring r
  let s := s.setRing r { g with epoch := g.epoch + 1, sess := some se }
  let body : List W64 := [se.word.setWidth 64, w64 se.bytes, w64 g.members, w64 g.self]
  let s := (s.ringSend r true 5 0 0 body).ringSend r false 5 0 0 body
  let s := (List.range (se.slots.length - 1)).foldl (fun (s : State) k => s.ringSend r true 3 (k + 1) 0 []) s
  (s.takeHeld r true).takeHeld r false

/-- `rot.open`, R389. -/
def execRotOpen (d a b c : Reg) (s : State) : Host.Outcome State Fault Refusal :=
  finish s.cur (do
    let th ← getMe s
    let g ← getGroup s
    needLive s th [a, b, c] []
    let v := th.rx a
    let va := (th.rx b).toNat
    let w := th.rx c
    let ring := fld v 3 0
    let x := s.ring ring
    if 11 < ring || !x.valid || x.dom != g.dom || !(s.port (x.portOf true)).up || !(s.port (x.portOf false)).up then rotTrap s 1 ring 0 0
    else match x.sess with
      | some se => rotTrap s 2 ring 0 se.cursor
      | none =>
        let n := fld v 8 4
        let bk := fld v 22 16
        if fld v 63 23 != 0 || fld v 15 9 != 0 || fld w 63 32 != 0 || n < 4 || 16 < n || bk == 0 || 64 < bk || va % 4096 != 0 then
          rotTrap s 3 ring 0 0
        else match regionOf va with
          | .near | .far _ => rotTrap s 3 ring 0 0
          | _ =>
            let run : Run := { ea := va, n := n * bk * 4096, align := 1, data := 0 }
            match run.crossing, run.noRegion with
            | some x, _ => raise s .align (w64 x)
            | none, some x => raise s .xlateNone (w64 x)
            | none, none => match s.pinUnits s.cur g.dom th.kernel (unitVas va (n * bk)) with
              | .error (c, x) => raise (s.forget s.cur.core g.dom x) c (w64 x)
              | .ok units =>
                if s.overPinned units then rotTrap s 9 ring 0 0
                else
                  let slot (k : Nat) : RSlot := { st := .free, step := 0, bytes := 0, granted := k != 0 }
                  let se : Session :=
                    { dom := g.dom, base := th.rx b, units := units, bk := bk, word := w.setWidth 32, slots := (List.range n).map slot,
                      cursor := 0, putDone := false, put := none, grants := [], upEpoch := none, dnEpoch := none, broken := none,
                      sending := none, takes := [] }
                  let s := s.openSess ring se
                  .ok (s.retireX d ((s.ring ring).handle ring) 8))

/-- The check of the source of a `rot.put` by R187 (R390): the first word whose entry for a load is a TRAP raises TAG. -/
def checkTags (s : State) (core : Nat) (k : Kind) (off n : Nat) : Do Unit :=
  match s.group core with
  | none => .ok ()
  | some g =>
    let at_ (j : Nat) : Option (Nat × Nat × Nat × Nat) := match g.stepScalar k .load { k := 0, off := (off / 8 + j) * 8, n := 8, data := 0 } with
      | .trap code tag cls word _ => some (code, tag, cls, word)
      | _ => none
    match (List.range ((off % 8 + n + 7) / 8)).findSome? at_ with
    | some (code, tag, cls, word) => raise s .tag (tagTval core code tag cls word k)
    | none => .ok ()

/-- `rot.put`, R390. -/
def execRotPut (a b : Reg) (s : State) : Host.Outcome State Fault Refusal :=
  finish s.cur (do
    let th ← getMe s
    let g ← getGroup s
    needLive s th [a, b] []
    let (r, se) ← handleOf s (th.rx a)
    let src := (th.rx b).toNat
    if se.broken.isSome then sessTrap s 6 r se
    else if se.putDone then sessTrap s 5 r se
    else if th.rx b == se.base then
      let full : RSlot := { st := .full, step := 0, bytes := se.bytes, granted := false }
      .ok (((s.setSess r { se.setSlot 0 full with putDone := true }).serveTakes r).retireNext 8)
    else if meets src se.bytes se.base.toNat (se.slots.length * se.bytes) then sessTrap s 3 r se
    else
      let whole : Run := { ea := src, n := se.bytes, align := 1, data := 0 }
      let pages := (List.range (se.bytes / 65536)).map fun k =>
        ({ ea := (src / 65536 * 65536 + 65536 * (k + 1)) % 2 ^ 64, n := 1, align := 1, data := 0 } : Run)
      checkPlace s s.cur g th .read (whole :: pages.filter fun p => p.ea < src + se.bytes)
      match regionOf src with
      | .far c =>
        let c ← farPlace s g c (src % 2 ^ 21) se.bytes
        checkTags s c .rld (src % 2 ^ 21) se.bytes
      | .near => checkTags s s.cur.core .ld src se.bytes
      | _ => .ok ()
      let s ← releaseWait s s.cur .rel .mod
      let p : Put := { who := s.cur, gang := g.gang, kernel := th.kernel, src := th.rx b }
      let se := { se.setSlot 0 { st := .filling, step := 0, bytes := 0, granted := false } with putDone := true, put := some p }
      .ok (((s.setSess r se).soon (.event .putCopyComplete r 0)).retireNext 8))

/-- A take has its step: the slot's address, and then the step; it acquires at `sys` (R391). -/
def takeRetire (s : State) (th : Thread) (d c : Reg) (addr step : W64) : State :=
  (s.acquire s.cur.core .acq .sys).retire (((th.wx d addr).wx c step).advance 8)

/-- A take waits for the cursor's step: the session keeps it until the slot is FULL or the session breaks. -/
def takeWait (s : State) (th : Thread) (r : Nat) (se : Session) : Do State := do
  let (seq, s) := s.fresh
  let s := s.setSess r { se with takes := se.takes ++ [(s.cur, seq)] }
  .error (.wait (s.setMe { th with wait := .sync, prog := { th.prog with
    seq := seq, asked := [0], got := [], reply := none, stage := 18, note := 0 } }))

/-- `rot.take`, R391. -/
def execRotTake (d a c : Reg) (s : State) : Host.Outcome State Fault Refusal :=
  finish s.cur (do
    let th ← getMe s
    if th.sent then
      let step ← answer s .sync
      .ok (takeRetire s th d c (look 0 th.prog.got 1) step)
    else
      needLive s th [a] []
      let (r, se) ← handleOf s (th.rx a)
      if se.cursor == (s.ring r).members then sessTrap s 5 r se
      else if se.broken.isSome then sessTrap s 6 r se
      else match se.fullAt se.cursor with
        | none => takeWait s th r se
        | some k => .ok (takeRetire s th d c (se.base + w64 (k * se.bytes)) (w64 se.cursor)))

/-- `rot.done`, R392. -/
def execRotDone (a b : Reg) (s : State) : Host.Outcome State Fault Refusal :=
  finish s.cur (do
    let th ← getMe s
    needLive s th [a, b] []
    let (r, se) ← handleOf s (th.rx a)
    if se.broken.isSome then sessTrap s 6 r se
    else match th.rx b == w64 se.cursor, se.fullAt se.cursor with
      | true, some k =>
        let s ← releaseWait s s.cur .rel .sys
        let se := { se with cursor := se.cursor + 1 }
        let t := if se.cursor < (s.ring r).members then
            (s.setSess r (se.setSlot k { se.slot k with st := .consumed })).lookForward r
          else (s.setSess r se).freeSlot r k
        .ok (t.retireNext 8)
      | _, _ => sessTrap s 5 r se)

/-- `rot.close`, R393. -/
def execRotClose (a : Reg) (s : State) : Host.Outcome State Fault Refusal :=
  finish s.cur (do
    let th ← getMe s
    needLive s th [a] []
    let (r, se) ← handleOf s (th.rx a)
    if se.broken.isNone && se.cursor < (s.ring r).members then sessTrap s 7 r se
    else if se.broken.isNone && se.slots.any fun x => x.st == SlotSt.consumed then waitFor s .sync
    else .ok ((s.setRing r { s.ring r with sess := none }).retireNext 8))

end Sys2Proof.Machine
end

