-- ==== Sys2Proof/Machine/Fail.lean ====
section
/-! DEFINITION. Failures and stops: dead cores (09 R180; 26 R435), fencing and power gating, memory errors (14 R252), the flag unions
(06 R105), asynchronous traps and held threads (14 R254, R261), the module's stop (25 R424), the thermal trip and the power
throttle (26 R436). -/

namespace Sys2Proof.Machine

/-! ## Dead cores (R180, R435) -/

/-- Every slice marks the core's entries LOST; what the core sent and already waits there is kept. -/
def State.loseWords (s : State) (c : Nat) : State :=
  let f (sl : Slice) : Slice :=
    { sl with table := sl.table.map fun e => if e.owner == c then { e with lost := true, asked := false } else e }
  { s with slices := mapVals f s.slices }

/-- Each home serves what waited for a word that is LOST now (R181). -/
def State.serveHomes (s : State) : State := (s.slices.map (·.1)).foldl (fun (s : State) h => s.serveHome h) s

/-- The weak far stores to a core that it has not acknowledged: those on their way, parked, or found the wait queue full. -/
def State.unacked (s : State) (c : Nat) : List FarMsg :=
  let net := s.net.filterMap fun m => match m with
    | .far f => if f.target == c && !f.jidxs.isEmpty then some f else none
    | _ => none
  net ++ ((s.core c).banks.toList.flatMap fun b => b.queue ++ b.retry).filterMap fun q => match q with
    | .far f _ => if f.jidxs.isEmpty then none else some f
    | _ => none

/-- They are refused with reason 4 (14 R263). -/
def State.refuseUnacked (s : State) (c : Nat) : State :=
  let ms := (s.unacked c).flatMap fun f => f.jidxs.map fun j => Msg.jRefuse f.who.core j 0 4 0
  let keep (m : Msg) : Bool := match m with
    | .far f => !(f.target == c && !f.jidxs.isEmpty)
    | _ => true
  let weak (q : Waiter) : Bool := match q with
    | .far f _ => !f.jidxs.isEmpty
    | _ => false
  let s := s.setCore c ((s.core c).mapBanks (Bank.keep fun q => !weak q))
  { s with net := s.net.filter keep ++ ms }

/-- A gang is lost: its groups leave their cores, its jobs are abandoned, its launch fails (R435, R27). -/
def State.loseGang (s : State) (id core : Nat) : State :=
  match find s.gangs id with
  | none => s
  | some g =>
    let u : Susp := g.susp.getD { why := 3, agreed := 0, stride := 0, objs := [], byWho := none, claim := none, stopped := false, saved := [] }
    s.saveLost id g u 0 core

/-- A parked requester of a core (11 R225). -/
def Waiter.ofCore (c core : Nat) (q : Waiter) : Bool :=
  match q with
  | .own _ _ _ => core == c
  | .far m _ => m.who.core == c
  | .job _ _ _ => false

/-- The parked requesters of a core leave every wait queue without being performed (11 R225). -/
def State.unparkCore (s : State) (c : Nat) : State :=
  { s with cores := s.cores.map fun (e : Nat × Core) => (e.1, e.2.mapBanks (Bank.keep fun q => !q.ofCore c e.1)) }

/-- Does a weak store of a core wait in a bank's queues? Its journal entry is never answered once it leaves them. -/
def State.parkedStore (s : State) (c : Nat) : Bool :=
  s.cores.any fun (e : Nat × Core) => e.2.banks.toList.any fun b => (b.queue ++ b.retry).any fun q => match q with
    | .far m _ => m.who.core == c && !m.jidxs.isEmpty
    | _ => false

/-- The gang of a dead core is suspended at once, whatever else has come of its groups (R435, 02 R25). A save that cannot be made, because a
store of the core will never be answered (`unanswered`) or a group has no free save area, fails as it begins: in the same step the gang is
lost. -/
def State.saveDead (s : State) (c : Nat) (unanswered : Bool) : State :=
  match s.group c with
  | none => s
  | some gr =>
    let posted := unanswered || (s.core c).jrnl.any fun e => e.parts.any fun p => !p.bad && match p.kind with
      | .reg _ | .home _ _ => true
      | _ => false
    match find s.gangs gr.gang with
    | none => s
    | some g =>
      if posted then s.loseGang gr.gang c
      else if g.susp.isSome then s
      else match s.areasFor g 0 with
        | some areas => s.beginSave gr.gang g 2 s.gtick none areas
        | none => s.loseGang gr.gang c

/-- A home's answer to a store or registration of an earlier incarnation of a core. -/
def Msg.homeAnswer (c : Nat) (m : Msg) : Bool :=
  match m with
  | .regAck k _ | .mergeData k _ _ | .wbAck k _ => k == c
  | .jAck k _ key | .jRefuse k _ key _ _ => k == c && key != 0 && !isHost ((key - 1) * 8)
  | _ => false

/-- The homes' answers to a dead core are not delivered; when its gang is lost, its journal keeps only what others still answer. -/
def State.forgetAnswers (s : State) (c : Nat) : State :=
  let atHome (p : JPart) : Bool := match p.kind with
    | .reg _ | .home _ _ => true
    | _ => false
  let k := s.core c
  let s := { s with net := s.net.filter fun m => !m.homeAnswer c }
  if k.group.isSome then s
  else s.setCore c { k with jrnl := (k.jrnl.map fun e => { e with parts := e.parts.filter fun p => !atHome p }).filter fun e =>
    !e.parts.isEmpty }

/-- A core is declared dead: its agents stop and its parked requests leave; its entries are LOST at every home, which keeps what it has received
from the core and drops what comes later (R180); its incarnation rises, and it is readmitted unless it is fenced or without power. -/
def State.coreDeath (s : State) (c : Nat) : State :=
  let s := (agentsOf c).foldl (fun (s : State) w => s.stopAgent true w) s
  let unanswered := s.parkedStore c
  let s := (((s.unparkCore c).loseWords c).refuseUnacked c).saveDead c unanswered
  let s := s.forgetAnswers c
  let k := s.core c
  let s := s.setCore c { k with inc := k.inc + 1, dead := false, fetch := [], tlb := [], cache := [], pooled := [] }
  s.serveHomes

/-- CORE_WATCHDOG_EXPIRY: the watchdog of core `selA` expires, and its supervisor declares it dead. -/
def execCoreWatchdogExpiry (s : State) : Host.Outcome State Fault Refusal :=
  event (if s.selA < 2048 then (s.setCore s.selA { s.core s.selA with dead := true }).now (.event .coreDeathDeclaration s.selA 0) else s)

/-- CORE_DEATH_DECLARATION: the declaration of core `selA` reaches every home. -/
def execCoreDeathDeclaration (s : State) : Host.Outcome State Fault Refusal :=
  event (if s.selA < 2048 then s.coreDeath s.selA else s)

/-! ## Fencing (R435) -/

/-- Fence a core in service. -/
def State.fenceCore (s : State) (c : Nat) : State :=
  if (s.core c).fenced then s
  else ((s.setCore c { s.core c with fenced := true, dead := true }).capChange [2]).now (.event .coreDeathDeclaration c 0)

/-- Fence a unit of a kind of the failure log (26 Table 10), or none when there is no such unit to fence. A die is fenced with its clusters. A
cluster whose cores are fenced one by one is not fenced itself (17 R318). A stack leaves the counts, and stays in the memory map until the next
reset (R435). -/
def State.fence (s : State) (kind n : Nat) : Option State :=
  match kind with
  | 1 => if n < 2048 then some (s.fenceCore n) else none
  | 2 => if n < 256 then some ((List.range 8).foldl (fun (s : State) k => s.fenceCore (n * 8 + k)) s) else none
  | 3 =>
    if n < 32 then
      if s.outStacks.contains n then some s
      else some ({ s with mgmt := { s.mgmt with failedStacks := s.mgmt.failedStacks ++ [n] } }.capChange [2])
    else none
  | 4 => if n < 24 then
      let t := if (s.port n).up then s.portDown n else s
      some ((t.setPort n { t.port n with fenced := true }).capChange [2]) else none
  | 5 => if n < 8192 then some (s.fenceCore (n / 4)) else none
  | 6 =>
    if n < 8 then
      let t := (List.range 256).foldl (fun (s : State) k => s.fenceCore (n * 256 + k)) s
      let t := (List.range 8).foldl (fun (s : State) k => s.setCluster (n * 8 + k) { s.cluster (n * 8 + k) with fenced := true }) t
      some ((t.setHub n { t.hub n with dead := true }).capChange [2])
    else none
  | _ => none

/-- FENCE_UNIT. -/
def execFenceUnit (s : State) : Host.Outcome State Fault Refusal :=
  mailCmd s 0x0040 false fun s =>
    let kind := (s.marg 0).toNat
    let n := (s.marg 1).toNat
    match s.fence kind n with
    | some t => ((t.logUnit t.gtick64 2 0 kind n).checkReplace).mailDone 0
    | none => s.mailDone 3

/-! ## Power gating (R180) -/

/-- A core loses power, or has it again. -/
def State.gateCore (s : State) (c : Nat) (on : Bool) : State :=
  let k := s.core c
  if on then s.setCore c { k with gated := false }
  else if k.gated then s
  else (s.setCore c { k with gated := true, dead := true }).now (.event .coreDeathDeclaration c 0)

/-- POWER_GATING of core `unit`, or of cluster `unit` − 2048 with its cores. -/
def execPowerGating (unit : Nat) (on : Bool) (s : State) : Host.Outcome State Fault Refusal :=
  event (if unit < 2048 then s.gateCore unit on
    else if unit < 2048 + 64 then
      let cl := unit - 2048
      (List.range 32).foldl (fun (s : State) k => s.gateCore (cl * 32 + k) on) (s.setCluster cl { s.cluster cl with gated := !on })
    else s)

/-! ## Memory errors (R252) -/

/-- An uncorrected error in what an agent consumes: precise on the instruction of a thread that runs, and a cause on a feed core that runs (14
R262). -/
def State.eccAt (s : State) (w : Who) (pa : Nat) : State :=
  match s.agent w, s.group w.core with
  | some th, some g =>
    let on := match w.issuer with
      | .thread _ => th.status == Status.running
      | .loader => g.loader.run
      | .storer => g.storer.run
      | .departed => false
    if on then s.takeTrap w { cause := .ecc, tval := w64 pa, tepc := none } false 0 0 else s
  | _, _ => s

/-- ECC_ERROR at a physical address: a corrected one is counted for its memory array (25 R425). Another raises ECC on its consumer, or, where
no instruction consumes the word, asynchronously on a thread; a save's write that meets it ends the save (20 R365). -/
def execEccError (pa : Nat) (corrected : Option Nat) (by_ : Consumer) (s : State) : Host.Outcome State Fault Refusal :=
  event (match corrected with
    | some array =>
      if arrayOk array then
        { s with mgmt := { s.mgmt with softErrs := put 0 s.mgmt.softErrs array (look 0 s.mgmt.softErrs array + 1) } }
      else s
    | none => match by_ with
      | .thread core t => s.eccAt { core := core, issuer := .thread t } pa
      | .feed core storer => s.eccAt { core := core, issuer := if storer then .storer else .loader } pa
      | .later core t => match s.agent { core := core, issuer := .thread t } with
        | some th =>
          if th.status == Status.ended || th.status == Status.idle then s
          else s.pend core t { cause := .ecc, tval := w64 pa, srce := 0, fpc := 0, jidx := none }
        | none => s
      | .engine id => match find s.jobs id with
        | some j => match j.st with
          | .running done _ | .sub done _ _ => s.jobEnd id j 6 done
          | .held set _ _ => if set == 0 then s.jobEnd id j 6 0 else s.setEnd (s.setCards set) 6
          | _ => s
        | none => s
      | .forward r => s.breakRing r 4
      | .save id => match find s.gangs id with
        | some g => match g.susp with
          | some u =>
            if !u.stopped then s
            else match u.openObjs with
              | (_, k) :: _ => s.saveLost id g u k ((g.cores[k]?).getD 0)
              | [] => s
          | none => s
        | none => s)

/-! ## Flag unions (06 R105; 27 R440) -/

/-- FLAGUNION_SET: the OR tree of cluster `selA` sets what was raised. -/
def execFlagunionSet (s : State) : Host.Outcome State Fault Refusal :=
  let k := s.cluster s.selA
  event (s.setCluster s.selA { k with union := k.union ||| k.raised.setWidth 64, raised := 0 })

/-- FLAGUNION_CLEAR: a W1C write of firmware. On A1 a setting in the same tick may be lost (R440); otherwise what is on its way is set
after it. -/
def execFlagunionClear (cl : Nat) (mask : BitVec 64) (s : State) : Host.Outcome State Fault Refusal :=
  let k := s.cluster cl
  let lose := s.a1 && Config.freeBool s.freeCtr
  let t := { s with freeCtr := s.freeCtr + 1 }
  event (t.setCluster cl { k with
    union := k.union &&& ~~~mask, raised := if lose then k.raised &&& ~~~(mask.setWidth 6) else k.raised })

/-! ## Asynchronous traps and held threads (14 R254, R259 to R261) -/

/-- Thread set `t` of a core takes a pending cause; its instruction in progress is discarded. A refused entry whose refusal it takes is its own from
then on, whoever made it (20 R364). A feed core's cause is user class whichever it is
(14 R262). -/
def State.takeCause (s : State) (core t : Nat) (a : Async) : State :=
  let w : Who := { core := core, issuer := .thread t }
  match s.group core, s.agent w with
  | some g, some th =>
    let s := s.withdraw w
    let s := match a.jidx with
      | some j => s.setCore core ((s.core core).mapJent j fun e => { e.report with owner := .thread t })
      | none => s
    let tval := match a.jidx.bind (s.core core).jent with
      | some e => e.tval
      | none => a.tval
    let th := { th with pend := th.pend.erase a }
    if (a.cause.machine && a.srce == 0) || g.handler == 0 then s.hold w th a.cause.code th.pc tval
    else s.setAgent w (th.enter g.handler a.cause th.pc tval true a.srce a.fpc)
  | _, _ => s

/-- ASYNC_TRAP_ENTRY: thread set `selB` of core `selA` takes the pending cause that is due. -/
def execAsyncTrapEntry (s : State) : Host.Outcome State Fault Refusal :=
  event (match s.agent { core := s.selA, issuer := .thread s.selB } with
    | some th => match s.dueCause s.selA th fun _ => false with
      | some a => if s.canRun { core := s.selA, issuer := .thread s.selB } then s.takeCause s.selA s.selB a else s
      | none => s
    | none => s)

/-- RELEASE_HELD_THREAD: firmware releases thread set `selB` of core `selA`, which runs again at the address its record names. -/
def execReleaseHeldThread (s : State) : Host.Outcome State Fault Refusal :=
  let w : Who := { core := s.selA, issuer := .thread s.selB }
  event (match s.agent w with
    | some th =>
      if th.status != Status.held then s
      else
        let at_ := (s.sup.reverse.find? fun r => r.core == s.selA && r.t == s.selB && r.wid == th.wid).map (·.tepc)
        s.setAgent w { th with status := .running, pc := at_.getD th.pc }
    | none => s)

/-! ## Stops (25 R424, 26 R436) -/

/-- The clocks stop: the links break their rings. -/
def State.halt (s : State) : State :=
  let s := (List.range 24).foldl (fun (s : State) p => s.setPort p { s.port p with up := false }) s
  { (List.range 12).foldl (fun (s : State) r => s.breakRing r 1) s with stopped := true }

/-- STOP_AT_TICK: the named tick has come. -/
def execStopAtTick (s : State) : Host.Outcome State Fault Refusal :=
  event (match s.stopAt with
    | some t => if !s.stopped && t ≤ s.gtick then s.halt else s
    | none => s)

/-- THERMAL_TRIP of die `selA`: the module stops, and the failure log has the die. -/
def execThermalTrip (s : State) : Host.Outcome State Fault Refusal :=
  event (if s.selA < 8 then (s.logFailure { w0 := s.gtick64, w1 := w64 (4 + 6 * 2 ^ 16 + s.selA * 2 ^ 24), w2 := w64 s.selA, w3 := 0 }).halt else s)

/-- POWER_THROTTLE: issue cycles are withheld, which no result depends on; the step itself is the time that passes. -/
def execPowerThrottle (s : State) : Host.Outcome State Fault Refusal := event s

end Sys2Proof.Machine
end

