-- ==== Sys2Proof/Machine/Steal.lean ====
section
/-! DEFINITION. Stealing between hubs (17 R313 to R315): the two-phase hand-off, its deadline, the reset of a hub and the
announcement of its incarnation, and the death of a victim. -/

namespace Sys2Proof.Machine

/-- Are two pending ranges parts of one record's gangs? -/
def Pend.same (a b : Pend) : Bool := a.home == b.home && a.slot == b.slot && a.objs == b.objs && a.was == b.was

/-- The place of a range's record in the order of its hub's admissions (R304). -/
def State.turnOf (s : State) (p : Pend) : Nat :=
  match find (s.hub p.home).slots p.slot with
  | some l => l.turn
  | none => 0

/-- Put a reclaimed range back into its record's place, ahead of the gangs that follow it (Table 7): joined to a part that it adjoins, or
before the first range of its level that comes later. -/
def putBack (p : Pend) (q : List Pend) : List Pend :=
  match q with
  | [] => [p]
  | x :: rest =>
    if x.same p && x.lo + x.n == p.lo then
      match rest with
      | y :: more => if y.same p && p.lo + p.n == y.lo then { x with n := x.n + p.n + y.n } :: more else { x with n := x.n + p.n } :: y :: more
      | [] => [{ x with n := x.n + p.n }]
    else if x.same p && p.lo + p.n == x.lo then { x with lo := p.lo, n := p.n + x.n } :: rest
    else if (x.same p && p.lo < x.lo) || x.level < p.level || (x.level == p.level && p.turn < x.turn) then p :: x :: rest
    else x :: putBack p rest

/-- A victim takes a lent range back. -/
def State.reclaim (s : State) (v : Nat) (l : Loan) : State :=
  let h := s.hub v
  s.setHub v (Hub.renew { h with
    loans := h.loans.filter (· != l), queue := if l.range.n == 0 then h.queue else putBack l.range h.queue })

/-- The last range of a queue that its hub may lend: gangs of a record with `AMODE` 0 or 1, none of them stolen or to be resumed. -/
def State.lendable (s : State) (v : Nat) : Option Pend :=
  (s.hub v).queue.reverse.find? fun p => p.stolen.isNone && p.objs.isEmpty && recAmode (s.pendWords p) < 2 && !s.gone p

/-- STEAL_REQ: a victim lends up to 16 gangs from the tail of one record, and offers them (Table 7 step 2). -/
def execStealReq (s : State) : Host.Outcome State Fault Refusal :=
  event (match s.takeMsg with
    | some (.stealReq thief inc victim, s) =>
      let h := s.hub victim
      if h.dead then s
      else match s.lendable victim with
        | none => s
        | some p =>
          let k := min 16 p.n
          let range := { p with lo := p.lo + p.n - k, n := k }
          let dl := s.gtick + 4096
          let queue := h.queue.filterMap fun x => if x != p then some x else if k == p.n then none else some { p with n := p.n - k }
          let loan : Loan := { thief := thief, inc := inc, dl := dl, range := range, acked := false }
          (s.setHub victim (Hub.renew { h with queue := queue, loans := h.loans ++ [loan] })).send (.stealOffer victim h.inc thief inc range dl)
    | _ => s)

/-- A thief takes a range as its own pending gangs, in the order of admission at the home hub among those of one home. -/
def State.keepRange (s : State) (thief victim : Nat) (p : Pend) : State :=
  let h := s.hub thief
  let after (x : Pend) : Bool := x.level < p.level ||
    (x.level == p.level && x.stolen.isSome && x.home == p.home && (s.turnOf p < s.turnOf x || (x.slot == p.slot && p.lo < x.lo)))
  s.setHub thief (Hub.renew { h with queue := insertBy after h.queue { p with stolen := some victim, turn := h.admits } })

/-- The launch of a range whose home is gone fails (R315, R312): its supervisor receives one record. DESIGN CHOICE: the code that names the
death of a hub, which no row of 14 Table 1 does, is a free value (notes/assumptions/18.md). -/
def State.failOrphan (s : State) (home slot : Nat) : State :=
  let h := s.hub home
  match find h.slots slot with
  | none => s
  | some l =>
    if l.failed.isSome then s
    else
      let s := s.setHub home { h with slots := set h.slots slot { l with failed := some .saveLost, told := true } }
      let (code, s) := s.freeNat 256
      let s := s.report { core := recEvcl l.words * 32, t := 0, wid := recWord l.words 1, code := code, tepc := 0, tval := l.addr }
      s.logFailure { w0 := s.gtick64, w1 := 6, w2 := l.answer home slot, w3 := 0 }

/-- STEAL_OFFER: the thief acknowledges an offer that names its incarnation, or declines one that it can no longer place (step 3). -/
def execStealOffer (s : State) : Host.Outcome State Fault Refusal :=
  event (match s.takeMsg with
    | some (.stealOffer victim _ thief inc range _, s) =>
      let h := s.hub thief
      if h.inc != inc || h.dead then s
      else if (s.hub victim).dead then (s.keepRange thief victim range).failOrphan range.home range.slot
      else if (s.spans { range with stolen := some victim } thief []).isEmpty then s.send (.stealNak thief inc victim range)
      else (s.setHub thief { h with offers := h.offers ++ [{ victim := victim, range := range }] }).send (.stealAck thief inc victim range)
    | _ => s)

/-- The loan that an answer names. -/
def Hub.loanOf (h : Hub) (thief : Nat) (range : Pend) : Option Loan :=
  h.loans.find? fun l => l.thief == thief && l.range.same range && !l.acked && l.range.lo == range.lo

/-- STEAL_ACK: the victim transfers the range, drops the ACK, or answers that it is late (step 4, R314). -/
def execStealAck (s : State) : Host.Outcome State Fault Refusal :=
  event (match s.takeMsg with
    | some (.stealAck thief inc victim range, s) =>
      let h := s.hub victim
      let drop := s.setHub victim { h with dropped := h.dropped + 1 }
      if h.dead then s
      else match h.loanOf thief range with
        | some l =>
          if l.inc != inc then drop
          else if s.gtick ≤ l.dl then
            (s.setHub victim { h with loans := h.loans.map fun x => if x == l then { l with acked := true } else x }).send
              (.stealConfirm victim h.inc thief inc range)
          else (s.reclaim victim l).send (.stealLate victim h.inc thief inc range)
        | none => if inc == (s.hub thief).inc then s.send (.stealLate victim h.inc thief inc range) else drop
    | _ => s)

/-- STEAL_NAK: the victim reclaims the range (step 4). -/
def execStealNak (s : State) : Host.Outcome State Fault Refusal :=
  event (match s.takeMsg with
    | some (.stealNak thief inc victim range, s) => match (s.hub victim).loanOf thief range with
      | some l => if l.inc == inc then s.reclaim victim l else s
      | none => s
    | _ => s)

/-- STEAL_CONFIRM: the thief may place the range (step 5). -/
def execStealConfirm (s : State) : Host.Outcome State Fault Refusal :=
  event (match s.takeMsg with
    | some (.stealConfirm victim _ thief inc range, s) =>
      let h := s.hub thief
      if h.inc != inc || h.dead || !h.offers.any (fun o => o.victim == victim && o.range == range) then s
      else
        let s := s.setHub thief { h with offers := h.offers.filter fun o => !(o.victim == victim && o.range == range) }
        s.keepRange thief victim range
    | _ => s)

/-- A loan without the gang with a number: the parts before and after it. -/
def Loan.without (num : Nat) (l : Loan) : List Loan :=
  if num < l.range.lo || l.range.lo + l.range.n ≤ num then [l]
  else [{ l with range := { l.range with n := num - l.range.lo } },
        { l with range := { l.range with lo := num + 1, n := l.range.lo + l.range.n - num - 1 } }].filter fun x => x.range.n != 0

/-- STEAL_PLACED: the victim forgets a gang that the thief has placed (step 6). -/
def execStealPlaced (s : State) : Host.Outcome State Fault Refusal :=
  event (match s.takeMsg with
    | some (.stealPlaced thief _ victim slot num, s) =>
      let h := s.hub victim
      s.setHub victim { h with loans := h.loans.flatMap fun l =>
        if l.thief == thief && l.range.home == victim && l.range.slot == slot then l.without num else [l] }
    | _ => s)

/-- STEAL_LATE: the thief discards the range (step 5). -/
def execStealLate (s : State) : Host.Outcome State Fault Refusal :=
  event (match s.takeMsg with
    | some (.stealLate victim _ thief inc range, s) =>
      let h := s.hub thief
      if h.inc != inc then s
      else s.setHub thief { h with offers := h.offers.filter fun o => !(o.victim == victim && o.range == range) }
    | _ => s)

/-- STEAL_DEADLINE: hub `selA` reclaims every range whose deadline has passed with no ACK (step 4). -/
def execStealDeadline (s : State) : Host.Outcome State Fault Refusal :=
  event (((s.hub s.selA).loans.filter fun l => !l.acked && l.dl < s.gtick).foldl (fun (s : State) l => s.reclaim s.selA l) s)

/-- HUB_RESET: hub `selA` is reset or power-gated (R314): it forgets what it took from others, its incarnation rises, and its supervisor
announces it. -/
def execHubReset (s : State) : Host.Outcome State Fault Refusal :=
  event (if 8 ≤ s.selA then s
    else
      let h := s.hub s.selA
      let h := { h with inc := h.inc + 1, queue := h.queue.filter (·.stolen.isNone), offers := [], passed := [], reserve := [] }
      ((List.range 8).filter (· != s.selA)).foldl (fun (t : State) d => t.send (.incarnation s.selA h.inc d)) (s.setHub s.selA h))

/-- Is a message one that hub `die` sent to hub `to`? -/
def Msg.fromHub (die dest : Nat) (m : Msg) : Bool :=
  match m with
  | .stealReq t _ v => t == die && v == dest
  | .stealOffer v _ t _ _ _ => v == die && t == dest
  | .stealAck t _ v _ | .stealNak t _ v _ => t == die && v == dest
  | .stealConfirm v _ t _ _ | .stealLate v _ t _ _ => v == die && t == dest
  | .stealPlaced t _ v _ _ => t == die && v == dest
  | _ => false

/-- INCARNATION_ANNOUNCEMENT: a hub reclaims every gang that it lent to an earlier incarnation of the announced hub and that it has not
heard to be placed (R314). It comes after every message that the hub had sent before its reset. -/
def execIncarnationAnnouncement (s : State) : Host.Outcome State Fault Refusal :=
  event (match s.takeMsg with
    | some (.incarnation die inc dest, t) =>
      if (s.net.take (s.headOf s.selA)).any (Msg.fromHub die dest) then s
      else ((t.hub dest).loans.filter fun l => l.thief == die && l.inc != inc).foldl (fun (s : State) l => s.reclaim dest l) t
    | _ => s)

/-- VICTIM_DEATH_NOTICE: hub `selB` is declared dead, which the supervisor tells thief `selA`: it keeps every range that it was offered, and
the ranges' launches fail, as do those of gangs that it has placed of a range already (R315). -/
def execVictimDeathNotice (s : State) : Host.Outcome State Fault Refusal :=
  event (if 8 ≤ s.selA || 8 ≤ s.selB || s.selA == s.selB then s
    else
      let s := s.setHub s.selB { s.hub s.selB with dead := true }
      let h := s.hub s.selA
      let mine := h.offers.filter fun o => o.victim == s.selB
      let s := s.setHub s.selA { h with offers := h.offers.filter fun o => o.victim != s.selB }
      let s := mine.foldl (fun (s : State) o => s.keepRange s.selA o.victim o.range) s
      let kept := ((s.hub s.selA).queue.filter fun p => p.stolen == some s.selB).map fun p => (p.home, p.slot)
      let placed := (s.gangs.filter fun e => e.2.stolen == some s.selB && (e.2.cores.head?.map dieOf) == some s.selA).map fun e =>
        (e.2.home, e.2.slot)
      (kept ++ placed).foldl (fun (s : State) l => s.failOrphan l.1 l.2) s)

end Sys2Proof.Machine
end

