-- ==== Sys2Proof/Machine/Sys.lean ====
section
/-! DEFINITION. SYS: `nop` (07 R133), `trap`, `eret` and `halt` (14 R268, with the refused stores of R265), `brk` (25 R419)
and `icinv` (25 R420). -/

namespace Sys2Proof.Machine

/-- The length of a `nop` in bytes (R133). -/
def nopBytes (l : NopLen) : Nat :=
  match l with
  | .l64 => 8 | .l96 => 12 | .l128 => 16

/-- `nop`, 07 R133. -/
def execNop (len : NopLen) (s : State) : Host.Outcome State Fault Refusal := scalar s [] fun th => th.advance (nopBytes len)

/-- `trap`, 14 R268: SYSTRAP with `TEPC` the address that follows. -/
def execTrap (imm : BitVec 16) (s : State) : Host.Outcome State Fault Refusal :=
  finish s.cur (do
    let th ← getMe s
    .error (.trap s { cause := .sysTrap, tval := imm.setWidth 64, tepc := some (th.pc + 8) }))

/-! ## `eret` -/

/-- The new weak store of a retried entry (14 R265): the pieces that were refused, as the handler leaves them. -/
def JEnt.retryRuns (e : JEnt) : List Run :=
  (e.parts.filter fun p => p.bad).map fun p =>
    { ea := p.addr.toNat, n := p.n, align := if p.n == 2 || p.n == 4 || p.n == 8 then p.n else 1, data := p.data.toNat % 256 ^ p.n }

/-- Retry a refused entry: the store is checked, and made after every entry of the journal; the entry frees. A store that
cannot be made yet, or that the core's check refuses, leaves the entry. A full journal has the room that the entry itself
gives up. DESIGN CHOICE: the new store of an entry that a feed core owned is the store of the thread that executes the `eret`; 14 R265 names no
owner for it (notes/assumptions/16.md). Unsafe: the feed core's own waits may cover it on hardware. -/
def retryEntry (s : State) (e : JEnt) : Do State :=
  let clear (s : State) : State := s.setCore s.cur.core ((s.core s.cur.core).clearJent e.idx)
  match storeRuns s false .weak .th e.retryRuns with
  | .ok s => .ok (clear s)
  | .error (.wait t) =>
    if (s.core s.cur.core).freeIdx.isEmpty then
      match storeRuns (clear s) false .weak .th e.retryRuns with
      | .ok s => .ok s
      | .error (.trap _ x) => .error (.trap s x)
      | .error (.wait _) => .error (.wait t)
      | .error (.fault f) => .error (.fault f)
    else .error (.wait t)
  | .error x => .error x

/-- What an `eret` does to the entry that its trap reported (14 R265): none when `CAUSE` is not STORE_REFUSED. -/
def eretEntry (s : State) (th : Thread) : Do State :=
  if th.causeCode != Cause.storeRefused.code then .ok s
  else match (s.core s.cur.core).jent (fld th.tval 4 0) with
    | none => .ok s
    | some e =>
      if !e.isReported then .ok s
      else if th.retry then retryEntry s e
      else .ok (s.setCore s.cur.core ((s.core s.cur.core).clearJent e.idx))

/-- A feed core restarts at a PC (02 R30). -/
def Feed.restart (f : Feed) (pc : Nat) : Feed :=
  if f.run then f else { f with run := true, flt := false, th := { f.th with pc := w64 (pc / 4 * 4) } }

/-- Restart the feed core that `SRCE` names. -/
def State.restartFeed (s : State) (core srce fpc : Nat) : State :=
  match s.group core, srce with
  | some g, 1 => s.setGroup core { g with loader := g.loader.restart fpc }
  | some g, 2 => s.setGroup core { g with storer := g.storer.restart fpc }
  | _, _ => s

/-- The bits of `TCAUSE` that an `eret` clears (14 R268): `INH` and `CAUSE`, and `SRCE` and `FPC` when `SRCE` is not 0. -/
def Thread.eretMask (th : Thread) : W64 := w64 (0xFF + 2 ^ 11 + if th.srce == 0 then 0 else 3 * 2 ^ 12 + (2 ^ 14 - 1) * 2 ^ 32)

/-- The thread after an `eret` (14 R268), in the mode `PM`. -/
def Thread.eret (th : Thread) : Thread :=
  { (th.jumpTo th.tepc) with kernel := bitOf th.tcause 10, tcause := th.tcause &&& ~~~th.eretMask }

/-- `eret`, 14 R268. -/
def execEret (s : State) : Host.Outcome State Fault Refusal :=
  finish s.cur (do
    let th ← getMe s
    needKernel s th .eret
    needTarget s th.tepc
    let s ← eretEntry s th
    let s := s.restartFeed s.cur.core th.srce th.fpc
    .ok (s.retire th.eret))

/-- `halt`, 14 R268: it waits as `fence.rel.mod`, and the thread is held with code 0. DESIGN CHOICE: R268 gives the supervisor's record only its
code; its `TEPC` is the `halt`'s own address and its `TVAL` 0, so that a thread that firmware releases executes the `halt` again
(notes/assumptions/16.md). Unsafe: hardware may record another address, and run on behind the `halt`. -/
def execHalt (s : State) : Host.Outcome State Fault Refusal :=
  finish s.cur (do
    let th ← getMe s
    needKernel s th .halt
    let s ← releaseWait s s.cur .rel .mod
    .ok (s.hold s.cur th 0 th.pc 0))

/-- `brk`, 25 R419. -/
def execBrk (imm : BitVec 16) (s : State) : Host.Outcome State Fault Refusal :=
  finish s.cur (raise s .brk (imm.setWidth 64))

/-! ## `icinv` (25 R420) -/

/-- Does a fetch block, by its number, meet a range of addresses? -/
def blockMeets (block lo n : Nat) : Bool := meets (block * 32) 32 lo n

/-- Drop a core's fetch blocks that meet a range, and empty the loop buffer of each of its threads (08 R161). -/
def State.dropBlocks (s : State) (core lo n : Nat) : State :=
  let k := s.core core
  let k := { k with fetch := k.fetch.filter fun e => !blockMeets (e.1 % 2 ^ 60) lo n }
  s.setCore core { k with group := k.group.map fun g : Group =>
    { g with threads := g.threads.map fun th : Thread => { th with loopTgt := none } } }

/-- `icinv` with target 0, R420. -/
def execIcinv (a b : Reg) (s : State) : Host.Outcome State Fault Refusal :=
  finish s.cur (do
    let th ← getMe s
    needLive s th [a, b] []
    let s := if th.rx b == 0 then s else s.dropBlocks s.cur.core (th.rx a).toNat (th.rx b).toNat
    .ok (s.retireNext 8))

/-- The bytes of a copy's source, page by page as weak loads at the home. -/
def State.copyBytes (s : State) (w : Who) (g : Group) (th : Thread) (va n : Nat) : Except (Cause × Nat) (List Byte) :=
  match n with
  | 0 => .ok []
  | k + 1 => match s.xlate (s.coreCaches w.core) g.dom va th.kernel .read with
    | .error c => .error (c, s.faultAt (s.coreCaches w.core) g.dom c va)
    | .ok p => match s.engineRead p.pa 1 with
      | .error c => .error (c, c.at_ va p.pa)
      | .ok b => match State.copyBytes s w g th (va + 1) k with
        | .error e => .error e
        | .ok bs => .ok (BitVec.ofNat 8 b :: bs)

/-- `icinv` with target 1 or 2, R420: the copy is one step, so the feed core executes nothing while it runs. -/
def execIcinvFeed (a b c : Reg) (storer : Bool) (s : State) : Host.Outcome State Fault Refusal :=
  finish s.cur (do
    let th ← getMe s
    let g ← getGroup s
    needLive s th [a, b, c] []
    let va := (th.rx a).toNat
    let n := (th.rx b).toNat
    let off := (th.rx c).toNat
    if va % 4 != 0 || n % 4 != 0 || off % 4 != 0 || n + off > 16384 then illField s (.icinvFeed a b c storer)
    else if n == 0 then .ok (s.retireNext 8)
    else
      let r : Run := { ea := va, n := n, align := 4, data := 0 }
      checkRuns s s.cur g th .read [r]
      if regionOf va != .global then raise s .xlateNone (w64 va)
      else
        overlapWait s s.cur (s.partsFrom s.cur g th .read 0 0 [r])
        match s.copyBytes s.cur g th va n with
        | .error (c, x) => raise s c (w64 x)
        | .ok bs =>
          let put (f : Feed) : Feed := { f with istore := putBytes f.istore off bs }
          let g := if storer then { g with storer := put g.storer } else { g with loader := put g.loader }
          .ok ((s.setGroup s.cur.core g).retireNext 8))

end Sys2Proof.Machine
end

