-- ==== Sys2Proof/Machine/Vperm.lean ====
section
/-! DEFINITION. VPERM (08 R155): permutes. No source tag is checked. -/

namespace Sys2Proof.Machine

/-- Lanes of a source (R155); bits `[7:6]` of a T6 element are ignored (06 R91). -/
def Thread.permLanes (th : Thread) (n : Nat) (r : Reg) : List Nat := lanesOf n (th.rv r).bits

/-- A VPERM instruction that builds a vector from vector sources: A's tag when A and B carry the same tag, else RAW; A's sidecar, also under a
tag that is not block-scaled: R143 has the rules of 06 R94 hold unless an instruction's own description says otherwise, as R155 does. -/
def vperm2 (s : State) (n : Nat) (d a b : Reg) (vs : List Reg) (f : Thread → List Nat) : Host.Outcome State Fault Refusal :=
  finish s.cur (do
    let th ← getMe s
    needLive s th [] vs
    let tag := (pairTag (th.rv a) (th.rv b)).1
    let new : VReg := { data := packLanes n (f th), tag := tag, side := (th.rv a).side, live := true }
    .ok (s.retire ({ th with v := vset th.v d.toNat new }.advance 8)))

/-- (A‖B) of R155. -/
def Thread.both (th : Thread) (n : Nat) (a b : Reg) : List Nat := th.permLanes n a ++ th.permLanes n b

/-- `vperm`, R155. -/
def execVperm (sz : ISz) (d a b c : Reg) (s : State) : Host.Outcome State Fault Refusal :=
  let n := sz.bitsN
  vperm2 s n d a b [a, b, c] fun th => (th.permLanes n c).map fun k => (th.both n a b).getD k 0

/-- `vsel`, R155. -/
def execVsel (sz : ISz) (d a b c : Reg) (s : State) : Host.Outcome State Fault Refusal :=
  let n := sz.bitsN
  vperm2 s n d a b [a, b, c] fun th =>
    laneMap (fun _ xs => if opnd xs 2 != 0 then opnd xs 0 else opnd xs 1) 0 (256 / n)
      [th.permLanes n a, th.permLanes n b, th.permLanes n c]

/-- `vmerge`, R155. -/
def execVmerge (sz : ISz) (d a b : Reg) (hf : Bool) (s : State) : Host.Outcome State Fault Refusal :=
  let n := sz.bitsN
  let h := 256 / n / 2
  vperm2 s n d a b [a, b] fun th =>
    let half (r : Reg) : List Nat := ((th.permLanes n r).drop (if hf then h else 0)).take h
    (zipLanes (fun x y => [x, y]) (half a) (half b)).flatMap id

/-- `vslide`, R155. -/
def execVslide (sz : ISz) (d a b : Reg) (sh : BitVec 6) (s : State) : Host.Outcome State Fault Refusal :=
  let n := sz.bitsN
  vperm2 s n d a b [a, b] fun th => ((th.both n a b).drop sh.toNat).take (256 / n)

/-- `vbcast`, R155. -/
def execVbcast (sz : ISz) (d a : Reg) (tag : BitVec 4) (s : State) : Host.Outcome State Fault Refusal :=
  let n := sz.bitsN
  scalar s [a] fun th =>
    (th.wv d (packLanes n (List.replicate (256 / n) ((th.rx a).toNat % 2 ^ n))) tag 0).advance 8

/-- `vext`, R155. -/
def execVext (sz : ISz) (d a : Reg) (k : BitVec 5) (s : State) : Host.Outcome State Fault Refusal :=
  let n := sz.bitsN
  finish s.cur (do
    let th ← getMe s
    needLive s th [] [a]
    let v := (th.permLanes n a).getD k.toNat 0
    .ok (s.retire ((th.wx d (if tagInt (th.rv a).tag.toNat then sext n v else w64 v)).advance 8)))

/-- `vins`, R155. -/
def execVins (sz : ISz) (d a : Reg) (k : BitVec 5) (tag : BitVec 4) (s : State) : Host.Outcome State Fault Refusal :=
  let n := sz.bitsN
  scalar s [a] fun th =>
    (th.wv d (packLanes n (setAt (th.lanes n false d) k.toNat ((th.rx a).toNat % 2 ^ n))) tag 0).advance 8

end Sys2Proof.Machine
end

