-- ==== Sys2Proof/Machine/Dispatch.lean ====
section
/-! DEFINITION. The dispatch: one arm for each row of spec/opcode_table.json, each a direct call of that row's meaning. -/

namespace Sys2Proof.Machine

/-- The outcome of one instruction, or of one machine event. -/
def exec (i : Instr) (s : State) : Host.Outcome State Fault Refusal :=
  match i with
  | .add sz d a b => Sys2Proof.Machine.execAdd sz d a b s
  | .sub sz d a b => Sys2Proof.Machine.execSub sz d a b s
  | .and sz d a b => Sys2Proof.Machine.execAnd sz d a b s
  | .or sz d a b => Sys2Proof.Machine.execOr sz d a b s
  | .xor sz d a b => Sys2Proof.Machine.execXor sz d a b s
  | .andn sz d a b => Sys2Proof.Machine.execAndn sz d a b s
  | .shl sz d a b => Sys2Proof.Machine.execShl sz d a b s
  | .shr sz d a b => Sys2Proof.Machine.execShr sz d a b s
  | .sra sz d a b => Sys2Proof.Machine.execSra sz d a b s
  | .rol sz d a b => Sys2Proof.Machine.execRol sz d a b s
  | .ror sz d a b => Sys2Proof.Machine.execRor sz d a b s
  | .min sz d a b => Sys2Proof.Machine.execMin sz d a b s
  | .max sz d a b => Sys2Proof.Machine.execMax sz d a b s
  | .minu sz d a b => Sys2Proof.Machine.execMinu sz d a b s
  | .maxu sz d a b => Sys2Proof.Machine.execMaxu sz d a b s
  | .slt sz d a b => Sys2Proof.Machine.execSlt sz d a b s
  | .sltu sz d a b => Sys2Proof.Machine.execSltu sz d a b s
  | .seq sz d a b => Sys2Proof.Machine.execSeq sz d a b s
  | .sel sz d a b c => Sys2Proof.Machine.execSel sz d a b c s
  | .addi sz d a imm => Sys2Proof.Machine.execAddi sz d a imm s
  | .andi sz d a imm => Sys2Proof.Machine.execAndi sz d a imm s
  | .ori sz d a imm => Sys2Proof.Machine.execOri sz d a imm s
  | .xori sz d a imm => Sys2Proof.Machine.execXori sz d a imm s
  | .shli sz d a sh => Sys2Proof.Machine.execShli sz d a sh s
  | .shri sz d a sh => Sys2Proof.Machine.execShri sz d a sh s
  | .srai sz d a sh => Sys2Proof.Machine.execSrai sz d a sh s
  | .li sz d imm => Sys2Proof.Machine.execLi sz d imm s
  | .pcadd d imm => Sys2Proof.Machine.execPcadd d imm s
  | .mul sz d a b => Sys2Proof.Machine.execMul sz d a b s
  | .mulh sz d a b => Sys2Proof.Machine.execMulh sz d a b s
  | .mulhu sz d a b => Sys2Proof.Machine.execMulhu sz d a b s
  | .mulhsu sz d a b => Sys2Proof.Machine.execMulhsu sz d a b s
  | .div sz d a b => Sys2Proof.Machine.execDiv sz d a b s
  | .divu sz d a b => Sys2Proof.Machine.execDivu sz d a b s
  | .rem sz d a b => Sys2Proof.Machine.execRem sz d a b s
  | .remu sz d a b => Sys2Proof.Machine.execRemu sz d a b s
  | .madd sz d a b c => Sys2Proof.Machine.execMadd sz d a b c s
  | .clz sz d a => Sys2Proof.Machine.execClz sz d a s
  | .ctz sz d a => Sys2Proof.Machine.execCtz sz d a s
  | .popc sz d a => Sys2Proof.Machine.execPopc sz d a s
  | .bfx sz d a pos len => Sys2Proof.Machine.execBfx sz d a pos len s
  | .bfxu sz d a pos len => Sys2Proof.Machine.execBfxu sz d a pos len s
  | .bfi sz d a b pos len => Sys2Proof.Machine.execBfi sz d a b pos len s
  | .bswap sz d a => Sys2Proof.Machine.execBswap sz d a s
  | .brev sz d a => Sys2Proof.Machine.execBrev sz d a s
  | .sext sz d a => Sys2Proof.Machine.execSext sz d a s
  | .zext sz d a => Sys2Proof.Machine.execZext sz d a s
  | .fadd fmt rm d a b => Sys2Proof.Machine.execFadd fmt rm d a b s
  | .fsub fmt rm d a b => Sys2Proof.Machine.execFsub fmt rm d a b s
  | .fmul fmt rm d a b => Sys2Proof.Machine.execFmul fmt rm d a b s
  | .fma fmt rm d a b c => Sys2Proof.Machine.execFma fmt rm d a b c s
  | .fnma fmt rm d a b c => Sys2Proof.Machine.execFnma fmt rm d a b c s
  | .fdiv fmt rm d a b => Sys2Proof.Machine.execFdiv fmt rm d a b s
  | .fsqrt fmt rm d a => Sys2Proof.Machine.execFsqrt fmt rm d a s
  | .fmin fmt d a b => Sys2Proof.Machine.execFmin fmt d a b s
  | .fmax fmt d a b => Sys2Proof.Machine.execFmax fmt d a b s
  | .fsgn fmt d a b mode => Sys2Proof.Machine.execFsgn fmt d a b mode s
  | .fcmp fmt d a b mode => Sys2Proof.Machine.execFcmp fmt d a b mode s
  | .fclass fmt d a => Sys2Proof.Machine.execFclass fmt d a s
  | .fcvt fmt rm d a src => Sys2Proof.Machine.execFcvt fmt rm d a src s
  | .fcvtInt fmt rm d a dst => Sys2Proof.Machine.execFcvtInt fmt rm d a dst s
  | .fmv fmt d a => Sys2Proof.Machine.execFmv fmt d a s
  | .br cond a b imm => Sys2Proof.Machine.execBr cond a b imm s
  | .jmp imm => Sys2Proof.Machine.execJmp imm s
  | .jmpr a imm => Sys2Proof.Machine.execJmpr a imm s
  | .call imm => Sys2Proof.Machine.execCall imm s
  | .callr a imm => Sys2Proof.Machine.execCallr a imm s
  | .ret => Sys2Proof.Machine.execRet s
  | .ctlRd d num => Sys2Proof.Machine.execCtlRd d num s
  | .ctlWr a num => Sys2Proof.Machine.execCtlWr a num s
  | .ctlSet a num => Sys2Proof.Machine.execCtlSet a num s
  | .ctlClr a num => Sys2Proof.Machine.execCtlClr a num s
  | .yield => Sys2Proof.Machine.execYield s
  | .tid d => Sys2Proof.Machine.execTid d s
  | .nop len => Sys2Proof.Machine.execNop len s
  | .trap imm => Sys2Proof.Machine.execTrap imm s
  | .eret => Sys2Proof.Machine.execEret s
  | .halt => Sys2Proof.Machine.execHalt s
  | .brk imm => Sys2Proof.Machine.execBrk imm s
  | .icinv a b => Sys2Proof.Machine.execIcinv a b s
  | .icinvFeed a b c storer => Sys2Proof.Machine.execIcinvFeed a b c storer s
  | .ld sz ord scope reuse d a imm => Sys2Proof.Machine.execLd sz ord scope reuse d a imm s
  | .ldx sz ord scope reuse d a b imm => Sys2Proof.Machine.execLdx sz ord scope reuse d a b imm s
  | .st sz ord scope a b imm => Sys2Proof.Machine.execSt sz ord scope a b imm s
  | .stx sz ord scope a b c imm => Sys2Proof.Machine.execStx sz ord scope a b c imm s
  | .amoAdd sz ord scope d a b => Sys2Proof.Machine.execAmoAdd sz ord scope d a b s
  | .amoAnd sz ord scope d a b => Sys2Proof.Machine.execAmoAnd sz ord scope d a b s
  | .amoOr sz ord scope d a b => Sys2Proof.Machine.execAmoOr sz ord scope d a b s
  | .amoXor sz ord scope d a b => Sys2Proof.Machine.execAmoXor sz ord scope d a b s
  | .amoMin sz ord scope d a b => Sys2Proof.Machine.execAmoMin sz ord scope d a b s
  | .amoMax sz ord scope d a b => Sys2Proof.Machine.execAmoMax sz ord scope d a b s
  | .amoMinu sz ord scope d a b => Sys2Proof.Machine.execAmoMinu sz ord scope d a b s
  | .amoMaxu sz ord scope d a b => Sys2Proof.Machine.execAmoMaxu sz ord scope d a b s
  | .amoSwap sz ord scope d a b => Sys2Proof.Machine.execAmoSwap sz ord scope d a b s
  | .amoCas sz ord scope d a b c => Sys2Proof.Machine.execAmoCas sz ord scope d a b c s
  | .fence ord scope => Sys2Proof.Machine.execFence ord scope s
  | .inval a b => Sys2Proof.Machine.execInval a b s
  | .wb a b => Sys2Proof.Machine.execWb a b s
  | .pf a imm => Sys2Proof.Machine.execPf a imm s
  | .tlbInv scope a b => Sys2Proof.Machine.execTlbInv scope a b s
  | .tagLd d a imm => Sys2Proof.Machine.execTagLd d a imm s
  | .tagSt a b imm => Sys2Proof.Machine.execTagSt a b imm s
  | .tagLdw d a c imm => Sys2Proof.Machine.execTagLdw d a c imm s
  | .tagFill a b tag => Sys2Proof.Machine.execTagFill a b tag s
  | .actWr a b => Sys2Proof.Machine.execActWr a b s
  | .actWrImg a => Sys2Proof.Machine.execActWrImg a s
  | .actRd d a => Sys2Proof.Machine.execActRd d a s
  | .actRdSh d a => Sys2Proof.Machine.execActRdSh d a s
  | .actSwap => Sys2Proof.Machine.execActSwap s
  | .spSet d a imm => Sys2Proof.Machine.execSpSet d a imm s
  | .spRd d a => Sys2Proof.Machine.execSpRd d a s
  | .vadd sz pr d a b => Sys2Proof.Machine.execVadd sz pr d a b s
  | .vsub sz pr d a b => Sys2Proof.Machine.execVsub sz pr d a b s
  | .vmul sz pr d a b => Sys2Proof.Machine.execVmul sz pr d a b s
  | .vmulh sz pr d a b => Sys2Proof.Machine.execVmulh sz pr d a b s
  | .vmin sz pr d a b => Sys2Proof.Machine.execVmin sz pr d a b s
  | .vmax sz pr d a b => Sys2Proof.Machine.execVmax sz pr d a b s
  | .vabs sz pr d a => Sys2Proof.Machine.execVabs sz pr d a s
  | .vneg sz pr d a => Sys2Proof.Machine.execVneg sz pr d a s
  | .vand sz pr d a b => Sys2Proof.Machine.execVand sz pr d a b s
  | .vor sz pr d a b => Sys2Proof.Machine.execVor sz pr d a b s
  | .vxor sz pr d a b => Sys2Proof.Machine.execVxor sz pr d a b s
  | .vshl sz pr d a b => Sys2Proof.Machine.execVshl sz pr d a b s
  | .vshr sz pr d a b => Sys2Proof.Machine.execVshr sz pr d a b s
  | .vsra sz pr d a b => Sys2Proof.Machine.execVsra sz pr d a b s
  | .vsadd sz pr d a b => Sys2Proof.Machine.execVsadd sz pr d a b s
  | .vssub sz pr d a b => Sys2Proof.Machine.execVssub sz pr d a b s
  | .vfadd fmt pr rm d a b => Sys2Proof.Machine.execVfadd fmt pr rm d a b s
  | .vfsub fmt pr rm d a b => Sys2Proof.Machine.execVfsub fmt pr rm d a b s
  | .vfmul fmt pr rm d a b => Sys2Proof.Machine.execVfmul fmt pr rm d a b s
  | .vfma fmt pr rm d a b c => Sys2Proof.Machine.execVfma fmt pr rm d a b c s
  | .vfnma fmt pr rm d a b c => Sys2Proof.Machine.execVfnma fmt pr rm d a b c s
  | .vfmin fmt pr d a b => Sys2Proof.Machine.execVfmin fmt pr d a b s
  | .vfmax fmt pr d a b => Sys2Proof.Machine.execVfmax fmt pr d a b s
  | .vfdiv fmt pr rm d a b => Sys2Proof.Machine.execVfdiv fmt pr rm d a b s
  | .vfcmp fmt pr d a b mode => Sys2Proof.Machine.execVfcmp fmt pr d a b mode s
  | .vcvt fmt rm d a e0 => Sys2Proof.Machine.execVcvt fmt rm d a e0 s
  | .vcvtBlk fmt rm d a e0 h he => Sys2Proof.Machine.execVcvtBlk fmt rm d a e0 h he s
  | .vpack fmt d a b u => Sys2Proof.Machine.execVpack fmt d a b u s
  | .vunpack fmt d a hi z => Sys2Proof.Machine.execVunpack fmt d a hi z s
  | .vld fmt ord scope reuse d base c => Sys2Proof.Machine.execVld fmt ord scope reuse d base c s
  | .vst fmt ord scope b base c => Sys2Proof.Machine.execVst fmt ord scope b base c s
  | .vldg fmt ord scope reuse d a b long => Sys2Proof.Machine.execVldg fmt ord scope reuse d a b long s
  | .vsts fmt ord scope a b c long => Sys2Proof.Machine.execVsts fmt ord scope a b c long s
  | .vperm sz d a b c => Sys2Proof.Machine.execVperm sz d a b c s
  | .vsel sz d a b c => Sys2Proof.Machine.execVsel sz d a b c s
  | .vmerge sz d a b hf => Sys2Proof.Machine.execVmerge sz d a b hf s
  | .vslide sz d a b sh => Sys2Proof.Machine.execVslide sz d a b sh s
  | .vbcast sz d a tag => Sys2Proof.Machine.execVbcast sz d a tag s
  | .vext sz d a k => Sys2Proof.Machine.execVext sz d a k s
  | .vins sz d a k tag => Sys2Proof.Machine.execVins sz d a k tag s
  | .vredAdd fmt rm d a => Sys2Proof.Machine.execVredAdd fmt rm d a s
  | .vredMax fmt d a => Sys2Proof.Machine.execVredMax fmt d a s
  | .vredMin fmt d a => Sys2Proof.Machine.execVredMin fmt d a s
  | .vexp2V rm d a => Sys2Proof.Machine.execVexp2V rm d a s
  | .vrcpV rm d a => Sys2Proof.Machine.execVrcpV rm d a s
  | .vrsqrtV rm d a => Sys2Proof.Machine.execVrsqrtV rm d a s
  | .vlog2V rm d a => Sys2Proof.Machine.execVlog2V rm d a s
  | .crandV sz d a b => Sys2Proof.Machine.execCrandV sz d a b s
  | .vexp2S rm d a => Sys2Proof.Machine.execVexp2S rm d a s
  | .vrcpS rm d a => Sys2Proof.Machine.execVrcpS rm d a s
  | .vrsqrtS rm d a => Sys2Proof.Machine.execVrsqrtS rm d a s
  | .vlog2S rm d a => Sys2Proof.Machine.execVlog2S rm d a s
  | .crandS d a b => Sys2Proof.Machine.execCrandS d a b s
  | .vloop a imm => Sys2Proof.Machine.execVloop a imm s
  | .tld fmt reuse d a b c imm => Sys2Proof.Machine.execTld fmt reuse d a b c imm s
  | .tst fmt d a b c imm => Sys2Proof.Machine.execTst fmt d a b c imm s
  | .tzero fmt d => Sys2Proof.Machine.execTzero fmt d s
  | .tcvt fmt rm d a h he => Sys2Proof.Machine.execTcvt fmt rm d a h he s
  | .tmov fmt d a => Sys2Proof.Machine.execTmov fmt d a s
  | .mma fmt d a b k => Sys2Proof.Machine.execMma fmt d a b k s
  | .mmaCp fmt d a b k => Sys2Proof.Machine.execMmaCp fmt d a b k s
  | .cpLd nops join prog => Sys2Proof.Machine.execCpLd nops join prog s
  | .accRd d a row => Sys2Proof.Machine.execAccRd d a row s
  | .accWr d a row => Sys2Proof.Machine.execAccWr d a row s
  | .accZero d => Sys2Proof.Machine.execAccZero d s
  | .gang d => Sys2Proof.Machine.execGang d s
  | .qCnt d a => Sys2Proof.Machine.execQCnt d a s
  | .qPeek d a => Sys2Proof.Machine.execQPeek d a s
  | .qPeekPop d a => Sys2Proof.Machine.execQPeekPop d a s
  | .qFlush a => Sys2Proof.Machine.execQFlush a s
  | .hdrLay a => Sys2Proof.Machine.execHdrLay a s
  | .hdrPack d a n => Sys2Proof.Machine.execHdrPack d a n s
  | .hdrUnpack sh d a n => Sys2Proof.Machine.execHdrUnpack sh d a n s
  | .sendQueue d b => Sys2Proof.Machine.execSendQueue d b s
  | .sendMailbox ord scope a b nw => Sys2Proof.Machine.execSendMailbox ord scope a b nw s
  | .sendEngine a b => Sys2Proof.Machine.execSendEngine a b s
  | .mbxTake ord scope d a mask => Sys2Proof.Machine.execMbxTake ord scope d a mask s
  | .mbxCnt d => Sys2Proof.Machine.execMbxCnt d s
  | .mbxCntCfg d a r => Sys2Proof.Machine.execMbxCntCfg d a r s
  | .evSet ord scope a q rc b => Sys2Proof.Machine.execEvSet ord scope a q rc b s
  | .evClr ord scope a q rc b => Sys2Proof.Machine.execEvClr ord scope a q rc b s
  | .evWait ord scope d a q rc b => Sys2Proof.Machine.execEvWait ord scope d a q rc b s
  | .evTest ord scope d a q rc b => Sys2Proof.Machine.execEvTest ord scope d a q rc b s
  | .barInit ord scope a b => Sys2Proof.Machine.execBarInit ord scope a b s
  | .barArrive ord scope d a => Sys2Proof.Machine.execBarArrive ord scope d a s
  | .barExpect a b => Sys2Proof.Machine.execBarExpect a b s
  | .barWait ord scope d a b => Sys2Proof.Machine.execBarWait ord scope d a b s
  | .taskPost d a => Sys2Proof.Machine.execTaskPost d a s
  | .taskExit => Sys2Proof.Machine.execTaskExit s
  | .taskYield => Sys2Proof.Machine.execTaskYield s
  | .taskWid d k => Sys2Proof.Machine.execTaskWid d k s
  | .taskSelf d which => Sys2Proof.Machine.execTaskSelf d which s
  | .coSuspend d a b => Sys2Proof.Machine.execCoSuspend d a b s
  | .coResume d a b => Sys2Proof.Machine.execCoResume d a b s
  | .coSeal a => Sys2Proof.Machine.execCoSeal a s
  | .coDiscard a => Sys2Proof.Machine.execCoDiscard a s
  | .coStat d a which => Sys2Proof.Machine.execCoStat d a which s
  | .rotOpen d a b c => Sys2Proof.Machine.execRotOpen d a b c s
  | .rotPut a b => Sys2Proof.Machine.execRotPut a b s
  | .rotTake d a c => Sys2Proof.Machine.execRotTake d a c s
  | .rotDone a b => Sys2Proof.Machine.execRotDone a b s
  | .rotClose a => Sys2Proof.Machine.execRotClose a s
  | .ctrStart a n => Sys2Proof.Machine.execCtrStart a n s
  | .ctrStop d a n => Sys2Proof.Machine.execCtrStop d a n s
  | .ctrRd d n which => Sys2Proof.Machine.execCtrRd d n which s
  | .sample a => Sys2Proof.Machine.execSample a s
  | .mark a imm => Sys2Proof.Machine.execMark a imm s
  | .moduleReset b => Sys2Proof.Machine.execModuleReset b s
  | .hostPortTraining rate width cxl => Sys2Proof.Machine.execHostPortTraining rate width cxl s
  | .stageImage img => Sys2Proof.Machine.execStageImage img s
  | .moduleResetCommand b => Sys2Proof.Machine.execModuleResetCommand b s
  | .registerWrite off size val => Sys2Proof.Machine.execRegisterWrite off size val s
  | .bar0InvalidAccess off size write => Sys2Proof.Machine.execBar0InvalidAccess off size write s
  | .doorbellPost dom vec => Sys2Proof.Machine.execDoorbellPost dom vec s
  | .bar2Read pa read => Sys2Proof.Machine.execBar2Read pa read s
  | .bar2Write pa write => Sys2Proof.Machine.execBar2Write pa write s
  | .hostSnoop line kind => Sys2Proof.Machine.execHostSnoop line kind s
  | .flagunionClear cluster mask => Sys2Proof.Machine.execFlagunionClear cluster mask s
  | .eccError pa corrected by_ => Sys2Proof.Machine.execEccError pa corrected by_ s
  | .blockFlit port flit => Sys2Proof.Machine.execBlockFlit port flit s
  | .slotGrant port flit => Sys2Proof.Machine.execSlotGrant port flit s
  | .forwardAck port flit => Sys2Proof.Machine.execForwardAck port flit s
  | .openFlit port flit => Sys2Proof.Machine.execOpenFlit port flit s
  | .breakFlit port flit => Sys2Proof.Machine.execBreakFlit port flit s
  | .retryRequest port flit => Sys2Proof.Machine.execRetryRequest port flit s
  | .flitCrcFailure port flit => Sys2Proof.Machine.execFlitCrcFailure port flit s
  | .firmwareEventSet cluster q mask set => Sys2Proof.Machine.execFirmwareEventSet cluster q mask set s
  | .powerGating unit on => Sys2Proof.Machine.execPowerGating unit on s
  | .presentDrawRefresh w => Sys2Proof.Machine.execPresentDrawRefresh w s
  | .readFailureLog => Sys2Proof.Machine.execReadFailureLog s
  | .commitImage => Sys2Proof.Machine.execCommitImage s
  | .setPolicy => Sys2Proof.Machine.execSetPolicy s
  | .fenceUnit => Sys2Proof.Machine.execFenceUnit s
  | .readTraceRegister => Sys2Proof.Machine.execReadTraceRegister s
  | .writeTraceRegister => Sys2Proof.Machine.execWriteTraceRegister s
  | .claimLaunch => Sys2Proof.Machine.execClaimLaunch s
  | .releaseClaim => Sys2Proof.Machine.execReleaseClaim s
  | .haltGroup => Sys2Proof.Machine.execHaltGroup s
  | .resumeOrStep => Sys2Proof.Machine.execResumeOrStep s
  | .readState => Sys2Proof.Machine.execReadState s
  | .writeState => Sys2Proof.Machine.execWriteState s
  | .setWatchpoint => Sys2Proof.Machine.execSetWatchpoint s
  | .reverseStep => Sys2Proof.Machine.execReverseStep s
  | .stopAtTickCommand => Sys2Proof.Machine.execStopAtTickCommand s
  | .readRegistrationEntry => Sys2Proof.Machine.execReadRegistrationEntry s
  | .readModuleCounter => Sys2Proof.Machine.execReadModuleCounter s
  | .readScratchpadWord => Sys2Proof.Machine.execReadScratchpadWord s
  | .writeScratchpadWord => Sys2Proof.Machine.execWriteScratchpadWord s
  | .readDebugEvent => Sys2Proof.Machine.execReadDebugEvent s
  | .recordAccept => Sys2Proof.Machine.execRecordAccept s
  | .hubCycle => Sys2Proof.Machine.execHubCycle s
  | .headReservation => Sys2Proof.Machine.execHeadReservation s
  | .quantumExpiry => Sys2Proof.Machine.execQuantumExpiry s
  | .hubWatchdog => Sys2Proof.Machine.execHubWatchdog s
  | .gangRetirementReport => Sys2Proof.Machine.execGangRetirementReport s
  | .completionSet => Sys2Proof.Machine.execCompletionSet s
  | .launchFailure => Sys2Proof.Machine.execLaunchFailure s
  | .evWaitRepresent => Sys2Proof.Machine.execEvWaitRepresent s
  | .stealReq => Sys2Proof.Machine.execStealReq s
  | .stealOffer => Sys2Proof.Machine.execStealOffer s
  | .stealAck => Sys2Proof.Machine.execStealAck s
  | .stealNak => Sys2Proof.Machine.execStealNak s
  | .stealConfirm => Sys2Proof.Machine.execStealConfirm s
  | .stealPlaced => Sys2Proof.Machine.execStealPlaced s
  | .stealLate => Sys2Proof.Machine.execStealLate s
  | .stealDeadline => Sys2Proof.Machine.execStealDeadline s
  | .hubReset => Sys2Proof.Machine.execHubReset s
  | .incarnationAnnouncement => Sys2Proof.Machine.execIncarnationAnnouncement s
  | .victimDeathNotice => Sys2Proof.Machine.execVictimDeathNotice s
  | .agreedTick => Sys2Proof.Machine.execAgreedTick s
  | .saveBodyWrite => Sys2Proof.Machine.execSaveBodyWrite s
  | .maquette => Sys2Proof.Machine.execMaquette s
  | .homeLoadRequest => Sys2Proof.Machine.execHomeLoadRequest s
  | .forwardedLoad => Sys2Proof.Machine.execForwardedLoad s
  | .loadReply => Sys2Proof.Machine.execLoadReply s
  | .homeRegistration => Sys2Proof.Machine.execHomeRegistration s
  | .revoke => Sys2Proof.Machine.execRevoke s
  | .forcedWriteBackAtOwner => Sys2Proof.Machine.execForcedWriteBackAtOwner s
  | .ownerDataArrival => Sys2Proof.Machine.execOwnerDataArrival s
  | .registrationAck => Sys2Proof.Machine.execRegistrationAck s
  | .mergeData => Sys2Proof.Machine.execMergeData s
  | .homeAmo => Sys2Proof.Machine.execHomeAmo s
  | .untrackedStoreAtHome => Sys2Proof.Machine.execUntrackedStoreAtHome s
  | .farAccess => Sys2Proof.Machine.execFarAccess s
  | .journalAck => Sys2Proof.Machine.execJournalAck s
  | .storeRefusal => Sys2Proof.Machine.execStoreRefusal s
  | .asyncTrapEntry => Sys2Proof.Machine.execAsyncTrapEntry s
  | .coreWatchdogExpiry => Sys2Proof.Machine.execCoreWatchdogExpiry s
  | .coreDeathDeclaration => Sys2Proof.Machine.execCoreDeathDeclaration s
  | .tlbShootdownRequest => Sys2Proof.Machine.execTlbShootdownRequest s
  | .tlbShootdownAck => Sys2Proof.Machine.execTlbShootdownAck s
  | .waiterReevaluation => Sys2Proof.Machine.execWaiterReevaluation s
  | .waitQueueRetry => Sys2Proof.Machine.execWaitQueueRetry s
  | .actSwapBoundary => Sys2Proof.Machine.execActSwapBoundary s
  | .flagunionSet => Sys2Proof.Machine.execFlagunionSet s
  | .gangOpStart => Sys2Proof.Machine.execGangOpStart s
  | .matrixRetire => Sys2Proof.Machine.execMatrixRetire s
  | .jobAccept => Sys2Proof.Machine.execJobAccept s
  | .jobStart => Sys2Proof.Machine.execJobStart s
  | .engineUnit => Sys2Proof.Machine.execEngineUnit s
  | .reduceSetComplete => Sys2Proof.Machine.execReduceSetComplete s
  | .jobComplete => Sys2Proof.Machine.execJobComplete s
  | .jobFail => Sys2Proof.Machine.execJobFail s
  | .replyDeposit => Sys2Proof.Machine.execReplyDeposit s
  | .mailboxDeposit => Sys2Proof.Machine.execMailboxDeposit s
  | .barWaitPoll => Sys2Proof.Machine.execBarWaitPoll s
  | .samplingPulse => Sys2Proof.Machine.execSamplingPulse s
  | .stopAtTick => Sys2Proof.Machine.execStopAtTick s
  | .thermalTrip => Sys2Proof.Machine.execThermalTrip s
  | .powerThrottle => Sys2Proof.Machine.execPowerThrottle s
  | .portDown => Sys2Proof.Machine.execPortDown s
  | .forwardStart => Sys2Proof.Machine.execForwardStart s
  | .putCopyComplete => Sys2Proof.Machine.execPutCopyComplete s
  | .ringTeardown => Sys2Proof.Machine.execRingTeardown s
  | .portRetraining => Sys2Proof.Machine.execPortRetraining s
  | .releaseHeldThread => Sys2Proof.Machine.execReleaseHeldThread s
  | .powerLoss => Sys2Proof.Machine.execPowerLoss s
  | .writeBackAck => Sys2Proof.Machine.execWriteBackAck s
  | .amoReply => Sys2Proof.Machine.execAmoReply s

end Sys2Proof.Machine
end

