-- ==== Sys2Proof/Machine/Turns.lean ====
section
/-! DEFINITION. The turn that a step takes, and an agent's own turn: a pending asynchronous cause first (14 R254, R255), then
the fetch (03 R37) and its causes (03 R48). -/

namespace Sys2Proof.Machine

/-- Has the named tick of a stop come (25 R424)? -/
def State.stopDue (s : State) : Bool :=
  match s.stopAt with
  | some t => !s.stopped && t ≤ s.gtick
  | none => false

/-- The state in which the next turn is chosen: time has passed, and a live port that had nothing to send has sent idle flits (22 R376). -/
def State.passed (s : State) : State := (s.elapse s.stepCycles).restPorts

/-- The turn a step takes, once time has passed: a stop at a named tick that has come, the sampling pulse of the tick of the step before (25 R415),
what the agenda names, a step of the machine's own that is due, or the default schedule's choice. -/
def State.nextTurn (s : State) : Turn :=
  let t := s.passed
  if t.stopDue then .event .stopAtTick 0 0
  else if s.pulseDue then .event .samplingPulse t.gtick 0
  else match t.agenda, t.due with
    | x :: _, _ => x
    | [], x :: _ => x
    | [], [] => t.defaultTurn

/-- The state the turn moves in: time has passed, the turn has left its list, and the marks and samples of earlier ticks are in the trace
buffer (25 R417). -/
def State.afterTurn (s : State) : State :=
  let t := s.passed
  let own := t.stopDue || s.pulseDue
  let u := match own, t.agenda, t.due with
    | true, _, _ => t
    | _, _ :: rest, _ => { t with agenda := rest }
    | _, [], _ :: rest => { t with due := rest }
    | _, [], [] => t
  { u.flushTrace u.gtick with stepNo := s.stepNo + 1, pulsed := !t.stopDue && s.pulseDue }

/-- Is an access of the agent at its own scratchpad due for its re-evaluation? -/
def State.isDue (s : State) (w : Who) : Bool :=
  (s.agent w).any (fun th => th.prog.note == 1) &&
    (s.core w.core).banks.toList.any fun b => b.due.any (Waiter.same (.own w.issuer 0 []))

/-- What an agent's turn comes to: an instruction to execute; the next instruction of a thread that has refusals pending, or in the
state `alt` a pending cause (14 R255); or a state already reached. -/
inductive Move where
  | instr (i : Instr) (s : State) | either (i : Instr) (s alt : State) | done (s : State)
  deriving Repr

/-- Has the refusal of a core's journal entry been reported (10 R194)? -/
def State.reports (s : State) (core j : Nat) : Bool :=
  match (s.core core).jent j with
  | some e => e.isReported
  | none => false

/-- The agent's instruction from now on, until it retires or is discarded: one that is not in progress issues in this step (07 R118, 25
Table 2, event 0). DESIGN CHOICE: one that then raises a cause of 03 Table 6 that its meaning checks (the allotment, a control register, the
mode) has issued, and one whose fetch or decode raises a cause has not; 03 R49 says of neither whether it counts as issued
(notes/assumptions/26.md). Unsafe: the order of issue and event 0 may take them the other way. -/
def State.takeInst (s : State) (w : Who) (th : Thread) (i : Instr) : State :=
  if th.prog.inst.isSome then s.setAgent w th
  else
    let u := if s.paused w.core then th else th.count 0
    s.setAgent w { u with issued := s.stepNo, prog := { th.prog with inst := some i, before := th.issued } }

/-- An agent's next instruction: the one in progress, or the one it fetches. -/
def State.nextInst (s : State) (w : Who) (g : Group) (th : Thread) : Except (Cause × W64) Instr :=
  match th.prog.inst with
  | some i => .ok i
  | none => s.fetch w g th

/-- The state in which an agent moves. -/
def State.actAs (s : State) (w : Who) : State := { s with cur := w }

/-- Is a thread set that has nothing in progress ready (07 R118)? Its next instruction, which `run` executes, would issue now, or a cause
would be taken: nothing stalls it, whatever it has waited for before. -/
def State.ready (s : State) (run : Instr → State → Host.Outcome State Fault Refusal) (w : Who) : Bool :=
  match s.group w.core, s.agent w with
  | some g, some th => th.pendingCause.isSome || match s.nextInst w g th with
    | .error _ => true
    | .ok i => match run i ((s.actAs w).takeInst w th i) with
      | .next t => (t.agent w).all fun u => u.prog.inst.isSome || u.wait == .none
      | _ => true
  | _, _ => false

/-- The thread set that issues when a thread set has its turn (07 R118): of the thread sets of its core that are ready, the one that issued
least recently, the lower of two that never issued. One whose instruction is in progress goes on with that. -/
def State.pickSet (s : State) (run : Instr → State → Host.Outcome State Fault Refusal) (w : Who) : Who :=
  match w.issuer, s.group w.core with
  | .thread t, some g =>
    let all := (g.threads.zip (List.range g.threads.length)).filter fun (e : Thread × Nat) =>
      e.1.prog.inst.isNone && s.canRun { core := w.core, issuer := .thread e.2 }
    if !(all.any fun e => e.2 == t) || all.all fun e => e.2 == t then w
    else
      match (all.filter fun e => s.ready run { core := w.core, issuer := .thread e.2 }).foldl (fun (m : Option (Thread × Nat)) e => match m with
          | some x => if e.1.issued < x.1.issued then some e else m
          | none => some e) none with
      | some e => { core := w.core, issuer := .thread e.2 }
      | none => w
  | _, _ => w

/-- A debugger's step has retired its last instruction (26 Table 6, 0x0035): the group halts again. -/
def State.stepDone (s : State) (w : Who) (th : Thread) : State :=
  let s := s.setAgent w { th with stepsLeft := none }
  let s := match s.group w.core with
    | some g => s.setGroup w.core { g with halting := true }
    | none => s
  s.debugEvent 3 w.core w.issuer.setNo th.pc 0

/-- The state in which a machine event happens, with the numbers of the unit or message that it takes. -/
def State.select (s : State) (a b : Nat) : State := { s with selA := a, selB := b }

/-- Every refusal of a core but one counts as reported. -/
def State.onlyRefusal (s : State) (core j : Nat) : State :=
  let k := s.core core
  s.setCore core { k with jrnl := k.jrnl.map fun e => if e.idx == j then e else e.report }

/-- A thread with pending refusals whose next instruction `run` executes: it takes the pending cause that is due in `alt`, but a refusal
that the instruction would wait for is the instruction's own (14 R255). -/
def State.asyncOver (s alt : State) (run : State → Host.Outcome State Fault Refusal) : Host.Outcome State Fault Refusal :=
  let core := s.cur.core
  let own (j : Nat) : Bool := !s.reports core j && match run (s.onlyRefusal core j) with
    | .next t => t.reports core j
    | _ => false
  match (alt.agent s.cur).bind fun th => alt.dueCause core th own with
  | some a => .next (alt.takeCause core s.cur.issuer.setNo a)
  | none => run s

/-- An agent's turn when a cause is pending. -/
def State.asyncMove (s : State) (w : Who) (g : Group) (th : Thread) : Move :=
  let alt := s.select w.core w.issuer.setNo
  match th.prog.seq == 0 && th.pend.any (·.jidx.isSome), s.nextInst w g th with
  | true, .ok i => .either i (s.takeInst w th i) alt
  | _, _ => .instr .asyncTrapEntry alt

/-- An agent's turn. An instruction that has an answer or has had an effect goes on before anything is taken. An access of the agent that is
due for its re-evaluation (11 R224) is stepped in this turn. A feed core that refusals have reached meanwhile stops now (14 R262). -/
def State.agentMove (s : State) (w : Who) : Move :=
  let s := if s.isDue w then s.popDue w.core (.own w.issuer 0 []) else s
  match s.group w.core, s.agent w with
  | some g, some th =>
    if !s.canRun w then .done s
    else
      let s := s.actAs w
      if th.stepsLeft == some 0 then .done (s.stepDone w th)
      else if w.issuer.isFeed && !th.pend.isEmpty && !s.underway w th.prog && !(th.prog.inst matches some (.jmp _)) then
        .done ((s.withdraw w).feedLate w)
      else match w.issuer.isFeed || s.underway w th.prog, th.pendingCause with
        | false, some _ => s.asyncMove w g th
        | _, _ => match s.nextInst w g th with
          | .ok i => .instr i (s.takeInst w th i)
          | .error (c, tval) =>
            .done ((s.forget w.core g.dom th.pc.toNat).takeTrap w { cause := c, tval := tval, tepc := none } false 0 0)
  | _, _ => .done s

/-- What still happens while the clocks are stopped for scan-out (25 R424): a module reset, or the loss of power. -/
def whileStopped (t : Turn) : Bool :=
  match t with
  | .event (.moduleReset _) _ _ | .event (.moduleResetCommand _) _ _ | .event .powerLoss _ _ => true
  | _ => false

/-- Where `withFetchWord` puts code: virtual and physical address 512 MiB. -/
def codeBase : Nat := 0x20000000

/-- A code page's tables in domain 0 (13 R239 to R241): a root at 64 KiB, a level-2 table at 128 KiB, one 512 MiB frame
with every permission. -/
def State.withCode (s : State) (w : Nat) : State :=
  let m := writeN s.mem 0x10000 8 (1 + 0x20000)
  let m := writeN m (0x20000 + 8) 8 (2 + 0x780 + codeBase + 2 ^ 52 + 2 ^ 54)
  let m := writeN m codeBase 16 w
  let g := { Group.init with
    nt := 8, na := 4, spm := 1, threads := setAt Group.init.threads 0 (Thread.placed (w64 codeBase) 0 0 0) }
  { s with
    mem := m, live := true, stopped := false, stopAt := none,
    domains := s.domains.set 0 { Domain.init with valid := true, root := 0x10000 },
    mgmt := { s.mgmt with state := 3 },
    cores := set s.cores 0 { Core.init with group := some g },
    gangs := set s.gangs 0 Gang.init,
    agenda := [.agent { core := 0, issuer := .thread 0 }] }

end Sys2Proof.Machine
end

