-- ==== Sys2Proof/Machine/Step.lean ====
section
/-! DEFINITION. One step of the machine: time passes, one turn is chosen, and its agent or event moves. -/

namespace Sys2Proof.Machine

/-- Take one turn, unless the clocks are stopped for scan-out (25 R424). -/
def runTurn (t : Turn) (s : State) : Host.Outcome State Fault Refusal :=
  if s.stopped && !whileStopped t then .next s
  else match t with
  | .agent w => match s.agentMove (s.pickSet exec w) with
    | .instr i s => exec i s
    | .either i s alt => s.asyncOver alt (exec i)
    | .done s => .next s
  | .event i a b => exec i (s.select a b)
  | .keepTlb c dom va level => .next (s.keepTlb c dom va level)
  | .dropTlb c dom va => .next (s.shoot c { all := false, alldom := false, dom := dom, va := w64 va })
  | .keepFetch core va => .next (s.keepBlock core va)
  | .dropFetch core va => .next (s.dropBlock core va)
  | .evict core line => .next (s.evictLine core line)

/-- One step. -/
def step (s : State) : Host.Outcome State Fault Refusal := runTurn s.nextTurn s.afterTurn

/-- The state in which the next step fetches and runs one instruction: bring-up is done, domain 0 maps one page of code,
one group runs on core 0, the instruction's bytes (those above `nbits` zero) lie at its thread's PC, and the agenda names
that thread (notes/assumptions/8.md). -/
def State.withFetchWord (s : State) (nbits w : Nat) : State := s.withCode (w % 2 ^ nbits)

end Sys2Proof.Machine
end

