-- ==== Sys2Proof/Safety.lean ====
section
/-! DEFINITION. The terms in which claims about the machine are stated: when an instruction may execute, what its completion and
its traps are, what its step leaves unchanged, and the invariant of memory. -/

namespace Sys2Proof.Machine

/-! ## When an instruction executes -/

/-- `th` is the agent whose step this is, and reading these scalar and vector registers raises no DEAD_READ (07 R113, R115). -/
def Ready (s : State) (th : Thread) (xs vs : List Reg) : Prop :=
  s.me = some th ∧ (s.cur.issuer.isFeed = true ∨ th.deadRead xs vs = none)

/-- The agent is ready and `g` is its group. -/
def ReadyIn (s : State) (th : Thread) (g : Group) (xs vs : List Reg) : Prop :=
  Ready s th xs vs ∧ s.group s.cur.core = some g

/-- The issuing agent has no entry in its core's journal, and none happens before what it does, so that a release waits for nothing (09 R177,
R178, 10 R193). -/
def NoneOutstanding (s : State) : Prop := ∀ e ∈ (s.core s.cur.core).jrnl, e.owes s.cur.issuer = false

/-- No requester is parked, waits for room or is due at a core's banks (11 R222). -/
def BanksIdle (s : State) (core : Nat) : Prop := (s.core core).banks = Vector.replicate 3 Bank.init

/-- No watchpoint is set on a core (25 R419). -/
def Unwatched (s : State) (core : Nat) : Prop :=
  (s.core core).watch = Vector.replicate 4 ({ kind := 0, base := 0, len := 0 } : Watch)

/-- The agent's instruction has not issued: it has asked for nothing and has had no effect (07 R118). -/
def Thread.Unissued (th : Thread) : Prop := { th.prog with inst := none, before := 0 } = Prog.idle

/-- Nothing of the agent, of a bank of its core or of a debugger stands in the way of an access that it issues now, under the present `TWIN`
and `SPLIT` values (07 R130). -/
structure NearReady (s : State) (th : Thread) (g : Group) : Prop where
  me      : s.me = some th
  group   : s.group s.cur.core = some g
  fresh   : th.Unissued
  drained : NoneOutstanding s
  banks   : BanksIdle s s.cur.core
  watch   : Unwatched s s.cur.core
  recent  : ∀ p ∈ g.past, p.upto ≤ th.issued

/-- `n` bytes of the agent's own scratchpad at `off`, aligned to `al`, may be accessed (10 R184 to R187, 11 R216): they are allocated, and
every word's entry for the kind is PASS with no change of tag and no WAKE. -/
structure NearBytes (s : State) (g : Group) (k : Kind) (off n al : Nat) : Prop where
  aligned : off % al = 0
  alloc   : off + n ≤ g.alloc
  near    : off + n ≤ 0x180000
  pass    : ∀ w, off / 8 ≤ w → w * 8 < off + n → g.entry (nearKind s.cur k) w = 0

/-- An access to the agent's own scratchpad passes. -/
def NearPass (s : State) (th : Thread) (g : Group) (k : Kind) (off n al : Nat) : Prop :=
  NearReady s th g ∧ NearBytes s g k off n al

/-- A job may write `n` bytes at `off` of its own group's scratchpad (18 R328): the group is resident and unsuspended, the bytes are
allocated, no requester stands at the banks, no replaced `TWIN` or `SPLIT` value reaches this step, and every word's EGW entry is PASS with no change of
tag and no WAKE. -/
structure EngineNear (s : State) (j : Job) (g : Group) (off n : Nat) : Prop where
  group  : s.group j.origin = some g
  gang   : g.gang = j.gang
  dom    : g.dom = j.dom
  saved  : j.recorded = false
  alive  : (s.core j.origin).fenced = false ∧ (s.core j.origin).dead = false
  alloc  : off + n ≤ g.alloc
  near   : off + n ≤ 0x180000
  banks  : BanksIdle s j.origin
  recent : ∀ p ∈ g.past, p.upto ≤ s.stepNo
  pass   : ∀ w, off / 8 ≤ w → w * 8 < off + n → g.entry .egw w = 0

/-! ## Completion -/

/-- The instruction completes: the issuing agent retires as `u`. -/
def Retires (i : Instr) (s : State) (u : Thread) : Prop := exec i s = .next (s.retire u)

/-- It completes with `v` written to `xd`, at the address `len` bytes on. -/
def WritesX (i : Instr) (s : State) (th : Thread) (len : Nat) (d : Reg) (v : W64) : Prop :=
  Retires i s ((th.wx d v).advance len)

/-- It completes as arithmetic does: the conditions are raised in the thread's `FLAGS` and go to the cluster's `FLAGUNION`
(06 R103, R105). -/
def FpRetires (i : Instr) (s : State) (fl : Flg) (u : Thread) : Prop :=
  exec i s = .next ((s.retire (u.raiseFlags fl)).unite s.cur.core fl)

/-- The instruction raises a cause precisely, with no other effect (14 R253). -/
def Traps (i : Instr) (s : State) (c : Cause) (tval : W64) : Prop :=
  exec i s = .next (s.takeTrap s.cur { cause := c, tval := tval, tepc := none } false 0 0)

/-- Between two states the agent of the first has retired one instruction of `len` bytes, and is `u` then. -/
def RetiredAs (s t : State) (th u : Thread) (len : Nat) : Prop :=
  s.me = some th ∧ t.agent s.cur = some u ∧ u.pc = th.pc + w64 len ∧ u.retired = th.retired + 1 ∧ u.prog = Prog.idle

/-- Two threads agree in every scalar register's value and liveness. -/
def SameX (u v : Thread) : Prop := ∀ r : Reg, u.rx r = v.rx r ∧ u.liveX r = v.liveX r

/-! ## Frames -/

/-- Every byte of HBM and of the host's memory is as before. -/
def MemSame (s t : State) : Prop :=
  ∀ a, byteAt t.mem a = byteAt s.mem a ∧ byteAt t.hostMem a = byteAt s.hostMem a

/-- One byte of a core's scratchpad; zero where no group is resident. -/
def State.spByte (s : State) (core a : Nat) : Byte :=
  match s.group core with
  | some g => byteAt g.spData a
  | none => 0

/-- Every byte of every scratchpad outside `n` bytes at `off` of one core's is as before. -/
def SpSameBut (s t : State) (core off n : Nat) : Prop :=
  ∀ c a, (c ≠ core ∨ a < off ∨ off + n ≤ a) → t.spByte c a = s.spByte c a

/-- Every byte of every scratchpad is as before. -/
def SpSame (s t : State) : Prop := ∀ c a, t.spByte c a = s.spByte c a

/-- A step that concerns the issuing agent alone: every other core, every other agent, and everything of the group but its agents
and the tick of its last retirement is as before; so is everything of the module but its cores and what a debugger's maquettes record
(25 R422). -/
structure OnlyAgent (s t : State) : Prop where
  module : t = { s with cores := t.cores, maquettes := t.maquettes, redo := t.redo }
  cores  : ∀ c, c ≠ s.cur.core → t.core c = s.core c
  core   : t.core s.cur.core = { s.core s.cur.core with group := t.group s.cur.core }
  agents : ∀ w, w ≠ s.cur → t.agent w = s.agent w
  group  : ∀ g h, s.group s.cur.core = some g → t.group s.cur.core = some h →
    h = { g with threads := h.threads, lastRetire := h.lastRetire,
                 loader := { g.loader with th := h.loader.th }, storer := { g.storer with th := h.storer.th } }

/-- A thread that a retirement leaves: everything but its scalar registers, PC, wait, progress, counters and counts is as before. -/
def OnlyX (th u : Thread) : Prop :=
  u = { th with x := u.x, xlive := u.xlive, pc := u.pc, wait := u.wait, prog := u.prog, ctrs := u.ctrs, retired := u.retired,
                stepsLeft := u.stepsLeft }

/-- The same for an instruction that writes vector registers. -/
def OnlyV (th u : Thread) : Prop :=
  u = { th with v := u.v, pc := u.pc, wait := u.wait, prog := u.prog, ctrs := u.ctrs, retired := u.retired,
                stepsLeft := u.stepsLeft }

/-- A thread that an access to memory leaves: everything but its registers, stream pointers, PC, wait, progress, counters and counts is as
before. -/
def OnlyRegs (th u : Thread) : Prop :=
  u = { th with x := u.x, xlive := u.xlive, v := u.v, p := u.p, pc := u.pc, wait := u.wait, prog := u.prog, ctrs := u.ctrs,
                retired := u.retired, stepsLeft := u.stepsLeft }

/-- Two threads agree in every vector register and stream pointer. -/
def SameV (u v : Thread) : Prop := (∀ r : Reg, u.rv r = v.rv r) ∧ u.p = v.p

/-- An access to the agent's own scratchpad has retired as `u`: what may differ besides are the data and written bits of the
scratchpad, the clean words of the core's cache portion, and the model's own counters and schedule. -/
structure NearStep (s t : State) (th u : Thread) (len : Nat) : Prop where
  retired : RetiredAs s t th u len
  only    : OnlyRegs th u
  mem     : MemSame s t
  others  : ∀ w, w ≠ s.cur → t.agent w = s.agent w
  group   : ∀ g h, s.group s.cur.core = some g → t.group s.cur.core = some h →
    h = { g with threads := h.threads, lastRetire := h.lastRetire, spData := h.spData, spWritten := h.spWritten,
                 loader := { g.loader with th := h.loader.th }, storer := { g.storer with th := h.storer.th } }

/-! ## Vectors -/

/-- Lane `j` of `n` bits of an operand: of one register, or of a register and the next in the pair form (08 R134, R142). -/
def vlane (th : Thread) (n : Nat) (r : Reg) (j : Nat) : BitVec n :=
  (th.rv (if j < 256 / n then r else r + 1)).data.extractLsb' (n * (j % (256 / n))) n

/-- The lanes of an operand. -/
def laneCount (n : Nat) (pr : Bool) : Nat := if pr then 2 * (256 / n) else 256 / n

/-- Every live register of an operand carries a tag (08 R143). -/
def Tagged (th : Thread) (pr : Bool) (tag : BitVec 4) (r : Reg) : Prop :=
  ∀ q ∈ regsOf pr r, (th.rv q).live = true → (th.rv q).tag = tag

/-- `u` holds a vector result: the lanes `f`, under a tag and a zero sidecar, and every other vector register as before. -/
structure VecResult (th u : Thread) (n : Nat) (pr : Bool) (d : Reg) (tag : BitVec 4) (f : Nat → BitVec n) : Prop where
  lanes  : ∀ j, j < laneCount n pr → vlane u n d j = f j
  regs   : ∀ q ∈ regsOf pr d, (u.rv q).live = true ∧ (u.rv q).tag = tag ∧ (u.rv q).side = 0
  others : ∀ q, q ∉ regsOf pr d → u.rv q = th.rv q
  pc     : u.pc = th.pc + 8

/-- The union of the conditions of `k` lanes. -/
def flagsOf (k : Nat) (f : Nat → Flg) : Flg := (List.range k).foldl (fun fl j => fl ||| f j) 0

/-! ## Invariants -/

/-- HBM and the host's memory are in canonical form. -/
def State.MemWf (s : State) : Prop := Memory.wf s.mem = true ∧ Memory.wf s.hostMem = true

end Sys2Proof.Machine
end

