-- ==== Sys2Proof/Certificates/Slice0/Obligations.lean ====
section
/-! DEFINITION. The statements for the provers: what the spec's rules say of the machine, of its instructions and of its events. -/

open Sys2Proof Sys2Proof.Machine

/-! ## Steps, decoding and registers -/

/-- When the next turn is a thread set's, the one of its core that issues then (07 R118) may run, has nothing in progress and no cause
pending, and its PC's fetch block holds the bytes of an instruction (03 R34 to R37), the step is that instruction's `exec`, in the state
where time has passed, the thread is the issuing agent, and its instruction in progress is that one. -/
def Obligations.StepRunsDecoded : Prop :=
  ∀ (s : State) (v : Who) (core k : Nat) (g : Group) (th : Thread) (block rest : List Byte) (i : Instr),
    let w : Who := { core := core, issuer := .thread k }
    let u := s.afterTurn.actAs w
    let code := block.drop (th.pc.toNat % 32)
    s.nextTurn = .agent v → s.afterTurn.pickSet exec v = w → s.afterTurn.canRun w = true → u.group core = some g → u.agent w = some th →
    th.prog = Prog.idle → th.stepsLeft ≠ some 0 → th.pendingCause = none →
    u.codeBlock core g th = .ok block → decode false code = .ok (i, rest) →
    th.pc.toNat % 32 + lenBytes ((bitsOfBytes code).extractLsb' 0 2) ≤ 32 →
    step s = exec i (u.takeInst w th i)

/-- Words written out from 03 Table 2 and the class descriptions, most of them in the spec's own listings, decode to the instructions they
stand for: `add.d x5, x6, x7`; `addi.w x1, x2, 0x7FF0`; `ld.d x4, [x3]` acquire at `mod`; `mma.t8b a1, t2, t3, 64` (16); `trap 7` (14);
`sel x9, x10, x11, x12` and `br.lt x4, x5, -8` (07); `li.d` with 64 bits. A zero word decodes to nothing (03 Table 1). -/
def Obligations.WordsDecode : Prop :=
  decodeTableWord 64 0x000000007314C005 = some (.add .d 5 6 7) ∧
  decodeTableWord 64 0x7FF0000001048009 = some (.addi .w 1 2 (.i16 0x7FF0)) ∧
  decodeTableWord 64 0x000003000190C029 = some (.ld .d .acq .mod 0 4 3 (.i16 0)) ∧
  decodeTableWord 64 0x0040000031044065 = some (.mma .t8b 1 2 3 64) ∧
  decodeTableWord 64 0x0007000000000125 = some (.trap 7) ∧
  decodeTableWord 64 0x00000018B524D205 = some (.sel .d 9 10 11 12) ∧
  decodeTableWord 64 0xFFF800005200801D = some (.br .lt 4 5 (.i16 0xFFF8)) ∧
  decodeTableWord 128 0x123456789ABCDEF0000000000008C70B = some (.li .d 2 (.i64 0x123456789ABCDEF0)) ∧
  decodeTableWord 64 0 = none

/-- Decoding the encoding of a well-formed instruction gives it back, with every operand at every value that the encoding admits. -/
def Obligations.DecodeOfEncode : Prop :=
  ∀ (i : Instr) (w : BitVec 128), i.wf = true → encode i = some w → decodeBits false w = .ok i

/-- The other direction: what decodes is well formed, and its encoding is the word up to the instruction's length, but for a `nop`,
whose `IMM16` and upper bits are ignored (07 R133). -/
def Obligations.EncodeOfDecode : Prop :=
  ∀ (i : Instr) (w : BitVec 128), decodeBits false w = .ok i →
    i.wf = true ∧ ((∀ len, i ≠ .nop len) → encode i = some (BitVec.ofNat 128 (w.toNat % 2 ^ (8 * i.size))))

/-- `x0` reads as zero and is live, and a write to it is discarded; a write to another register makes it live with the value and leaves
every other register as it was (07 R108, R111).
A vector register that is written is live and reads as what was written, its sidecar zero unless its tag is block-scaled; every
other one is as it was (08 R136, 06 R94). -/
def Obligations.Registers : Prop :=
  (∀ (th : Thread) (r q : Reg) (v : W64),
     th.rx 0 = 0 ∧ th.liveX 0 = true ∧ th.wx 0 v = th ∧
     (r ≠ 0 → (th.wx r v).rx r = v ∧ (th.wx r v).liveX r = true) ∧
     (q ≠ r → (th.wx r v).rx q = th.rx q ∧ (th.wx r v).liveX q = th.liveX q)) ∧
  (∀ (th : Thread) (r q : Reg) (data : W256) (tag : BitVec 4) (side : W64),
     (th.wv r data tag side).rv r =
       { data := data, tag := tag, side := if tag = 6 ∨ tag = 7 ∨ tag = 12 then side else 0, live := true } ∧
     (q ≠ r → (th.wv r data tag side).rv q = th.rv q))

/-! ## Scalar arithmetic -/

/-- The results of IALU (07 R121, R122), as operations on the low n bits; `sel` tests `x[C]` in all 64.
The results of IALUI (07 R123): the immediate is sign-extended, and the length is that of the form. -/
def Obligations.IntegerResults : Prop :=
  (∀ (s : State) (th : Thread) (sz : ISz) (d a b c : Reg), Ready s th [a, b] [] →
     let n := sz.bitsN
     let x : BitVec n := (th.rx a).setWidth n
     let y : BitVec n := (th.rx b).setWidth n
     let puts (i : Instr) (v : BitVec n) : Prop := WritesX i s th 8 d (v.signExtend 64)
     puts (.add sz d a b) (x + y) ∧ puts (.sub sz d a b) (x - y) ∧ puts (.and sz d a b) (x &&& y) ∧ puts (.or sz d a b) (x ||| y) ∧
     puts (.xor sz d a b) (x ^^^ y) ∧ puts (.andn sz d a b) (x &&& ~~~y) ∧ puts (.shl sz d a b) (x <<< (y.toNat % n)) ∧
     puts (.shr sz d a b) (x >>> (y.toNat % n)) ∧ puts (.sra sz d a b) (x.sshiftRight (y.toNat % n)) ∧
     puts (.rol sz d a b) (x.rotateLeft (y.toNat % n)) ∧ puts (.ror sz d a b) (x.rotateRight (y.toNat % n)) ∧
     puts (.min sz d a b) (if x.sle y then x else y) ∧ puts (.max sz d a b) (if y.sle x then x else y) ∧
     puts (.minu sz d a b) (if x.ule y then x else y) ∧ puts (.maxu sz d a b) (if y.ule x then x else y) ∧
     puts (.slt sz d a b) (if x.slt y then 1 else 0) ∧ puts (.sltu sz d a b) (if x.ult y then 1 else 0) ∧
     puts (.seq sz d a b) (if x = y then 1 else 0) ∧
     (Ready s th [a, b, c] [] → puts (.sel sz d a b c) (if th.rx c = 0 then y else x))) ∧
  (∀ (s : State) (th : Thread) (sz : ISz) (d a : Reg) (imm : ImmA) (sh : BitVec 6) (li : ImmL), Ready s th [a] [] →
     let n := sz.bitsN
     let x : BitVec n := (th.rx a).setWidth n
     let (k, len) : W64 × Nat := match imm with
       | .i16 v => (v.signExtend 64, 8)
       | .i32 v => (v.signExtend 64, 12)
     let (l, len') : W64 × Nat := match li with
       | .i16 v => (v.signExtend 64, 8)
       | .i32 v => (v.signExtend 64, 12)
       | .i64 v => (v, 16)
     let y : BitVec n := k.setWidth n
     let puts (i : Instr) (m : Nat) (v : BitVec n) : Prop := WritesX i s th m d (v.signExtend 64)
     puts (.addi sz d a imm) len (x + y) ∧ puts (.andi sz d a imm) len (x &&& y) ∧ puts (.ori sz d a imm) len (x ||| y) ∧
     puts (.xori sz d a imm) len (x ^^^ y) ∧ puts (.shli sz d a sh) 8 (x <<< sh.toNat) ∧ puts (.shri sz d a sh) 8 (x >>> sh.toNat) ∧
     puts (.srai sz d a sh) 8 (x.sshiftRight sh.toNat) ∧ puts (.li sz d li) len' (l.setWidth n) ∧
     WritesX (.pcadd d imm) s th len d (th.pc + k))

/-- The results of IMUL (07 R124), division by zero and the overflowing division among them.
The results of BITF (07 R125), bit by bit. -/
def Obligations.ProductAndBitResults : Prop :=
  (∀ (s : State) (th : Thread) (sz : ISz) (d a b c : Reg), Ready s th [a, b] [] →
     let n := sz.bitsN
     let x : BitVec n := (th.rx a).setWidth n
     let y : BitVec n := (th.rx b).setWidth n
     let puts (i : Instr) (v : BitVec n) : Prop := WritesX i s th 8 d (v.signExtend 64)
     let high (u v : BitVec (2 * n)) : BitVec n := ((u * v) >>> n).setWidth n
     puts (.mul sz d a b) (x * y) ∧ puts (.mulh sz d a b) (high (x.signExtend (2 * n)) (y.signExtend (2 * n))) ∧
     puts (.mulhu sz d a b) (high (x.setWidth (2 * n)) (y.setWidth (2 * n))) ∧
     puts (.mulhsu sz d a b) (high (x.signExtend (2 * n)) (y.setWidth (2 * n))) ∧
     puts (.div sz d a b) (if y = 0 then BitVec.allOnes n else x.sdiv y) ∧
     puts (.divu sz d a b) (if y = 0 then BitVec.allOnes n else x / y) ∧
     puts (.rem sz d a b) (if y = 0 then x else x.srem y) ∧ puts (.remu sz d a b) (if y = 0 then x else x % y) ∧
     (Ready s th [a, b, c] [] → puts (.madd sz d a b c) (x * y + (th.rx c).setWidth n))) ∧
  (∀ (s : State) (th : Thread) (sz : ISz) (d a b : Reg) (pos : BitVec 6) (len : BitVec 7), Ready s th [a, b] [] →
     let n := sz.bitsN
     let p := pos.toNat
     let l := len.toNat
     let x (j : Nat) : Bool := j < n && (th.rx a).getLsbD j
     let is (i : Instr) (bit : Nat → Bool) : Prop :=
       ∃ v : BitVec n, WritesX i s th 8 d (v.signExtend 64) ∧ ∀ j, j < n → v.getLsbD j = bit j
     let counts (i : Instr) (q : Nat → Prop) : Prop := ∃ k, k ≤ n ∧ WritesX i s th 8 d (BitVec.ofNat 64 k) ∧ q k
     counts (.clz sz d a) (fun k => (∀ j, n - k ≤ j → x j = false) ∧ (k < n → x (n - 1 - k) = true)) ∧
     counts (.ctz sz d a) (fun k => (∀ j, j < k → x j = false) ∧ (k < n → x k = true)) ∧
     counts (.popc sz d a) (fun k => k = ((List.range n).filter x).length) ∧
     (1 ≤ l → p + l ≤ n →
       WritesX (.bfx sz d a pos len) s th 8 d ((((th.rx a) >>> p).setWidth l).signExtend 64) ∧
       WritesX (.bfxu sz d a pos len) s th 8 d ((((th.rx a) >>> p).setWidth l).setWidth 64) ∧
       is (.bfi sz d a b pos len) (fun j => if p ≤ j ∧ j < p + l then (th.rx a).getLsbD (j - p) else (th.rx b).getLsbD j)) ∧
     is (.bswap sz d a) (fun j => x (8 * (n / 8 - 1 - j / 8) + j % 8)) ∧
     is (.brev sz d a) (fun j => x (n - 1 - j)) ∧ is (.sext sz d a) x ∧
     WritesX (.zext sz d a) s th 8 d (((th.rx a).setWidth n).setWidth 64))

/-- Whatever an instruction computes, one that retires as a thread `u` leaves everything but its thread and the tick of the group's last
retirement as it was; one that writes a register leaves the others, every flag and every special register (07 R120). -/
def Obligations.RetirementFrame : Prop :=
  ∀ (s : State) (th u : Thread) (i : Instr), s.me = some th →
    (Retires i s u → ∃ t w, exec i s = .next t ∧ OnlyAgent s t ∧ MemSame s t ∧ SpSame s t ∧ t.agent s.cur = some w ∧
      w = { u with ctrs := w.ctrs }) ∧
    ∀ (len : Nat) (d : Reg) (v : W64), WritesX i s th len d v → ∃ t w, exec i s = .next t ∧ t.agent s.cur = some w ∧ OnlyX th w ∧
      w.pc = th.pc + w64 len ∧ w.retired = th.retired + 1 ∧ w.prog = Prog.idle ∧ (d ≠ 0 → w.rx d = v ∧ w.liveX d = true) ∧
      ∀ r, r ≠ d → w.rx r = th.rx r ∧ w.liveX r = th.liveX r

/-! ## Floating point -/

/-- An exact magnitude m × 2^e rounded to a multiple of 2^q, q above e (06 R101): it goes to a neighbour, and only an exact one is not
inexact; RTZ, RDN and RUP go toward zero, −∞ and +∞; RNE and RMM go to the nearer, a tie to the even one and away from zero.
Every value of an IEEE format rounds to itself in every mode, with no condition; a NaN to the canonical one, NV for a signalling one
(06 R87). -/
def Obligations.ExactRounding : Prop :=
  (∀ (neg : Bool) (m : Nat) (e q : Int) (mode : RMode), e < q →
     let one := 2 ^ (q - e).toNat
     let lo := m / one
     let rest := m % one
     let r := ({ neg := neg, m := m, e := e, more := false } : Ex).roundAt mode q
     (r.2 = false ↔ rest = 0) ∧ (rest = 0 → r.1 = lo) ∧ (r.1 = lo ∨ r.1 = lo + 1) ∧
     (mode = .rtz → r.1 = lo) ∧ (mode = .rdn → rest ≠ 0 → r.1 = if neg then lo + 1 else lo) ∧
     (mode = .rup → rest ≠ 0 → r.1 = if neg then lo else lo + 1) ∧
     (mode = .rne ∨ mode = .rmm → 2 * r.1 * one ≤ 2 * m + one ∧ 2 * m ≤ 2 * r.1 * one + one) ∧
     (2 * rest = one → (mode = .rne → r.1 % 2 = 0) ∧ (mode = .rmm → r.1 = lo + 1))) ∧
  (∀ (fmt : FFmt) (mode : RMode) (bits : Nat), bits < 2 ^ (fpOf fmt).width →
     let f := fpOf fmt
     match f.read bits with
     | .nan sig => f.ofNum mode (f.read bits) = (f.nanBits, if sig then fNV else 0)
     | _ => f.ofNum mode (f.read bits) = (bits, 0))

/-- FALU (08 R144, R145): the result's bits go to `x[D]`, zero-extended, and its conditions to `FLAGS` and toward `FLAGUNION`; an enabled
condition raises FP instead, with no effect (06 R103, R104). A rounding instruction draws once under RSC (R102).
FCVT (08 R146, R147): to an IEEE format, rounded once; to an integer, the nearest bound with NV when out of range and zero with NV for
a NaN (06 R86); a narrowing conversion updates `AMAX` (06 R106). `fmv` copies the low bits. -/
def Obligations.FaluAndFcvtResults : Prop :=
  (∀ (s : State) (th : Thread) (fmt : FFmt) (rm : Rm) (d a b c : Reg) (mode : BitVec 2), Ready s th [a, b, c] [] →
     Ready s th [a, b] [] → Ready s th [a] [] →
     let f := fpOf fmt
     let m := th.mode rm 0
     let x := f.read ((th.rx a).toNat % 2 ^ f.width)
     let y := f.read ((th.rx b).toNat % 2 ^ f.width)
     let z := f.read ((th.rx c).toNat % 2 ^ f.width)
     let xb := (th.rx a).toNat % 2 ^ f.width
     let yb := (th.rx b).toNat % 2 ^ f.width
     let puts (i : Instr) (r : Nat × Flg) (draws : Bool) : Prop :=
       let u := (th.wx d (w64 r.1)).advance 8
       (r.2 &&& th.enabled = 0 → FpRetires i s r.2 (if draws then u.drawn rm 1 else u)) ∧
       (r.2 &&& th.enabled ≠ 0 → Traps i s .fp (w64 r.2.toNat))
     puts (.fadd fmt rm d a b) (f.add m x y) true ∧ puts (.fsub fmt rm d a b) (f.add m x y.neg) true ∧
     puts (.fmul fmt rm d a b) (f.mul m x y) true ∧ puts (.fma fmt rm d a b c) (f.fma m x y z) true ∧
     puts (.fnma fmt rm d a b c) (f.fma m x.neg y z) true ∧ puts (.fdiv fmt rm d a b) (f.div m x y) true ∧
     puts (.fsqrt fmt rm d a) (f.sqrt m x) true ∧ puts (.fmin fmt d a b) (f.minMax false xb yb) false ∧
     puts (.fmax fmt d a b) (f.minMax true xb yb) false ∧
     puts (.fsgn fmt d a b mode) (f.signed (match mode.toNat with
       | 0 => 2 ^ (f.width - 1) ≤ yb
       | 1 => yb < 2 ^ (f.width - 1)
       | _ => decide (2 ^ (f.width - 1) ≤ xb) != decide (2 ^ (f.width - 1) ≤ yb)) (xb % 2 ^ (f.width - 1)), 0) false ∧
     puts (.fcmp fmt d a b mode) (natOf (f.compare mode.toNat xb yb).1, (f.compare mode.toNat xb yb).2) false ∧
     puts (.fclass fmt d a) (2 ^ f.classNo x, 0) false) ∧
  (∀ (s : State) (th : Thread) (fmt : FFmt) (rm : Rm) (d a : Reg) (code : BitVec 3), Ready s th [a] [] →
     let f := fpOf fmt
     let m := th.mode rm 0
     let src := th.cvtSource code.toNat a
     let x := f.read ((th.rx a).toNat % 2 ^ f.width)
     let k := intOfCode code.toNat
     let r := f.ofNum m src.1
     let q := k.ofIeee m x
     let puts (i : Instr) (fl : Flg) (v : W64) (narrow : Bool) (from_ : Machine.Num) : Prop :=
       (fl &&& th.enabled = 0 → FpRetires i s fl ((((th.wx d v).amaxOf narrow [from_]).drawn rm 1).advance 8)) ∧
       (fl &&& th.enabled ≠ 0 → Traps i s .fp (w64 fl.toNat))
     puts (.fcvt fmt rm d a code) r.2 (w64 r.1) (f.width < src.2) src.1 ∧
     puts (.fcvtInt fmt rm d a code) q.2 (if k.signed then sext k.width q.1 else w64 q.1) (k.width < f.width) x ∧
     WritesX (.fmv fmt d a) s th 8 d (w64 ((th.rx a).toNat % 2 ^ f.width)))

/-! ## Branches, calls and control registers -/

/-- BR (07 R126): displacements count 4-byte words from the branch; a register target that is not aligned raises ALIGN with the target in
`TVAL` (R127).
`jmp .` on a feed core (02 R30): with its journal empty and no refusal to deliver it stops the feed core at the instruction that follows; the group stays, as
one of its threads runs. -/
def Obligations.BranchesAndStops : Prop :=
  (∀ (s : State) (th : Thread) (cond : Cond) (a b : Reg) (imm : ImmA) (off : BitVec 16), Ready s th [a, b] [] → Ready s th [a] [] →
     Ready s th [] [] →
     let (disp, len) : W64 × Nat := match imm with
       | .i16 v => (v.signExtend 64, 8)
       | .i32 v => (v.signExtend 64, 12)
     let x := th.rx a
     let y := th.rx b
     let taken : Bool := match cond with
       | .eq => x = y
       | .ne => x ≠ y
       | .lt => x.slt y
       | .ge => y.sle x
       | .ltu => x.ult y
       | .geu => y.ule x
     let t := x + off.signExtend 64
     Retires (.br cond a b imm) s (if taken then th.jumpTo (th.pc + 4 * disp) else th.advance len) ∧
     (s.cur.issuer.isFeed = false ∨ disp ≠ 0 → Retires (.jmp imm) s (th.jumpTo (th.pc + 4 * disp))) ∧
     (t.toNat % 4 = 0 → Retires (.jmpr a off) s (th.jumpTo t)) ∧ (t.toNat % 4 ≠ 0 → Traps (.jmpr a off) s .align t)) ∧
  (∀ (s : State) (th : Thread) (g : Group) (imm : ImmA) (k : Nat) (run : Thread), s.me = some th → s.group s.cur.core = some g →
     s.cur.issuer = .loader ∨ s.cur.issuer = .storer → immA imm = 0 → NoneOutstanding s → th.pend = [] → g.threads[k]? = some run →
     run.status = .running →
     ∃ t h, exec (.jmp imm) s = .next t ∧ t.group s.cur.core = some h ∧ MemSame s t ∧ SpSame s t ∧
       (s.cur.issuer = .loader → h.loader.run = false ∧ h.loader.th.pc = th.pc + w64 (sizeA imm) ∧ h.storer = g.storer) ∧
       (s.cur.issuer = .storer → h.storer.run = false ∧ h.storer.th.pc = th.pc + w64 (sizeA imm) ∧ h.loader = g.loader) ∧
       h.threads = g.threads)

/-- `call`, `callr` and `ret` (07 R112, R126): the target is computed and checked first, the marking comes next, and `x1` is written
last; a target that is not aligned raises ALIGN and marks nothing (R127). -/
def Obligations.CallsAndReturns : Prop :=
  ∀ (s : State) (th : Thread) (a : Reg) (imm : ImmA) (off : BitVec 16), Ready s th [] [] → Ready s th [a] [] → Ready s th [1] [] →
    let t := th.rx a + off.signExtend 64
    Retires (.call imm) s ((th.markCall.wx 1 (th.pc + w64 (sizeA imm))).jumpTo (th.pc + 4 * immA imm)) ∧
    (t.toNat % 4 = 0 → Retires (.callr a off) s ((th.markCall.wx 1 (th.pc + 8)).jumpTo t)) ∧
    (t.toNat % 4 ≠ 0 → Traps (.callr a off) s .align t) ∧
    ((th.rx 1).toNat % 4 = 0 → Retires .ret s (th.markRet.jumpTo (th.rx 1))) ∧
    ((th.rx 1).toNat % 4 ≠ 0 → Traps .ret s .align (th.rx 1)) ∧
    ∀ r : Reg, r ≠ 0 →
      th.markCall.liveX r = (th.liveX r && !th.cvmask.getLsbD r.toNat) ∧
      th.markRet.liveX r = (th.liveX r && !th.cvmask.getLsbD (32 + r.toNat)) ∧
      (th.markCall.rv r).live = ((th.rv r).live && !th.vcvmask.getLsbD r.toNat) ∧
      (th.markRet.rv r).live = ((th.rv r).live && !th.vcvmask.getLsbD (32 + r.toNat))

/-- CTL (07 R128): a register that exists and may be accessed is read; a write takes the value of Table 9 through the register's own map, reserved
fields staying zero (R5), and the instruction retires. One that does not exist, or a read-only one written, raises ILL_FIELD, and a kernel
register in user mode PRIV (03 R47); a value that the map forbids raises ILL_FIELD (R100, R213, R276, R207).
By register: flag bits that a write of `FLAGS` sets go toward `FLAGUNION`, those that it finds at 1 not again (notes/assumptions/32.md); a stride, a
tile's shape and the handler's address are replaced; a lower `SPLIT` keeps the words below it and disables the rings above it (R208), a higher one, with
no owned word in the units, gives zeros (R207); `VPOOL` drops the pooled lines of the members it takes out (R212); `TWIN` and `INVWIN` keep the old values for what issued
before (R130), and `INVWIN` drops every V word (R176); a 1 for `CPCTL.VALID` empties the microprogram (R287), a 1 for a bit of `HDRLAY` removes that
layout (R344); `FEEDCTL` starts, stops or moves each feed core (02 R30); `TCAUSE` keeps `ASYNC` (R257), and `TVAL` is the register, or the refused entry's
address or data (R258, R264). -/
def Obligations.ControlRegisters : Prop :=
  ∀ (s : State) (th : Thread) (g : Group) (d a : Reg) (num : BitVec 12), s.group s.cur.core = some g → Ready s th [a] [] →
    let n := num.toNat
    let c := s.cur.core
    let open_ := th.kernel = true ∨ ctlKernel n = false
    let allotted := ¬ (0x018 ≤ n ∧ n ≤ 0x01F ∧ g.nt ≤ n - 0x018)
    (ctlExists n = true → allotted → open_ → WritesX (.ctlRd d num) s th 8 d (s.ctlRead c g th n)) ∧
    (ctlExists n = false → Traps (.ctlRd d num) s .illField (lowBits (.ctlRd d num)) ∧
      Traps (.ctlWr a num) s .illField (lowBits (.ctlWr a num))) ∧
    (ctlExists n = true → ctlReadOnly n = true → Traps (.ctlWr a num) s .illField (lowBits (.ctlWr a num))) ∧
    (ctlExists n = true → ctlReadOnly n = false → allotted → ¬ open_ → Traps (.ctlWr a num) s .priv (lowBits (.ctlWr a num))) ∧
    ∀ (i : Instr) (f : W64 → W64) (one : W64),
        (i = .ctlWr a num ∧ (f = fun _ => th.rx a) ∧ one = th.rx a) ∨ (i = .ctlSet a num ∧ (f = fun v => v ||| th.rx a) ∧ one = th.rx a) ∨
        (i = .ctlClr a num ∧ (f = fun v => v &&& ~~~(th.rx a)) ∧ one = 0) →
      let done (u : Thread) : Prop := exec i s = .next ((s.setMe u).retireNext 8)
      let group (h : Group) : Prop := exec i s = .next ((s.setGroup c h).retireNext 8)
      let bad : Prop := Traps i s .illField (lowBits i)
      let also (p : State → Group → Prop) : Prop := ∃ t u h, exec i s = .next t ∧ RetiredAs s t th u 8 ∧ OnlyX th u ∧ u.x = th.x ∧
        t.group c = some h ∧ MemSame s t ∧ p t h
      (n = 0x000 → let v := f th.flags &&& 0x3F3F
        ∃ t u, exec i s = .next t ∧ RetiredAs s t th u 8 ∧ OnlyX { th with flags := v } u ∧ u.x = th.x ∧ MemSame s t ∧ SpSame s t ∧
          (t.cluster (c / 32)) = { s.cluster (c / 32) with
            raised := (s.cluster (c / 32)).raised ||| (v &&& ~~~th.flags).setWidth 6 } ∧ ∀ k, k ≠ c / 32 → t.cluster k = s.cluster k) ∧
      (n = 0x001 → (f th.rmode).toNat % 8 < 6 → done { th with rmode := f th.rmode &&& 7 }) ∧
      (n = 0x001 → 6 ≤ (f th.rmode).toNat % 8 → bad) ∧
      (n = 0x002 → done { th with amax := f th.amax &&& 0xFFFFFFFF }) ∧ (n = 0x003 → done { th with srkey := f th.srkey }) ∧
      (n = 0x004 → done { th with srctr := f th.srctr }) ∧
      (n = 0x005 → done { th with cvmask := f th.cvmask &&& 0xFFFFFFFEFFFFFFFF }) ∧
      (n = 0x006 → done { th with vcvmask := f th.vcvmask }) ∧
      (∀ k, k < 8 → n = 0x008 + k →
        done { th with pstride := vset th.pstride k ((f ((vget 0 th.pstride k).setWidth 64)).setWidth 22) }) ∧
      (∀ t : Reg, t.toNat < 8 → n = 0x018 + t.toNat → allotted → let v := f (g.tile t).shape &&& 0x7F7F0F
        let fmt := fld v 3 0
        let fits := 1 ≤ fld v 14 8 ∧ fld v 14 8 ≤ 64 ∧ 1 ≤ fld v 22 16 ∧ fld v 22 16 ≤ 64 ∧
          (if fmt = 8 ∨ fmt = 9 then 2 else 1) * fld v 22 16 ≤ 64 ∧ (fmt ≤ 1 ∨ 5 ≤ fmt ∧ fmt ≤ 9 ∨ fmt = 12)
        (¬ fits → bad) ∧ (fits → s.tileBusy c t.toNat = false → group (g.setTile t { g.tile t with shape := v }))) ∧
      (n = 0x020 → let m := (f (w64 g.spm)).toNat % 32
        (24 < m → bad) ∧
        (m ≤ 24 → th.prog.stage ≠ 20 → g.splitHeld s.cur.issuer.setNo = false →
          (m < g.spm → also fun t h => h.spm = m ∧ (∀ x, x < m * 65536 → t.spByte c x = s.spByte c x) ∧
            ∀ r, r < 4 → (g.ring r).nslot ≠ 0 → m * 65536 < (g.ring r).base + (g.ring r).nslot * 64 →
              (h.ring r).nslot = 0 ∧ (h.ring r).msgs = [] ∧ ∀ x ∈ (g.ring r).waiting, x.refuse .queue ∈ t.net) ∧
          (g.spm < m → (∀ e ∈ (s.core c).cache, e.2.inUnits g.spm m = true → ∀ j : Fin 8, e.2.words[j].st ≠ .p ∧ e.2.words[j].st ≠ .g) →
            s.writingBack c = [] → also fun t h => h.spm = m ∧ (∀ x, x < g.spm * 65536 → byteAt h.spData x = byteAt g.spData x) ∧
              (∀ x, g.spm * 65536 ≤ x → x < m * 65536 → byteAt h.spData x = 0 ∧ h.tagOf (x / 8) = 0) ∧
              ∀ e ∈ (t.core c).cache, e.2.inUnits g.spm m = false))) ∧
      (n = 0x021 → open_ → let v : BitVec 8 := (f ((look 0 s.vpool (rowOf c)).setWidth 64)).setWidth 8
        also fun t _ => SpSame s t ∧ look 0 t.vpool (rowOf c) = v ∧ ∀ k, ∀ e ∈ (t.core k).pooled, e ∈ (s.core k).pooled ∧
          (rowOf k = rowOf c → v.getLsbD (k % 8) = true) ∧ (rowOf e.2.holder = rowOf c → v.getLsbD (e.2.holder % 8) = true)) ∧
      (∀ k, k < 4 → n = 0x022 + k → let v := f (vget 0 g.twin k) &&& 0x8003FFFF0003FFFF
        let fits := fld v 49 32 ≤ 0x30000 ∧ (v.getLsbD 63 = true → fld v 17 0 < fld v 49 32)
        (¬ fits → bad) ∧ (fits → group { g.replaced s.stepNo with twin := vset g.twin k v })) ∧
      (∀ k, k < 4 → n = 0x026 + k → let v := f (vget 0 g.invwin k) &&& 0x8FFFFFFFFFFF0000
        also fun t h => SpSame s t ∧ h.invwin = vset g.invwin k v ∧ h.past = (g.replaced s.stepNo).past ∧ (t.core c).pooled = [] ∧
          ∀ e ∈ (t.core c).cache, ∀ j : Fin 8, e.2.words[j].st ≠ .v) ∧
      (n = 0x02A → s.cpBusy c = false → if one.getLsbD 4 then group { g with cpValid := false, cpJoin := 0, cpNops := 0, ucode := 0 } else done th) ∧
      (n = 0x02B → group { g with layValid := g.layValid &&& ~~~(one.setWidth 16) }) ∧
      (∀ k, n = 0x02D → s.cur.issuer = .thread k → let v := f g.feedctl
        (∀ x ∈ g.feedStops v, ∀ y, g.agent x = some y → y.pend = [] ∧ s.underway { core := c, issuer := x } y.prog = false) →
        let moves (x y : Feed) (run : Bool) (index : Nat) : Prop := y.th.x = x.th.x ∧
          if x.run then (if run then y = x else y = { x with run := false, th := { x.th with wait := .none, prog := Prog.idle } })
          else y.run = run ∧ y.flt = (x.flt && !run) ∧ y.th.pc = w64 (4 * index)
        also fun t h => SpSame s t ∧ moves g.loader h.loader (v.getLsbD 0) (fld v 27 16) ∧ moves g.storer h.storer (v.getLsbD 1) (fld v 43 32)) ∧
      (n = 0x040 → open_ → group { g with tvec := f g.tvec &&& 0x7FFFFFFFFFFFFC }) ∧
      (n = 0x041 → open_ → done { th with tcause := (f th.tcause &&& 0x73FFF00003CFF) ||| (th.tcause &&& 0x200) }) ∧
      (n = 0x042 → open_ → (th.causeCode ≠ 0x0D → done { th with tval := f th.tval }) ∧
        (th.causeCode = 0x0D → th.vsel ≠ 1 → th.vsel ≠ 2 → done th) ∧
        ∀ e p, th.causeCode = 0x0D → s.refusedEntry c th = some e → e.refusedPiece = some p → th.vsel = 1 ∨ th.vsel = 2 →
          also fun t _ => SpSame s t ∧ ∃ e', (t.core c).jent e.idx = some e' ∧ e'.state = e.state ∧ e'.refusedPiece = some
            (if th.vsel = 1 then { p with addr := f p.addr } else { p with data := f (w64 (p.data.toNat % 256 ^ p.n)) })) ∧
      (n = 0x043 → open_ → done { th with tepc := f th.tepc })

/-- `tid` writes the core id in bits 12 to 2 and the issuing thread set's number in bits 1 and 0 (07 R132). -/
def Obligations.TidIdentifies : Prop :=
  ∀ (s : State) (th : Thread) (d : Reg) (k : Nat), s.me = some th → s.cur.issuer = .thread k → k < 4 → s.cur.core < 2048 →
    ∃ v : W64, WritesX (.tid d) s th 8 d v ∧ v.extractLsb' 0 2 = BitVec.ofNat 2 k ∧ v.extractLsb' 2 11 = BitVec.ofNat 11 s.cur.core ∧
      v.extractLsb' 13 51 = 0

/-- `nop` (07 R133): SYS `OP` 0x00 in three lengths, with `IMM16` and every bit above bit 63 ignored and every other field zero; it has no
effect but the PC's advance. -/
def Obligations.NopAdvances : Prop :=
  (∀ (imm : BitVec 16) (ext : BitVec 64),
    decodeBits false (ext ++ imm ++ (0x25 : BitVec 48)) = .ok (.nop .l64) ∧ decodeBits false (ext ++ imm ++ (0x26 : BitVec 48)) = .ok (.nop .l96) ∧
    decodeBits false (ext ++ imm ++ (0x27 : BitVec 48)) = .ok (.nop .l128)) ∧
  (∀ w : BitVec 128, w.extractLsb' 0 2 ≠ 0 → w.extractLsb' 2 12 = 0x009 → w.extractLsb' 14 34 ≠ 0 →
    decodeBits false w = .error .illField) ∧
  ∀ (s : State) (th : Thread) (len : NopLen), s.me = some th → Retires (.nop len) s (th.advance (match len with
    | .l64 => 8
    | .l96 => 12
    | .l128 => 16))

/-! ## Exceptions -/

/-- A user-class cause that a thread takes with `INH` = 0 and `TVEC.ADDR` ≠ 0 enters the handler in one step (14 R259): the trap-state
registers, the mode and the PC take these values; no scalar or vector register, no liveness and no memory changes. BRK in a launch that
a debugger has claimed goes to the debugger instead (25 R419). -/
def Obligations.HandlerEntry : Prop :=
  ∀ (s : State) (w : Who) (k : Nat) (g : Group) (th : Thread) (c : Cause) (tval : W64) (tepc : Option W64) (async : Bool) (srce fpc : Nat),
    w.issuer = .thread k → s.group w.core = some g → s.agent w = some th → th.inh = false → fld g.tvec 54 2 ≠ 0 →
    c.machine = false → (c = .brk → s.claimed w.core = false) → srce < 4 → fpc < 2 ^ 14 →
    let t := s.takeTrap w { cause := c, tval := tval, tepc := tepc } async srce fpc
    ∃ u, t.agent w = some u ∧ u.tepc = tepc.getD th.pc ∧ u.tval = tval ∧
      u.tcause = w64 (c.code + natOf async * 2 ^ 9 + natOf th.kernel * 2 ^ 10 + 2 ^ 11 + srce * 2 ^ 12 + fpc * 2 ^ 32) ∧ u.kernel = true ∧
      u.pc = w64 (fld g.tvec 54 2 * 4) ∧
      u = { th with tepc := u.tepc, tval := u.tval, tcause := u.tcause, kernel := u.kernel, pc := u.pc, wait := .none, prog := Prog.idle } ∧
      MemSame s t ∧ SpSame s t ∧ ∀ v, v ≠ w → t.agent v = s.agent v

/-- A user-class cause that arises while `INH` = 1 or `TVEC.ADDR` = 0, and every machine-class cause, holds the thread where it stands,
with its trap-state registers unchanged, and the supervisor receives the record (14 R260, R261). -/
def Obligations.Escalation : Prop :=
  ∀ (s : State) (w : Who) (k : Nat) (g : Group) (th : Thread) (c : Cause) (tval : W64) (tepc : Option W64),
    w.issuer = .thread k → s.group w.core = some g → s.agent w = some th →
    th.inh = true ∨ fld g.tvec 54 2 = 0 ∨ c.machine = true → (c = .brk → s.claimed w.core = false) →
    let t := s.takeTrap w { cause := c, tval := tval, tepc := tepc } false 0 0
    t.agent w = some { th with status := .held, wait := .none, prog := Prog.idle } ∧
    t.sup = s.sup ++ [{ core := w.core, t := k, wid := th.wid, code := c.code, tepc := tepc.getD th.pc, tval := tval }] ∧
    MemSame s t ∧ SpSame s t

/-- `trap` raises SYSTRAP with `TEPC` the next address, `brk` raises BRK (14 R268, 25 R419): a thread with `INH` 0 and a handler is at the
handler then, in kernel mode. `eret` returns to `TEPC` in the mode `PM`, with `INH` and `CAUSE` cleared, and raises ALIGN on a misaligned
`TEPC`; `halt` waits as a release and is held with code 0 (the record's `TEPC` and `TVAL` are the model's choice, notes/assumptions/16.md, and
not stated). In user mode `eret`, `halt` and `tlb.inv` raise PRIV.
The `eret` of a STORE_REFUSED trap with `RETRY` = 0 frees the entry (14 R265), and one whose trap came from a feed core restarts that core
at `FPC` (R268, 02 R30).
`icinv` drops the core's fetch blocks that meet the range and empties its threads' loop buffers, and does nothing when `x[B]` is 0; a copy
into an instruction store writes the source's bytes at the offset (25 R420).
`yield` changes no register and orders nothing (07 R131): only the PC advances. -/
def Obligations.SystemClass : Prop :=
  (∀ (s : State) (th : Thread) (g : Group) (k : Nat) (imm : BitVec 16) (scope : Scope) (a b : Reg), s.me = some th →
     s.group s.cur.core = some g →
     exec (.trap imm) s = .next (s.takeTrap s.cur { cause := .sysTrap, tval := imm.setWidth 64, tepc := some (th.pc + 8) } false 0 0) ∧
     Traps (.brk imm) s .brk (imm.setWidth 64) ∧
     (s.cur.issuer = .thread k → th.inh = false → fld g.tvec 54 2 ≠ 0 →
       (∃ t u, exec (.trap imm) s = .next t ∧ t.agent s.cur = some u ∧ u.causeCode = 0x1A ∧ u.tval = imm.setWidth 64 ∧ u.tepc = th.pc + 8 ∧
         u.kernel = true ∧ u.inh = true ∧ u.pc = g.handler) ∧
       (s.claimed s.cur.core = false → ∃ t u, exec (.brk imm) s = .next t ∧ t.agent s.cur = some u ∧ u.causeCode = 0x16 ∧
         u.tval = imm.setWidth 64 ∧ u.tepc = th.pc ∧ u.kernel = true ∧ u.inh = true ∧ u.pc = g.handler)) ∧
     (th.kernel = false → Traps .eret s .priv (lowBits .eret) ∧ Traps .halt s .priv (lowBits .halt) ∧
       Traps (.tlbInv scope a b) s .priv (lowBits (.tlbInv scope a b))) ∧
     (th.kernel = true → th.tepc.toNat % 4 ≠ 0 → Traps .eret s .align th.tepc) ∧
     (th.kernel = true → th.tepc.toNat % 4 = 0 → th.causeCode ≠ 0x0D → th.srce = 0 →
       Retires .eret s { th.jumpTo th.tepc with kernel := th.tcause.getLsbD 10, tcause := th.tcause &&& ~~~(0x8FF : W64) }) ∧
     (th.kernel = true → NoneOutstanding s → ∃ tepc tval, exec .halt s = .next (s.hold s.cur th 0 tepc tval))) ∧
  (∀ (s : State) (th : Thread) (g : Group) (e : JEnt) (r c k : Nat), s.me = some th → s.group s.cur.core = some g → th.kernel = true →
     th.tepc.toNat % 4 = 0 → s.cur.issuer = .thread k →
     (th.causeCode = 0x0D → th.retry = false → e.state = .reported r c → (∀ p ∈ e.parts, p.bad = true) →
       (s.core s.cur.core).jent (fld th.tval 4 0) = some e → (∀ x ∈ (s.core s.cur.core).jrnl, x.idx = fld th.tval 4 0 → x = e) →
       ∃ t u, exec .eret s = .next t ∧ t.agent s.cur = some u ∧ u.pc = th.tepc ∧ u.causeCode = 0 ∧ u.inh = false ∧
         (t.core s.cur.core).jent (fld th.tval 4 0) = none) ∧
     (th.causeCode ≠ 0x0D → th.srce = 1 ∨ th.srce = 2 →
       ∃ t u h, exec .eret s = .next t ∧ t.agent s.cur = some u ∧ u.pc = th.tepc ∧ u.kernel = th.tcause.getLsbD 10 ∧ u.causeCode = 0 ∧
         u.inh = false ∧ u.srce = 0 ∧ u.fpc = 0 ∧ t.group s.cur.core = some h ∧
         (th.srce = 1 → g.loader.run = false → h.loader.run = true ∧ h.loader.flt = false ∧ h.loader.th.pc = w64 (th.fpc / 4 * 4) ∧
           h.storer = g.storer) ∧
         (th.srce = 2 → g.storer.run = false → h.storer.run = true ∧ h.storer.flt = false ∧ h.storer.th.pc = w64 (th.fpc / 4 * 4) ∧
           h.loader = g.loader))) ∧
  (∀ (s : State) (th : Thread) (g : Group) (a b c : Reg) (storer : Bool) (bytes : List Byte), Ready s th [a, b] [] →
     Ready s th [a, b, c] [] → s.group s.cur.core = some g →
     let va := (th.rx a).toNat
     let n := (th.rx b).toNat
     let off := (th.rx c).toNat
     let run : List Run := [{ ea := va, n := n, align := 4, data := 0 }]
     (th.rx b ≠ 0 → exec (.icinv a b) s = .next ((s.dropBlocks s.cur.core va n).retireNext 8)) ∧
     (∀ k ∈ ((s.dropBlocks s.cur.core va n).core s.cur.core).fetch,
       (k.1 % 2 ^ 60) * 32 + 32 ≤ va ∨ va + n ≤ (k.1 % 2 ^ 60) * 32 ∨ n = 0) ∧
     (∀ (k : Nat) (u : Thread), s.agent { core := s.cur.core, issuer := .thread k } = some u →
       (s.dropBlocks s.cur.core va n).agent { core := s.cur.core, issuer := .thread k } = some { u with loopTgt := none }) ∧
     (th.rx b = 0 → Retires (.icinv a b) s (th.advance 8)) ∧
     (va % 4 = 0 → n % 4 = 0 → off % 4 = 0 → n + off ≤ 16384 → n ≠ 0 → regionOf va = .global → checkRuns s s.cur g th .read run = .ok () →
       NoneOutstanding s → s.copyBytes s.cur g th va n = .ok bytes →
       exec (.icinvFeed a b c storer) s = .next ((s.setGroup s.cur.core (if storer
         then { g with storer := { g.storer with istore := putBytes g.storer.istore off bytes } }
         else { g with loader := { g.loader with istore := putBytes g.loader.istore off bytes } })).retireNext 8))) ∧
  (∀ (s : State) (th : Thread), s.me = some th → Retires .yield s (th.advance 8))

/-- A register-reading instruction (`add`, `mul`, `fadd`, `br` and `st` stand for them) of a user thread with `DRE` = 1 raises DEAD_READ for the lowest-numbered dead register among those it
reads, with no effect (07 R113); one whose registers are live, or in kernel mode, does not.
The checks of a near access in their order (10 R185, R186, 11 R217): beyond the allocation XLATE_NONE with the first byte outside,
misaligned ALIGN with the address, and a word whose entry traps TAG, each with no effect. -/
def Obligations.DeadReadAndAccessTraps : Prop :=
  (∀ (s : State) (th : Thread) (k : Nat) (sz : ISz) (fmt : FFmt) (rm : Rm) (cond : Cond) (imm : ImmA) (d a b : Reg),
     s.me = some th → s.cur.issuer = .thread k →
     (∀ r, th.kernel = false → th.cvmask.getLsbD 0 = true → (r = a ∨ r = b) → th.liveX r = false →
       (∀ q, (q = a ∨ q = b) → th.liveX q = false → r.toNat ≤ q.toNat) →
       Traps (.add sz d a b) s .deadRead (w64 r.toNat) ∧ Traps (.mul sz d a b) s .deadRead (w64 r.toNat) ∧
       Traps (.fadd fmt rm d a b) s .deadRead (w64 r.toNat) ∧ Traps (.br cond a b imm) s .deadRead (w64 r.toNat) ∧
       Traps (.st sz .weak .th a b imm) s .deadRead (w64 r.toNat)) ∧
     ((th.kernel = true ∨ (th.liveX a = true ∧ th.liveX b = true)) → Ready s th [a, b] [])) ∧
  (∀ (s : State) (th : Thread) (g : Group) (sz : ISz) (reuse : BitVec 3) (d a b : Reg) (imm : ImmA), Ready s th [a] [] →
     Ready s th [a, b] [] → s.group s.cur.core = some g → th.Unissued → Unwatched s s.cur.core → NoneOutstanding s →
     let n := sz.bitsN / 8
     let ea := (th.rx a + immA imm).toNat
     let tval (k : Kind) : W64 := w64 (ea / 8 * 8 + g.classOf (ea / 8) * 2 ^ 40 + k.code * 2 ^ 42 + g.tagOf (ea / 8) * 2 ^ 45 +
       bitsOf (g.entry k (ea / 8)) 10 7 * 2 ^ 49 + s.cur.core * 2 ^ 53)
     (ea + n ≤ 0x180000 → g.alloc < ea + n → Traps (.ld sz .weak .th reuse d a imm) s .xlateNone (w64 (max ea g.alloc)) ∧
       Traps (.st sz .weak .th a b imm) s .xlateNone (w64 (max ea g.alloc))) ∧
     (ea + n ≤ 0x180000 → ea + n ≤ g.alloc → ea % n ≠ 0 → Traps (.ld sz .weak .th reuse d a imm) s .align (w64 ea) ∧
       Traps (.st sz .weak .th a b imm) s .align (w64 ea)) ∧
     (ea + n ≤ 0x180000 → ea + n ≤ g.alloc → ea % n = 0 → s.cur.issuer.isFeed = false → BanksIdle s s.cur.core →
         (∀ p ∈ g.past, p.upto ≤ th.issued) →
       (g.entry .ld (ea / 8) % 8 = 4 → Traps (.ld sz .weak .th reuse d a imm) s .tag (tval .ld)) ∧
       (g.entry .st (ea / 8) % 8 = 4 → Traps (.st sz .weak .th a b imm) s .tag (tval .st))))

/-! ## Memory -/

/-- `ld` and `ldx` of the agent's own scratchpad (10 R189): the n bits at the address, little-endian, sign-extended to `x[D]`; every other
register, every flag and every byte is as before.
`st` and `stx` to the agent's own scratchpad (10 R191): the low n bits of `x[B]` at the address, little-endian; no register changes,
and no byte outside the n / 8 bytes stored.
The ten atomic functions on the agent's own scratchpad (10 R195, Table 4): the old value, sign-extended, to `x[D]`, and the new one
in its place. -/
def Obligations.NearAccesses : Prop :=
  (∀ (s : State) (th : Thread) (g : Group) (sz : ISz) (o : MemOrd) (sc : Scope) (reuse : BitVec 3) (d a b : Reg) (imm : ImmA),
     let n := sz.bitsN / 8
     let loads (i : Instr) (ea : Nat) : Prop := NearPass s th g .ld ea n n → ∃ t u, exec i s = .next t ∧ NearStep s t th u (sizeA imm) ∧
       (d ≠ 0 → u.rx d = (BitVec.ofNat sz.bitsN (readN g.spData ea n)).signExtend 64) ∧
       (∀ r, r ≠ d → u.rx r = th.rx r ∧ u.liveX r = th.liveX r) ∧ SameV th u ∧ SpSame s t
     (Ready s th [a] [] → loads (.ld sz o sc reuse d a imm) (th.rx a + immA imm).toNat) ∧
     (Ready s th [a, b] [] → loads (.ldx sz o sc reuse d a b imm) (th.rx a + th.rx b * w64 n + immA imm).toNat)) ∧
  (∀ (s : State) (th : Thread) (g : Group) (sz : ISz) (o : MemOrd) (sc : Scope) (a b c : Reg) (imm : ImmA),
     let n := sz.bitsN / 8
     let stores (i : Instr) (ea : Nat) : Prop := NearPass s th g .st ea n n → ∃ t u h, exec i s = .next t ∧ NearStep s t th u (sizeA imm) ∧
       SameX th u ∧ SameV th u ∧ t.group s.cur.core = some h ∧ readN h.spData ea n = (th.rx b).toNat % 2 ^ sz.bitsN ∧ SpSameBut s t s.cur.core ea n
     (Ready s th [a, b] [] → stores (.st sz o sc a b imm) (th.rx a + immA imm).toNat) ∧
     (Ready s th [a, b, c] [] → stores (.stx sz o sc a b c imm) (th.rx a + th.rx c * w64 n + immA imm).toNat)) ∧
  (∀ (s : State) (th : Thread) (g : Group) (sz : ASz) (o : MemOrd) (sc : Scope) (d a b c : Reg), Ready s th [a, b] [] →
     let n := bitsA sz
     let ea := (th.rx a).toNat
     let old : BitVec n := BitVec.ofNat n (readN g.spData ea (n / 8))
     let y : BitVec n := (th.rx b).setWidth n
     NearPass s th g .amo ea (n / 8) (n / 8) →
     let does (i : Instr) (new : BitVec n) : Prop := ∃ t u h, exec i s = .next t ∧ NearStep s t th u 8 ∧
       (d ≠ 0 → u.rx d = old.signExtend 64) ∧ (∀ r, r ≠ d → u.rx r = th.rx r ∧ u.liveX r = th.liveX r) ∧ SameV th u ∧
       t.group s.cur.core = some h ∧ readN h.spData ea (n / 8) = new.toNat ∧ SpSameBut s t s.cur.core ea (n / 8)
     does (.amoAdd sz o sc d a b) (old + y) ∧ does (.amoAnd sz o sc d a b) (old &&& y) ∧ does (.amoOr sz o sc d a b) (old ||| y) ∧
     does (.amoXor sz o sc d a b) (old ^^^ y) ∧ does (.amoMin sz o sc d a b) (if old.sle y then old else y) ∧
     does (.amoMax sz o sc d a b) (if y.sle old then old else y) ∧ does (.amoMinu sz o sc d a b) (if old.ule y then old else y) ∧
     does (.amoMaxu sz o sc d a b) (if y.ule old then old else y) ∧ does (.amoSwap sz o sc d a b) y ∧
     (Ready s th [a, b, c] [] → does (.amoCas sz o sc d a b c) (if old = y then (th.rx c).setWidth n else old)))

/-- MEMC (10 R201 to R204), where nothing is outstanding: a fence retires, and one that acquires above core scope leaves no clean word in
the core's cache portion when no window is enabled; `inval` leaves none in its range; `wb` of a range with no owned word retires where no
write-back is on its way, as it does once every acknowledgement has come; `pf` changes no register, and retires where its line can have a
place; `tlb.inv` retires once every cache has answered. -/
def Obligations.CacheControl : Prop :=
  ∀ (s : State) (th : Thread) (g : Group) (o : MemOrd) (sc : Scope) (a b : Reg) (imm : BitVec 16), s.me = some th →
    s.group s.cur.core = some g →
    let lo := (th.rx a).toNat
    let hi := lo + (th.rx b).toNat
    (NoneOutstanding s → ∃ t u, exec (.fence o sc) s = .next t ∧ RetiredAs s t th u 8 ∧ SameX th u ∧ MemSame s t ∧ SpSame s t ∧
      ((o = .acq ∨ o = .ar ∨ o = .seq) → sc ≠ .th → sc ≠ .core → g.winOn = 0 → (∀ p ∈ g.past, p.upto ≤ th.issued) →
        ∀ e ∈ (t.core s.cur.core).cache, ∀ j : Fin 8, e.2.words[j].st ≠ .v)) ∧
    (Ready s th [a, b] [] → th.rx b ≠ 0 → ∃ t u, exec (.inval a b) s = .next t ∧ RetiredAs s t th u 8 ∧ SameX th u ∧ MemSame s t ∧
      SpSame s t ∧ ∀ e ∈ (t.core s.cur.core).cache, inRange lo hi e.2 = true → ∀ j : Fin 8, e.2.words[j].st ≠ .v) ∧
    (Ready s th [a, b] [] → th.Unissued → (∀ e ∈ (s.core s.cur.core).cache, inRange lo hi e.2 = true →
        ∀ j : Fin 8, e.2.words[j].st ≠ .p ∧ e.2.words[j].st ≠ .g) → s.writingBack s.cur.core = [] →
      ∃ t u, exec (.wb a b) s = .next t ∧ RetiredAs s t th u 8 ∧ SameX th u ∧ MemSame s t ∧ SpSame s t) ∧
    (th.prog.stage = 20 → th.prog.asked = [] → Retires (.wb a b) s (th.advance 8)) ∧
    ((∀ pa, (s.allocate s.cur.core pa (th.rx a + imm.signExtend 64).toNat 0).isSome = true) → ∃ t u, exec (.pf a imm) s = .next t ∧ RetiredAs s t th u 8 ∧ SameX th u ∧ MemSame s t ∧ SpSame s t) ∧
    (th.kernel = true → th.prog.seq ≠ 0 → th.prog.asked = [] → Retires (.tlbInv sc a b) s (th.advance 8))

/-- Tags (11 R229, R230), at an allocated word with no re-evaluation under way: `tag.ld` reads the tag, `tag.ldw` the word and then its
tag, and `tag.st` and `tag.fill` write tags; no data byte changes.
The action tables (11 R226, R231, R232): one shadow entry or the whole shadow table is written, an entry of either is read, and the
exchange makes the shadow table active, where no write of the tables that issued before waits (R233); an index or entry out of range raises
ILL_FIELD. -/
def Obligations.TagsAndActions : Prop :=
  (∀ (s : State) (th : Thread) (g : Group) (d a b c : Reg) (imm : BitVec 16) (tag : BitVec 4), s.group s.cur.core = some g →
     Ready s th [a] [] → Ready s th [a, b] [] → NoneOutstanding s → BanksIdle s s.cur.core → Unwatched s s.cur.core →
     let ea := (th.rx a + imm.signExtend 64).toNat
     let lo := (th.rx a).toNat
     let n := (th.rx b).toNat
     let tags (i : Instr) (set_ : Nat → Option (BitVec 4)) : Prop := ∃ t u h, exec i s = .next t ∧ RetiredAs s t th u 8 ∧ SameX th u ∧
       OnlyX th u ∧ MemSame s t ∧ SpSame s t ∧ t.group s.cur.core = some h ∧
       (∀ w, h.tagOf w = match set_ w with
         | some v => v.toNat
         | none => g.tagOf w)
     (ea < 0x180000 → ea % 8 = 0 → ea < g.alloc →
       WritesX (.tagLd d a imm) s th 8 d (w64 (g.tagOf (ea / 8))) ∧
       Retires (.tagLdw d a c imm) s (((th.wx d (read64 g.spData ea)).wx c (w64 (g.tagOf (ea / 8)))).advance 8) ∧
       tags (.tagSt a b imm) (fun w => if w = ea / 8 then some ((th.rx b).setWidth 4) else none)) ∧
     (ea < 0x180000 → ea % 8 ≠ 0 → Traps (.tagLd d a imm) s .align (w64 ea) ∧ Traps (.tagSt a b imm) s .align (w64 ea)) ∧
     (lo % 8 = 0 → n ≤ 0x30000 → lo + n * 8 ≤ g.alloc →
       tags (.tagFill a b tag) (fun w => if lo / 8 ≤ w ∧ w < lo / 8 + n then some tag else none))) ∧
  (∀ (s : State) (th : Thread) (g : Group) (d a b : Reg), s.group s.cur.core = some g → Ready s th [a] [] → Ready s th [a, b] [] →
     let i := (th.rx a).toNat
     let v := (th.rx b).toNat
     let first := g.tablesHeld s.cur.issuer.setNo th.issued = false
     (first → i < 512 → v < 4096 → exec (.actWr a b) s =
       .next ((s.setGroup s.cur.core { g with shadow := put 0 g.shadow i (BitVec.ofNat 16 v) }).retireNext 8)) ∧
     (512 ≤ i ∨ 4096 ≤ v → Traps (.actWr a b) s .illField (lowBits (.actWr a b))) ∧
     (i < 512 → WritesX (.actRd d a) s th 8 d ((look 0 g.act i).setWidth 64) ∧
       WritesX (.actRdSh d a) s th 8 d ((look 0 g.shadow i).setWidth 64)) ∧
     (first → th.prog.seq ≠ 0 → th.prog.reply = none → ∀ ws : List W64, ws.length = 128 → (∀ j, j < 128 → find th.prog.got j = ws[j]?) →
       (∀ e ∈ imageEntries ws, e < 4096) →
       exec (.actWrImg a) s = .next ((s.setGroup s.cur.core { g with shadow := tableOf 0 (imageEntries ws) }).retireNext 8)) ∧
     (first → ∃ t u h, exec .actSwap s = .next t ∧ RetiredAs s t th u 8 ∧ SameX th u ∧
       t.group s.cur.core = some h ∧ h.act = g.shadow ∧ h.shadow = g.act ∧ MemSame s t ∧ SpSame s t))

/-- SPM (08 R162): `sp.set` gives a stream pointer the sum modulo 2^21, `sp.rd` reads one zero-extended, neither touches a stride, and a
pointer field with bit 3 or 4 set raises ILL_FIELD. -/
def Obligations.StreamPointers : Prop :=
  ∀ (s : State) (th : Thread) (d a : Reg) (imm : ImmA) (k : Nat), k < 8 →
    (d.toNat = k → Ready s th [a] [] → ∃ u, Retires (.spSet d a imm) s u ∧
      u = { th.advance (sizeA imm) with p := vset th.p k ((th.rx a + immA imm).setWidth 21) } ∧ u.pstride = th.pstride) ∧
    (a.toNat = k → Ready s th [] [] → WritesX (.spRd d a) s th 8 d ((vget 0 th.p k).setWidth 64)) ∧
    (8 ≤ d.toNat → decodeFields false { opFields 0x0F 0x00 with d := d, a := a, len := imm.len, imm16 := imm.imm16, ext := imm.ext } =
      .error .illField) ∧
    (8 ≤ a.toNat → decodeFields false { opFields 0x0F 0x01 with d := d, a := a } = .error .illField)

/-! ## Vectors -/

/-- VALU (08 R148, R149), lane by lane on n bits: the result carries the I tag of the width; a saturating lane that is clamped sets SAT;
a live source with another tag raises FORMAT (R143, 06 R95). A bitwise result carries A's tag and sidecar when A and B carry the same tag, RAW and
zero otherwise, and reads T6 elements without bits `[7:6]` (06 R91); that the pair form takes them register by register is the model's choice
(notes/assumptions/32.md). -/
def Obligations.ValuResults : Prop :=
  ∀ (s : State) (th : Thread) (sz : ISz) (pr : Bool) (d a b : Reg), Ready s th [] (regsOf pr a ++ regsOf pr b) →
    Ready s th [] (regsOf pr a) →
    let n := sz.bitsN
    let tag := tagI n
    let to1 (i : Instr) (f : BitVec n → BitVec n) : Prop := Tagged th pr tag a → ∃ u, Retires i s u ∧ OnlyV th u ∧
      VecResult th u n pr d tag fun j => f (vlane th n a j)
    let puts (i : Instr) (f : BitVec n → BitVec n → BitVec n) : Prop := Tagged th pr tag a → Tagged th pr tag b → ∃ u, Retires i s u ∧
      OnlyV th u ∧ VecResult th u n pr d tag fun j => f (vlane th n a j) (vlane th n b j)
    let sat (i : Instr) (f : Int → Int → Int) : Prop := Tagged th pr tag a → Tagged th pr tag b →
      let v (j : Nat) : Int := f (vlane th n a j).toInt (vlane th n b j).toInt
      let lo : Int := -2 ^ (n - 1)
      let hi : Int := 2 ^ (n - 1) - 1
      let fl := flagsOf (laneCount n pr) fun j => if v j < lo ∨ hi < v j then fSAT else 0
      fl &&& th.enabled = 0 → ∃ u, FpRetires i s fl u ∧ OnlyV th u ∧
        VecResult th u n pr d tag fun j => BitVec.ofInt n (max lo (min hi (v j)))
    let mixed (p q : VReg) : BitVec 4 × W64 := if p.tag = q.tag then (p.tag, p.side) else (0, 0)
    let codes (p : VReg) : W256 :=
      if p.tag = 7 then p.data &&& 0x3F3F3F3F3F3F3F3F3F3F3F3F3F3F3F3F3F3F3F3F3F3F3F3F3F3F3F3F3F3F3F3F else p.data
    let bits (i : Instr) (f : W256 → W256 → W256) : Prop := ∃ u, Retires i s u ∧ OnlyV th u ∧ u.pc = th.pc + 8 ∧
      (∀ j, j < (if pr then 2 else 1) → u.rv (d + BitVec.ofNat 5 j) =
        let p := th.rv (a + BitVec.ofNat 5 j)
        let q := th.rv (b + BitVec.ofNat 5 j)
        { data := f (codes p) (codes q), tag := (mixed p q).1, side := (mixed p q).2, live := true }) ∧
      ∀ r, r ∉ regsOf pr d → u.rv r = th.rv r
    puts (.vadd sz pr d a b) (· + ·) ∧ puts (.vsub sz pr d a b) (· - ·) ∧ puts (.vmul sz pr d a b) (· * ·) ∧
    puts (.vmulh sz pr d a b) (fun x y => ((x.signExtend (2 * n) * y.signExtend (2 * n)) >>> n).setWidth n) ∧
    puts (.vmin sz pr d a b) (fun x y => if x.sle y then x else y) ∧ puts (.vmax sz pr d a b) (fun x y => if y.sle x then x else y) ∧
    to1 (.vabs sz pr d a) (fun x => if x.slt 0 then -x else x) ∧ to1 (.vneg sz pr d a) (fun x => -x) ∧
    puts (.vshl sz pr d a b) (fun x y => x <<< (y.toNat % n)) ∧ puts (.vshr sz pr d a b) (fun x y => x >>> (y.toNat % n)) ∧
    puts (.vsra sz pr d a b) (fun x y => x.sshiftRight (y.toNat % n)) ∧
    sat (.vsadd sz pr d a b) (· + ·) ∧ sat (.vssub sz pr d a b) (· - ·) ∧
    bits (.vand sz pr d a b) (· &&& ·) ∧ bits (.vor sz pr d a b) (· ||| ·) ∧ bits (.vxor sz pr d a b) (· ^^^ ·) ∧
    (¬ Tagged th pr tag a ∨ ¬ Tagged th pr tag b → Traps (.vadd sz pr d a b) s .format (lowBits (.vadd sz pr d a b)) ∧
      Traps (.vmul sz pr d a b) s .format (lowBits (.vmul sz pr d a b)))

/-- VFPU and the vector special functions (08 R150, R157): each lane as the scalar operation computes it, lane j drawing by its own number
under RSC; the lanes' conditions together go to `FLAGS` and toward `FLAGUNION`, and an enabled one raises FP with the lowest such lane
in `TVAL` (06 R102 to R104). -/
def Obligations.VfpuResults : Prop :=
  ∀ (s : State) (th : Thread) (fmt : FFmt) (pr : Bool) (rm : Rm) (d a b c : Reg) (mode : BitVec 2),
    Ready s th [] (regsOf pr a) → Ready s th [] (regsOf pr a ++ regsOf pr b) →
    Ready s th [] (regsOf pr a ++ (regsOf pr b ++ regsOf pr c)) → Tagged th pr (tagF fmt) a → Tagged th pr (tagF fmt) b →
    Tagged th pr (tagF fmt) c →
    let puts (i : Instr) (fmt : FFmt) (pr : Bool) (draws : Bool) (tag : BitVec 4)
        (f : Fp → RMode → Machine.Num → Machine.Num → Machine.Num → Nat → Nat → Nat × Flg) : Prop :=
      let fp := fpOf fmt
      let n := fp.width
      let k := laneCount n pr
      let bits (r : Reg) (j : Nat) : Nat := (vlane th n r j).toNat
      let r (j : Nat) : Nat × Flg := f fp (th.mode (if draws then rm else .rne) j) (fp.read (bits a j)) (fp.read (bits b j))
        (fp.read (bits c j)) (bits a j) (bits b j)
      let fl := flagsOf k fun j => (r j).2
      (fl &&& th.enabled = 0 → ∃ u, FpRetires i s fl u ∧ OnlyV (if draws then th.drawn rm k else th) u ∧
        VecResult th u n pr d tag fun j => BitVec.ofNat n (r j).1) ∧
      ∀ j, j < k → (r j).2 &&& th.enabled ≠ 0 → (∀ q, q < j → (r q).2 &&& th.enabled = 0) →
        Traps i s .fp (w64 (fl.toNat + j * 2 ^ 32))
    puts (.vfadd fmt pr rm d a b) fmt pr true (tagF fmt) (fun f m x y _ _ _ => f.add m x y) ∧
    puts (.vfsub fmt pr rm d a b) fmt pr true (tagF fmt) (fun f m x y _ _ _ => f.add m x y.neg) ∧
    puts (.vfmul fmt pr rm d a b) fmt pr true (tagF fmt) (fun f m x y _ _ _ => f.mul m x y) ∧
    puts (.vfma fmt pr rm d a b c) fmt pr true (tagF fmt) (fun f m x y z _ _ => f.fma m x y z) ∧
    puts (.vfnma fmt pr rm d a b c) fmt pr true (tagF fmt) (fun f m x y z _ _ => f.fma m x.neg y z) ∧
    puts (.vfdiv fmt pr rm d a b) fmt pr true (tagF fmt) (fun f m x y _ _ _ => f.div m x y) ∧
    puts (.vfmin fmt pr d a b) fmt pr false (tagF fmt) (fun f _ _ _ _ p q => f.minMax false p q) ∧
    puts (.vfmax fmt pr d a b) fmt pr false (tagF fmt) (fun f _ _ _ _ p q => f.minMax true p q) ∧
    puts (.vfcmp fmt pr d a b mode) fmt pr false (tagI (fpOf fmt).width)
      (fun f _ _ _ _ p q => (if (f.compare mode.toNat p q).1 then 2 ^ f.width - 1 else 0, (f.compare mode.toNat p q).2)) ∧
    (fmt = .f32 → pr = false →
      puts (.vexp2V rm d a) .f32 false true 10 (fun _ m x _ _ _ _ => exp2On s.a1 m x) ∧
      puts (.vrcpV rm d a) .f32 false true 10 (fun f m x _ _ _ _ => f.div m (.fin false 1 0) x) ∧
      puts (.vrsqrtV rm d a) .f32 false true 10 (fun _ m x _ _ _ _ => rsqrtF m x) ∧
      puts (.vlog2V rm d a) .f32 false true 10 (fun _ m x _ _ _ _ => log2F m x))

/-- The scalar special functions (08 R157), and `crand` (R158, R159): the vector form's lanes are the draws of successive counters, whole,
by their low half, or by their high 24 bits as a fraction.
`vloop` (08 R161): a count of at most one becomes zero and falls through, otherwise it is decremented and the loop is taken; the
displacement counts words from the instruction. -/
def Obligations.SpecialsAndVloop : Prop :=
  (∀ (s : State) (th : Thread) (rm : Rm) (d a b : Reg), Ready s th [a] [] → Ready s th [a, b] [] →
     let m := th.mode rm 0
     let x := fp32.read ((th.rx a).toNat % 2 ^ 32)
     let puts (i : Instr) (r : Nat × Flg) : Prop :=
       (r.2 &&& th.enabled = 0 → FpRetires i s r.2 (((th.wx d (w64 r.1)).advance 8).drawn rm 1)) ∧
       (r.2 &&& th.enabled ≠ 0 → Traps i s .fp (w64 r.2.toNat))
     puts (.vexp2S rm d a) (exp2On s.a1 m x) ∧ puts (.vrcpS rm d a) (fp32.div m (.fin false 1 0) x) ∧
     puts (.vrsqrtS rm d a) (rsqrtF m x) ∧ puts (.vlog2S rm d a) (log2F m x) ∧
     WritesX (.crandS d a b) s th 8 d (crand (th.rx a) (th.rx b)) ∧
     (∃ u, Retires (.crandV .d d a b) s u ∧ OnlyV th u ∧ VecResult th u 64 false d 4 fun j => crand (th.rx a) (th.rx b + w64 j)) ∧
     (∃ u, Retires (.crandV .w d a b) s u ∧ OnlyV th u ∧
       VecResult th u 32 false d 3 fun j => (crand (th.rx a) (th.rx b + w64 j)).setWidth 32) ∧
     (∃ u, Retires (.crandV .f32 d a b) s u ∧ OnlyV th u ∧ VecResult th u 32 false d 10 fun j => BitVec.ofNat 32
       (fp32.ofNum .rne (if (crand (th.rx a) (th.rx b + w64 j)).toNat / 2 ^ 40 = 0 then .zero false
         else .fin false ((crand (th.rx a) (th.rx b + w64 j)).toNat / 2 ^ 40) (-24))).1)) ∧
  (∀ (s : State) (th : Thread) (a : Reg) (imm : BitVec 16), Ready s th [a] [] →
     let t := th.pc + 4 * imm.signExtend 64
     ((th.rx a).toNat ≤ 1 → WritesX (.vloop a imm) s th 8 a 0) ∧
     (2 ≤ (th.rx a).toNat → Retires (.vloop a imm) s { (th.wx a (th.rx a - 1)).jumpTo t with loopTgt := some t }))

/-- VPERM (08 R155): the lanes are moved, T6 elements without bits `[7:6]` (06 R91), and the result carries A's sidecar, and A's tag when A and B carry the same tag, RAW otherwise; `vbcast` and
`vins` write the tag that they name, and `vext` extends by the kind of the source's tag.
VRED (08 R156): an integer sum wraps, and the greatest or least lane is one of the lanes and bounds them all, sign-extended; an IEEE
reduction goes level by level through the fixed tree (06 R98), each step rounding and drawing by its number. -/
def Obligations.PermutesAndReductions : Prop :=
  (∀ (s : State) (th : Thread) (sz : ISz) (d a b c : Reg) (hf : Bool) (sh : BitVec 6) (k : BitVec 5) (tag : BitVec 4),
     Ready s th [] [a, b, c] → Ready s th [] [a, b] → Ready s th [] [a] → Ready s th [a] [] →
     let n := sz.bitsN
     let l := 256 / n
     let codes (r : Reg) : W256 := if (th.rv r).tag = 7
       then (th.rv r).data &&& 0x3F3F3F3F3F3F3F3F3F3F3F3F3F3F3F3F3F3F3F3F3F3F3F3F3F3F3F3F3F3F3F3F else (th.rv r).data
     let x (r : Reg) (j : Nat) : BitVec n := (codes r).extractLsb' (n * j) n
     let both (j : Nat) : BitVec n := if j < l then x a j else if j < 2 * l then x b (j - l) else 0
     let puts (i : Instr) (f : Nat → BitVec n) : Prop := ∃ u, Retires i s u ∧ OnlyV th u ∧ u.pc = th.pc + 8 ∧
       (∀ j, j < l → vlane u n d j = f j) ∧ (u.rv d).live = true ∧
       (u.rv d).tag = (if (th.rv a).tag = (th.rv b).tag then (th.rv a).tag else 0) ∧
       (u.rv d).side = (th.rv a).side ∧ ∀ r, r ≠ d → u.rv r = th.rv r
     puts (.vperm sz d a b c) (fun j => both (x c j).toNat) ∧
     puts (.vsel sz d a b c) (fun j => if x c j ≠ 0 then x a j else x b j) ∧
     puts (.vmerge sz d a b hf) (fun j => if j % 2 = 0 then x a (j / 2 + if hf then l / 2 else 0)
       else x b (j / 2 + if hf then l / 2 else 0)) ∧
     (sh.toNat ≤ l → puts (.vslide sz d a b sh) fun j => both (j + sh.toNat)) ∧
     (∃ u, Retires (.vbcast sz d a tag) s u ∧ OnlyV th u ∧ VecResult th u n false d tag fun _ => (th.rx a).setWidth n) ∧
     (∃ u, Retires (.vins sz d a k tag) s u ∧ OnlyV th u ∧
       VecResult th u n false d tag fun j => if j = k.toNat then (th.rx a).setWidth n else vlane th n d j) ∧
     (k.toNat < l → WritesX (.vext sz d a k) s th 8 d
       (if 1 ≤ (th.rv a).tag ∧ (th.rv a).tag ≤ 4 then (x a k.toNat).signExtend 64 else (x a k.toNat).setWidth 64))) ∧
  (∀ (s : State) (th : Thread) (fmt : VFmt) (rm : Rm) (d a : Reg), Ready s th [] [a] → Tagged th false (tagV fmt) a →
     let n := widthV fmt
     let l := 256 / n
     let x (j : Nat) : BitVec n := vlane th n a j
     let ints := tagInt (tagV fmt).toNat = true
     (ints → WritesX (.vredAdd fmt rm d a) s th 8 d (((List.range l).foldl (fun acc j => acc + x j) 0).signExtend 64)) ∧
     (ints → ∃ v, WritesX (.vredMax fmt d a) s th 8 d (v.signExtend 64) ∧ (∃ j, j < l ∧ v = x j) ∧ ∀ j, j < l → (x j).sle v = true) ∧
     (ints → ∃ v, WritesX (.vredMin fmt d a) s th 8 d (v.signExtend 64) ∧ (∃ j, j < l ∧ v = x j) ∧ ∀ j, j < l → v.sle (x j) = true) ∧
     ∀ fp, tagFp (tagV fmt).toNat = some fp →
       let tree (f : Nat → Nat → Nat → Nat × Flg) : Nat × Flg :=
         let r := treeFold 6 f 0 0 ((List.range l).map fun j => (x j).toNat)
         (r.1.headD 0, r.2)
       let add := tree fun i p q => fp.add (th.mode rm i) (fp.read p) (fp.read q)
       let hi := tree fun _ p q => fp.minMax true p q
       let lo := tree fun _ p q => fp.minMax false p q
       (add.2 &&& th.enabled = 0 → FpRetires (.vredAdd fmt rm d a) s add.2 (((th.wx d (w64 add.1)).drawn rm (l - 1)).advance 8)) ∧
       (hi.2 &&& th.enabled = 0 → FpRetires (.vredMax fmt d a) s hi.2 ((th.wx d (w64 hi.1)).advance 8)) ∧
       (lo.2 &&& th.enabled = 0 → FpRetires (.vredMin fmt d a) s lo.2 ((th.wx d (w64 lo.1)).advance 8)))

/-- Vector conversions (08 R151 to R154): the lanes that the offset selects take the converted elements and the others keep their bits;
`vpack` narrows and clamps, and `vunpack` widens half of its source. -/
def Obligations.VcvtResults : Prop :=
  ∀ (s : State) (th : Thread) (fmt : VM) (m : MFmt) (w : VFmt) (rm : Rm) (d a b : Reg) (e0 : BitVec 5) (h : BitVec 4) (he hi z un : Bool),
    Ready s th [] [a] → Ready s th [] [a, b] →
    let src (deadAs : BitVec 4) : Nat := (if (th.rv a).live then (th.rv a).tag else deadAs).toNat
    let elem (src j : Nat) : Machine.Num := elemNum src ((vlane th (tagBits src) a j).toNat) (sideByte (th.rv a).side (j / 4))
    let changed (u : Thread) : Prop := OnlyV { th with amax := u.amax, srctr := u.srctr } u ∧ u.pc = th.pc + 8 ∧
      ∀ r, r ≠ d → u.rv r = th.rv r
    (∀ from_ dest n, tagBits (src (tagVM fmt)) ≠ 0 →
      laneSpan (256 / tagBits (src (tagVM fmt))) (256 / tagBits (tagVM fmt).toNat) e0.toNat = some (from_, dest, n) →
      let dst := (tagVM fmt).toNat
      let r (j : Nat) : Nat × Flg := convert (src (tagVM fmt)) dst (th.mode rm j) (elem (src (tagVM fmt)) (from_ + (j - dest)))
      let fl := flagsOf n fun j => (r (dest + j)).2
      fl &&& th.enabled = 0 → ∃ u, FpRetires (.vcvt fmt rm d a e0) s fl u ∧ changed u ∧ (u.rv d).tag = tagVM fmt ∧
        ∀ j, j < 256 / tagBits dst → vlane u (tagBits dst) d j =
          if dest ≤ j ∧ j < dest + n then BitVec.ofNat (tagBits dst) (r j).1 else vlane th (tagBits dst) d j) ∧
    (tagBits (src (tagVM fmt)) = 0 → Traps (.vcvt fmt rm d a e0) s .format (lowBits (.vcvt fmt rm d a e0))) ∧
    (∀ from_ dest n, m.isBlock = true → (src 10 = 8 ∨ src 10 = 9 ∨ src 10 = 10) →
      laneSpan (256 / tagBits (src 10)) 32 e0.toNat = some (from_, dest, n) →
      let dst := (tagM m).toNat
      let bs := blocksOf dst (if he then h.toNat else headroom dst) (th.mode rm) (n / 4) dest ((th.rv a).nums (src 10))
      let es := bs.flatMap (·.2)
      let fl := unionOf (es.map (·.2))
      fl &&& th.enabled = 0 → ∃ u, FpRetires (.vcvtBlk m rm d a e0 h he) s fl u ∧ changed u ∧ (u.rv d).tag = tagM m ∧
        (∀ j, j < 32 → vlane u 8 d j = if dest ≤ j ∧ j < dest + n then BitVec.ofNat 8 ((es[j - dest]?).getD (0, 0)).1 else vlane th 8 d j) ∧
        ∀ k, k < 8 → sideByte (u.rv d).side k =
          if dest / 4 ≤ k ∧ k < (dest + n) / 4 then ((bs[k - dest / 4]?).getD (0, [])).1 % 256 else sideByte (th.rv d).side k) ∧
    (w = .i8 ∨ w = .i16 ∨ w = .i32 → Tagged th false (tagI (2 * widthV w)) a → Tagged th false (tagI (2 * widthV w)) b →
      let n := widthV w
      let l := 256 / (2 * n)
      let v (j : Nat) : Int := (vlane th (2 * n) (if j < l then a else b) (j % l)).toInt
      let lo : Int := if un then 0 else -2 ^ (n - 1)
      let top : Int := if un then 2 ^ n - 1 else 2 ^ (n - 1) - 1
      let fl := flagsOf (2 * l) fun j => if v j < lo ∨ top < v j then fSAT else 0
      fl &&& th.enabled = 0 → ∃ u, FpRetires (.vpack w d a b un) s fl u ∧ changed u ∧ (u.rv d).tag = tagI n ∧
        ∀ j, j < 2 * l → vlane u n d j = BitVec.ofInt n (max lo (min top (v j)))) ∧
    (w = .i16 ∨ w = .i32 ∨ w = .i64 → Tagged th false (tagI (widthV w / 2)) a →
      let n := widthV w
      ∃ u, Retires (.vunpack w d a hi z) s u ∧ OnlyV th u ∧ VecResult th u n false d (tagI n) fun j =>
        let x := vlane th (n / 2) a (j + if hi then 256 / n else 0)
        if z then x.setWidth n else x.signExtend n)

/-- `vld` and `vst` of the agent's own scratchpad (10 R197, R198): 32 bytes, or 24 packed ones for T6B, and eight scale bytes for a
block-scaled format; a post-incremented pointer advances by its stride; a store source with another tag raises FORMAT. -/
def Obligations.VectorAccesses : Prop :=
  ∀ (s : State) (th : Thread) (g : Group) (fmt : VM) (o : MemOrd) (sc : Scope) (reuse : BitVec 3) (d b c : Reg) (base : VBase),
    let tag := tagVM fmt
    let ea := th.vea base
    let se := (th.rx c).toNat
    let n := if tag = 7 then 24 else 32
    let al := tagBits tag.toNat / 8
    let stepped (u : Thread) : Prop := ∀ p : Fin 8, u.p[p] = match base with
      | .ptr q true => if q.toNat = p then th.p[p] + (th.pstride[p]).setWidth 21 else th.p[p]
      | _ => th.p[p]
    (Ready s th (vregs tag base c) [] → NearPass s th g .ld ea n al → (blockTag tag = true → NearPass s th g .ld se 8 1) →
      ∃ t u, exec (.vld fmt o sc reuse d base c) s = .next t ∧ NearStep s t th u (vlen base) ∧ SameX th u ∧ SpSame s t ∧ stepped u ∧
        u.rv d = { data := fromMemory tag (readN g.spData ea n), tag := tag,
                   side := if blockTag tag then w64 (readN g.spData se 8) else 0, live := true } ∧
        ∀ r, r ≠ d → u.rv r = th.rv r) ∧
    (Ready s th (vregs tag base c) [b] → ((th.rv b).live = true → (th.rv b).tag = tag ∨ ((th.rv b).tag = 0 ∧ blockTag tag = false)) →
      NearPass s th g .st ea n al → (blockTag tag = true → NearPass s th g .st se 8 1 ∧ (se + 8 ≤ ea ∨ ea + n ≤ se)) →
      ∃ t u h, exec (.vst fmt o sc b base c) s = .next t ∧ NearStep s t th u (vlen base) ∧ SameX th u ∧ stepped u ∧
        (∀ r, u.rv r = th.rv r) ∧ t.group s.cur.core = some h ∧ readN h.spData ea n = toMemory tag (th.rv b).data ∧
        (blockTag tag = true → readN h.spData se 8 = (th.rv b).side.toNat) ∧
        ∀ k a, (k ≠ s.cur.core ∨ ((a < ea ∨ ea + n ≤ a) ∧ (blockTag tag = false ∨ a < se ∨ se + 8 ≤ a))) → t.spByte k a = s.spByte k a) ∧
    (Ready s th (vregs tag base c) [b] → (th.rv b).live = true → (th.rv b).tag ≠ tag → (th.rv b).tag ≠ 0 ∨ blockTag tag = true →
      Traps (.vst fmt o sc b base c) s .format (lowBits (.vst fmt o sc b base c)))

/-- `vldg` and `vsts` on the agent's own scratchpad (10 R199): lane j at the base plus its sign-extended index times the width; scattered
lanes are written in ascending order, so that of two to one address the later stays. -/
def Obligations.GathersAndScatters : Prop :=
  ∀ (s : State) (th : Thread) (g : Group) (fmt : VM) (o : MemOrd) (sc : Scope) (reuse : BitVec 3) (d a b c : Reg) (long : Bool),
    fmt.gatherable = true →
    let tag := tagVM fmt
    let n := tagBits tag.toNat
    let l := 256 / n
    let ea (r : Reg) (j : Nat) : Nat := (th.rx a + (vlane th n r j).signExtend 64 * w64 (n / 8)).toNat
    let len := if long then 12 else 8
    (Ready s th [a] [b] → Tagged th false (tagI n) b → (∀ j, j < l → NearPass s th g .ld (ea b j) (n / 8) (n / 8)) →
      ∃ t u, exec (.vldg fmt o sc reuse d a b long) s = .next t ∧ NearStep s t th u len ∧ SameX th u ∧ SpSame s t ∧ u.p = th.p ∧
        (u.rv d).tag = tag ∧ (u.rv d).side = 0 ∧ (u.rv d).live = true ∧
        (∀ j, j < l → vlane u n d j = BitVec.ofNat n (readN g.spData (ea b j) (n / 8))) ∧ ∀ r, r ≠ d → u.rv r = th.rv r) ∧
    (Ready s th [a] [b, c] → Tagged th false (tagI n) c → ((th.rv b).live = true → (th.rv b).tag = tag ∨ (th.rv b).tag = 0) →
      (∀ j, j < l → NearPass s th g .st (ea c j) (n / 8) (n / 8)) →
      ∃ t u h, exec (.vsts fmt o sc a b c long) s = .next t ∧ NearStep s t th u len ∧ SameX th u ∧ SameV th u ∧
        t.group s.cur.core = some h ∧
        (∀ j, j < l → (∀ q, j < q → q < l → ea c q ≠ ea c j) → readN h.spData (ea c j) (n / 8) = (vlane th n b j).toNat) ∧
        ∀ k x, (k ≠ s.cur.core ∨ ∀ j, j < l → x < ea c j ∨ ea c j + n / 8 ≤ x) → t.spByte k x = s.spByte k x)

/-! ## Tiles and the matrix -/

/-- `tld` and `tst` of the agent's own scratchpad (16 R291): row r lies at the base plus r strides, T6B codes packed, and the scale bytes
of a block-scaled format in an array of their own; the tile takes the format of the instruction and keeps its shape. Rows are given
disjoint. -/
def Obligations.TileAccesses : Prop :=
  ∀ (s : State) (th : Thread) (g : Group) (fmt : MFmt) (reuse : BitVec 3) (d a b c : Reg) (imm : ImmA), NearReady s th g →
    Ready s th (tileRegs (tagM fmt).toNat a b c) [] → d.toNat < g.nt → d.toNat < 8 → s.tileBusy s.cur.core d.toNat = false →
    let tag := (tagM fmt).toNat
    let t := g.tile d
    let w := tileW tag
    let n := if tag = 7 then 3 * ((t.cols + 3) / 4) else t.cols * w
    let nb := (t.cols + 3) / 4
    let ea (r : Nat) : Nat := (th.rx a + immA imm + w64 r * th.rx b).toNat
    let se (r : Nat) : Nat := (th.rx c + w64 r * w64 nb).toNat
    1 ≤ t.cols → t.cols * w ≤ 64 → t.rows ≤ 64 →
    ((∀ r, r < t.rows → NearBytes s g .ld (ea r) n w ∧ (tagBlock tag = true → NearBytes s g .ld (se r) nb 1)) →
      ∃ s' u h, exec (.tld fmt reuse d a b c imm) s = .next s' ∧ RetiredAs s s' th u (sizeA imm) ∧ OnlyX th u ∧ SameX th u ∧ SameV th u ∧
        MemSame s s' ∧ SpSame s s' ∧ s'.group s.cur.core = some h ∧ (∀ q : Reg, q.toNat ≠ d.toNat → h.tile q = g.tile q) ∧
        (h.tile d).fmt = tag ∧ (h.tile d).rows = t.rows ∧ (h.tile d).cols = t.cols ∧
        ∀ r k, r < t.rows → k < t.cols →
          (h.tile d).code r k = (if tag = 7 then readN g.spData (ea r) n / 2 ^ (6 * k) % 64 else readN g.spData (ea r + k * w) w) ∧
          (tagBlock tag = true → (h.tile d).scale r k = (byteAt g.spData (se r + k / 4)).toNat)) ∧
    (let runs := (List.range t.rows).flatMap fun r => rowRuns th tag t.cols a b c imm (t.rowData tag r) (t.rowSide r) r
     t.fmt = tag ∨ (t.fmt = 0 ∧ tagBlock tag = false) → (∀ q ∈ runs, NearBytes s g .st q.ea q.n q.align) →
      runs.Pairwise (fun p q => p.ea + p.n ≤ q.ea ∨ q.ea + q.n ≤ p.ea) →
      ∃ s' u h, exec (.tst fmt d a b c imm) s = .next s' ∧ RetiredAs s s' th u (sizeA imm) ∧ OnlyX th u ∧ SameX th u ∧ SameV th u ∧ MemSame s s' ∧
        s'.group s.cur.core = some h ∧ h.tiles = g.tiles ∧ (∀ q ∈ runs, readN h.spData q.ea q.n = q.data % 256 ^ q.n) ∧
        ∀ k x, (k ≠ s.cur.core ∨ ∀ q ∈ runs, x < q.ea ∨ q.ea + q.n ≤ x) → s'.spByte k x = s.spByte k x)

/-- `tzero`, `tmov` and `tcvt` (16 R292): a tile is zeroed under a format, copied with its shape and, if block-scaled, its scales, or
converted element by element, blocks choosing their scales; T6 elements are copied without bits `[7:6]` (06 R91); a tile register beyond the group's allotment raises ILL_FIELD (R274), and a source of another format FORMAT. -/
def Obligations.TileResults : Prop :=
  ∀ (s : State) (th : Thread) (g : Group) (fmt : MFmt) (rm : Rm) (d a : Reg) (h : BitVec 4) (he : Bool), s.me = some th →
    s.group s.cur.core = some g →
    let dst := (tagM fmt).toNat
    let t := g.tile a
    let old := g.tile d
    let shape (rows cols : Nat) : W64 := w64 (dst + rows * 2 ^ 8 + cols * 2 ^ 16)
    (d.toNat < g.nt → s.tileBusy s.cur.core d.toNat = false → old.cols * tileW dst ≤ 64 →
      exec (.tzero fmt d) s = .next (s.retireTile d { data := [], side := [], shape := shape old.rows old.cols } 8)) ∧
    (d.toNat < g.nt → a.toNat < g.nt → s.tileBusy s.cur.core d.toNat = false → t.fmt = dst → t.cols * tileW dst ≤ 64 →
      ∃ new : Tile, exec (.tmov fmt d a) s = .next (s.retireTile d new 8) ∧ new.shape = t.shape ∧
        new.side = (if tagBlock dst then t.side else []) ∧
        ∀ r k, r < t.rows → k < t.cols → new.code r k = if dst = 7 then t.code r k % 64 else t.code r k) ∧
    (d.toNat < g.nt → a.toNat < g.nt → t.fmt ≠ dst → Traps (.tmov fmt d a) s .format (lowBits (.tmov fmt d a))) ∧
    (g.nt ≤ d.toNat → Traps (.tzero fmt d) s .illField (lowBits (.tzero fmt d)) ∧
      Traps (.tmov fmt d a) s .illField (lowBits (.tmov fmt d a)) ∧
      Traps (.tcvt fmt rm d a h he) s .illField (lowBits (.tcvt fmt rm d a h he))) ∧
    (d.toNat < g.nt → a.toNat < g.nt → s.tileBusy s.cur.core d.toNat = false → t.fmt ≠ 0 → 1 ≤ t.cols → t.cols * tileW dst ≤ 64 →
      t.rows ≤ 64 →
      let row (r : Nat) := convertRow t.fmt dst (if he then h.toNat else headroom dst) (th.mode rm) (r * t.cols) (t.rowNums r)
      let fl := unionOf ((List.range t.rows).flatMap fun r => (row r).1.map (·.2))
      fl &&& th.enabled = 0 → ∃ new : Tile, new.shape = shape t.rows t.cols ∧
        (∀ r k, r < t.rows → k < t.cols →
          readN new.data (64 * r + k * tileW dst) (tileW dst) = (((row r).1[k]?).getD (0, 0)).1 % 256 ^ tileW dst ∧
          (tagBlock dst = true → (byteAt new.side (16 * r + k / 4)).toNat = ((row r).2[k / 4]?).getD 0 % 256)) ∧
        (tagBlock dst = false → ∀ r k, r < t.rows → k < t.cols →
          (row r).1[k]? = some (convert t.fmt dst (th.mode rm (r * t.cols + k)) (t.num r k))) ∧
        ∃ u : Thread, exec (.tcvt fmt rm d a h he) s =
            .next (((s.setGroup s.cur.core (g.setTile d new)).retire (u.raiseFlags fl)).unite s.cur.core fl) ∧
          u = { th with amax := u.amax, srctr := u.srctr, pc := th.pc + 8, wait := .none, prog := Prog.idle,
                        retired := th.retired + 1, stepsLeft := u.stepsLeft })

/-- Accumulators and the microprogram buffer (16 R286, R288), with no running operation on them: `acc.rd` reads a row of 16 FP32 elements
into two vector registers, `acc.wr` writes one, `acc.zero` zeroes all, and `cp.ld` fills the buffer. -/
def Obligations.Accumulators : Prop :=
  ∀ (s : State) (th : Thread) (g : Group) (d a : Reg) (row : BitVec 6) (nops join : BitVec 2) (prog : BitVec 64), s.me = some th →
    s.group s.cur.core = some g →
    let put (i : Instr) (len : Nat) (h : Group) : Prop := exec i s = .next ((s.setGroup s.cur.core h).retireNext len)
    (a.toNat < g.na → s.accBusy s.cur.core a.toNat = false → ∃ u, Retires (.accRd d a row) s u ∧ OnlyV th u ∧
      VecResult th u 32 true d 10 fun j => look 0 (g.acc a.toNat) (row.toNat * 16 + j)) ∧
    (d.toNat < g.na → d.toNat < 4 → s.accBusy s.cur.core d.toNat = false → Ready s th [] [a, a + 1] → Tagged th true 10 a →
      ∃ m, put (.accWr d a row) 8 (g.setAcc d.toNat m) ∧ (∀ j, j < 16 → look 0 m (row.toNat * 16 + j) = vlane th 32 a j) ∧
        ∀ k, k < row.toNat * 16 ∨ row.toNat * 16 + 16 ≤ k → look 0 m k = look 0 (g.acc d.toNat) k) ∧
    (d.toNat < g.na → s.accBusy s.cur.core d.toNat = false → put (.accZero d) 8 (g.setAcc d.toNat [])) ∧
    (s.cpBusy s.cur.core = false →
      put (.cpLd nops join prog) 16 { g with cpValid := true, cpJoin := join, cpNops := nops, ucode := prog })

/-- A matrix operation of a one-group gang that no suspension stops (16 R279 to R284, R287, 06 R97), in three steps: the instruction issues to the latch, the
latch starts it, and it retires with every element joined to the accumulator's by the fixed chains, or by the microprogram.
`gang` on a one-group gang (16 R289): at the rendezvous it writes the gang's size, the group's index and the core of group 0. A check
of R281 that fails raises FORMAT before the instruction issues. -/
def Obligations.MatrixAndGang : Prop :=
  (∀ (s : State) (th : Thread) (g : Group) (k : Nat) (gang : Gang) (fmt : MFmt) (d a b : Reg) (kk : BitVec 7) (cp : Bool),
     s.cur.issuer = .thread k → s.me = some th → s.group s.cur.core = some g → find s.gangs g.gang = some gang →
     gang.cores = [s.cur.core] → gang.latch = [] → gang.running = [] → gang.susp = none → g.gidx = 0 → th.prog.seq = 0 →
     d.toNat < g.na → d.toNat < 4 → a.toNat < g.nt → b.toNat < g.nt →
     let ta := g.tile a
     let tb := g.tile b
     let tag := (tagM fmt).toNat
     let i : Instr := if cp then .mmaCp fmt d a b kk else .mma fmt d a b kk
     ta.fmt = tag → ta.cols = kk.toNat → tb.fmt = tag → tb.rows = kk.toNat → tb.cols ≤ 16 → (cp = true → g.cpValid = true) →
     let ps (r c : Nat) : List (Machine.Num × Machine.Num) := (List.range kk.toNat).map fun j => (ta.num r j, tb.num j c)
     let elem (r c : Nat) : Nat × Flg := if cp
       then cpElem g.cpJoin.toNat (g.cpNops.toNat + 1) g.ucode.toNat (accElem (g.acc d.toNat) r c) (ps r c)
       else mmaElem (accElem (g.acc d.toNat) r c) (ps r c)
     ∃ s1 s2 s3 u h, exec i s = .next s1 ∧ exec .gangOpStart (s1.select g.gang 0) = .next s2 ∧
       exec .matrixRetire (s2.select g.gang 0) = .next s3 ∧ s3.agent s.cur = some u ∧ s3.group s.cur.core = some h ∧
       u.pc = th.pc + 8 ∧ u.retired = th.retired + 1 ∧ u.prog = Prog.idle ∧ SameX th u ∧ SameV th u ∧ MemSame s s3 ∧ SpSame s s3 ∧
       (∀ r c, r < ta.rows → c < tb.cols → accElem (h.acc d.toNat) r c = (elem r c).1 % 2 ^ 32) ∧
       (∀ r c, c < 16 → ta.rows ≤ r ∨ tb.cols ≤ c → accElem (h.acc d.toNat) r c = accElem (g.acc d.toNat) r c) ∧
       u.flags = th.flags ||| (unionOf ((List.range ta.rows).flatMap fun r => (List.range tb.cols).map fun c => (elem r c).2)).setWidth 64) ∧
  (∀ (s : State) (th : Thread) (g : Group) (k : Nat) (gang : Gang) (fmt : MFmt) (d a b : Reg) (kk : BitVec 7),
     s.cur.issuer = .thread k → s.me = some th → s.group s.cur.core = some g → find s.gangs g.gang = some gang → th.prog.seq = 0 →
     (gang.cores = [s.cur.core] → gang.latch = [] → gang.running = [] → gang.susp = none → ∃ s1 s2 u, exec (.gang d) s = .next s1 ∧
       exec .gangOpStart (s1.select g.gang 0) = .next s2 ∧ s2.agent s.cur = some u ∧ u.pc = th.pc + 8 ∧ u.retired = th.retired + 1 ∧
       (d ≠ 0 → u.rx d = w64 (1 + g.gidx * 16 + s.cur.core * 256)) ∧ (∀ r, r ≠ d → u.rx r = th.rx r) ∧ SameV th u ∧ MemSame s s2) ∧
     (d.toNat < g.na → a.toNat < g.nt → b.toNat < g.nt → (g.tile b).rows ≠ kk.toNat →
       Traps (.mma fmt d a b kk) s .format (lowBits (.mma fmt d a b kk)) ∧
       Traps (.mmaCp fmt d a b kk) s .format (lowBits (.mmaCp fmt d a b kk))))

/-! ## Queues, messages, events and barriers -/

/-- QUE and `send` to a queue register (18 R346 to R348, Table 8a): threads read q0 to q3 and write q4 to q7, the loader writes q0 to q3
and the storer reads q4 to q7; another use raises QUEUE with code 1. An entry that is read may leave, and one that is sent joins the tail
of a register that holds fewer than 8. An agent waits at an empty or a full register.
HDR (18 R344, R345): a layout is installed under its number; `hdr.pack` gathers the low bits of consecutive registers into the
fields, the bits above them zero, and `hdr.unpack` writes each field to a register of its own, zero- or sign-extended. -/
def Obligations.QueuesAndHeaders : Prop :=
  (∀ (s : State) (th : Thread) (g : Group) (d a b : Reg), a.toNat < 8 → d.toNat < 8 → s.me = some th → s.group s.cur.core = some g →
     let reads (q : Reg) : Prop := match s.cur.issuer with
       | .thread _ => q.toNat < 4
       | .loader | .departed => False
       | .storer => 4 ≤ q.toNat
     let writes (q : Reg) : Prop := match s.cur.issuer with
       | .thread _ => 4 ≤ q.toNat
       | .loader => q.toNat < 4
       | .storer | .departed => False
     let waits (i : Instr) : Prop := ∃ t u, exec i s = .next t ∧ t.agent s.cur = some u ∧
       u = { th with wait := .sync, prog := u.prog, issued := u.issued, ctrs := u.ctrs } ∧ MemSame s t ∧ SpSame s t
     (reads a ∨ writes a → WritesX (.qCnt d a) s th 8 d (w64 (g.queue a.toNat).length)) ∧
     (reads a → g.queue a.toNat = [] → waits (.qPeek d a) ∧ waits (.qPeekPop d a)) ∧
     (∀ e rest, reads a → g.queue a.toNat = e :: rest → WritesX (.qPeek d a) s th 8 d e ∧
       exec (.qPeekPop d a) s = .next ((s.setGroup s.cur.core (g.setQueue a.toNat rest)).retire ((th.wx d e).advance 8))) ∧
     (writes a → exec (.qFlush a) s = .next ((s.setGroup s.cur.core (g.setQueue a.toNat [])).retire (th.advance 8))) ∧
     (writes d → Ready s th [b] [] → (g.queue d.toNat).length < 8 → exec (.sendQueue d b) s =
       .next ((s.setGroup s.cur.core (g.setQueue d.toNat (g.queue d.toNat ++ [th.rx b]))).retire (th.advance 8))) ∧
     (writes d → Ready s th [b] [] → 8 ≤ (g.queue d.toNat).length → waits (.sendQueue d b)) ∧
     (¬ reads a → Traps (.qPeek d a) s .queue 1 ∧ Traps (.qPeekPop d a) s .queue 1) ∧ (¬ writes a → Traps (.qFlush a) s .queue 1) ∧
     (¬ writes d → Ready s th [b] [] → Traps (.sendQueue d b) s .queue 1)) ∧
  (∀ (s : State) (th : Thread) (g : Group) (d a : Reg) (n : BitVec 4) (sgn : Bool), s.me = some th → s.group s.cur.core = some g →
     let v := th.rx a
     let width (j : Nat) : Nat := (v.extractLsb' (7 * j) 7).toNat
     let ps := layPlaces 0 (layFields (vget 0 g.layouts n.toNat))
     (Ready s th [a] [] → (∃ k, 1 ≤ k ∧ k ≤ 8 ∧ (∀ j, j < k → 1 ≤ width j ∧ width j ≤ 64) ∧ (∀ j, k ≤ j → j < 8 → width j = 0) ∧
         ((List.range k).map width).foldl (· + ·) 0 ≤ 64) → v.extractLsb' 56 4 = 0 →
       exec (.hdrLay a) s = .next ((s.setGroup s.cur.core { g with
         layouts := vset g.layouts (v.extractLsb' 60 4).toNat v,
         layValid := g.layValid ||| (1 <<< (v.extractLsb' 60 4).toNat) }).retire (th.advance 8))) ∧
     (Ready s th [a] [] → v.extractLsb' 56 4 ≠ 0 → Traps (.hdrLay a) s .queue 6) ∧
     (g.layValid.getLsbD n.toNat = false → Traps (.hdrPack d a n) s .queue 7 ∧ Traps (.hdrUnpack sgn d a n) s .queue 7) ∧
     (g.layValid.getLsbD n.toNat = true → 1 ≤ ps.length → (∀ p ∈ ps, p.1 + p.2 ≤ 64) →
       (31 < a.toNat + ps.length - 1 → Traps (.hdrPack d a n) s .queue 8) ∧
       (31 < d.toNat + ps.length - 1 → Traps (.hdrUnpack sgn d a n) s .queue 8) ∧
       (a.toNat + ps.length ≤ 32 → Ready s th ((List.range ps.length).map (regAfter a)) [] → ∃ h, WritesX (.hdrPack d a n) s th 8 d h ∧
         (∀ k pos w, ps[k]? = some (pos, w) → h.toNat / 2 ^ pos % 2 ^ w = (th.rx (regAfter a k)).toNat % 2 ^ w) ∧
         h.toNat < 2 ^ (ps.map (·.2)).foldl (· + ·) 0) ∧
       (d.toNat + ps.length ≤ 32 → Ready s th [a] [] → ∃ u, Retires (.hdrUnpack sgn d a n) s u ∧ OnlyX th u ∧ u.pc = th.pc + 8 ∧
         (∀ k pos w, ps[k]? = some (pos, w) → regAfter d k ≠ 0 →
           u.rx (regAfter d k) = (if sgn then (v.extractLsb' pos w).signExtend 64 else (v.extractLsb' pos w).setWidth 64)) ∧
         ∀ r : Reg, r.toNat < d.toNat ∨ d.toNat + ps.length ≤ r.toNat → u.rx r = th.rx r ∧ u.liveX r = th.liveX r)))

/-- Mailbox rings and `send` to a mailbox or an engine (18 R338 to R343). The counts are read, a valid descriptor empties a ring, and a
message is taken from the highest ring of the mask that holds one. A `send` to a mailbox or an engine, its words read, sends one message, and retires with
its acknowledgement. -/
def Obligations.Messages : Prop :=
  ∀ (s : State) (th : Thread) (g : Group) (sc : Scope) (d a b : Reg) (r : BitVec 2) (mask : BitVec 4) (nw : BitVec 5),
    s.me = some th → s.group s.cur.core = some g →
    let count (k : Nat) : Nat := (g.ring k).msgs.length
    let v := th.rx a
    let n := (v.extractLsb' 24 7).toNat
    let base := (v.extractLsb' 6 15).toNat * 64
    let sends (i : Instr) (p : Nat → Msg) : Prop := ∃ t u seq, exec i s = .next t ∧ t.agent s.cur = some u ∧
      u = { th with wait := .sync, prog := u.prog } ∧ t.net = s.net ++ [p seq] ∧ MemSame s t ∧ SpSame s t
    WritesX (.mbxCnt d) s th 8 d (w64 (count 0 + count 1 * 2 ^ 8 + count 2 * 2 ^ 16 + count 3 * 2 ^ 24)) ∧
    (Ready s th [a] [] → (v.extractLsb' 31 33 = 0 ∧ v.extractLsb' 21 3 = 0 ∧ v.extractLsb' 0 6 = 0 ∧ n ≤ 64) → (g.ring r.toNat).waiting = [] →
      (n = 0 ∨ base + n * 64 ≤ g.alloc → exec (.mbxCntCfg d a r) s = .next ((s.setGroup s.cur.core (g.setRing r.toNat
        { desc := v, head := 0, tail := 0, msgs := [], waiting := [] })).retire ((th.wx d (g.ring r.toNat).desc).advance 8))) ∧
      (n ≠ 0 → g.alloc < base + n * 64 → Traps (.mbxCntCfg d a r) s .xlateNone v)) ∧
    (Ready s th [a] [] → ¬ (v.extractLsb' 31 33 = 0 ∧ v.extractLsb' 21 3 = 0 ∧ v.extractLsb' 0 6 = 0 ∧ n ≤ 64) →
      Traps (.mbxCntCfg d a r) s .queue 6) ∧
    (∀ k m rest, Ready s th [a] [] → Unwatched s s.cur.core → v.toNat % 8 = 0 → v.toNat + 64 ≤ g.alloc → v.toNat + 64 ≤ 0x180000 → k < 4 →
      mask.getLsbD k = true → (∀ j, k < j → j < 4 → mask.getLsbD j = true → (g.ring j).msgs = []) → (g.ring k).msgs = m :: rest →
      (g.ring k).waiting = [] → m.nw ≤ 8 → ∃ t u h, exec (.mbxTake .weak .th d a mask) s = .next t ∧ RetiredAs s t th u 8 ∧ OnlyX th u ∧
        (d ≠ 0 → u.rx d = w64 (k + m.nw * 2 ^ 4 + m.sender * 2 ^ 16)) ∧ (∀ q, q ≠ d → u.rx q = th.rx q) ∧ MemSame s t ∧
        t.group s.cur.core = some h ∧ (h.ring k).msgs = rest ∧ (∀ j, j ≠ k → h.ring j = g.ring j) ∧
        (∀ j, j < m.nw → read64 h.spData (v.toNat + 8 * j) = read64 g.spData ((g.ring k).base + m.slot * 64 + 8 * j)) ∧
        SpSameBut s t s.cur.core v.toNat (8 * m.nw)) ∧
    (∀ ws : List W64, Ready s th [a, b] [] → NoneOutstanding s → th.prog.stage = 17 →
      (ws.length = nw.toNat → (∀ j, j < nw.toNat → find th.prog.got j = ws[j]?) → v.toNat < 2 ^ 14 → v.getLsbD 11 = false →
        sends (.sendMailbox .rel sc a b nw) fun seq => .deposit
          { who := s.cur, seq := seq, core := v.toNat % 2048, ring := v.toNat / 2 ^ 12, words := ws, dom := g.dom, held := false }) ∧
      (∀ k, s.cur.issuer = .thread k → ws.length = 16 → (∀ j, j < 16 → find th.prog.got j = ws[j]?) → v.toNat < 2 ^ 10 →
        v.extractLsb' 6 2 = 0 → (th.rx b).toNat % 64 = 0 → cardOk ws (v.toNat / 2 ^ 8) = true → cardBar ws = 0 →
        sends (.sendEngine a b) fun seq => .card seq
          { cluster := v.toNat % 64, kind := v.toNat / 2 ^ 8, origin := s.cur.core, dom := g.dom, kernel := th.kernel, who := s.cur,
            gang := g.gang, wid := th.wid, card := ws, st := .inbox, recorded := false, cond := 0 })) ∧
    (∀ w, th.prog.stage = 18 → th.prog.reply = none → find th.prog.got 0 = some w →
      Retires (.sendMailbox .rel sc a b nw) s (th.advance 8) ∧ Retires (.sendEngine a b) s (th.advance 8))

/-- EVT 0x00 to 0x03 (17 R294, R318 to R320): `ev.set` ors the mask into a quarter that the group's domain owns and satisfies the
waiters whose bits are all set, `ev.clr` clears it, `ev.test` reads it, and `ev.wait` returns the quarter once every bit of its mask is
set, or takes a wait entry. A quarter of another domain raises XLATE_PERM. -/
def Obligations.EventInstructions : Prop :=
  ∀ (s : State) (th : Thread) (g : Group) (o : MemOrd) (sc : Scope) (d a b : Reg) (q : BitVec 2) (rc : Bool), s.me = some th →
    s.group s.cur.core = some g → Ready s th [a] [] → Ready s th [a, b] [] → NoneOutstanding s →
    let cl := if rc then (th.rx b).toNat % 64 else s.cur.core / 32
    let m := th.rx a
    let k := s.cluster cl
    let e := k.quarter q.toNat
    let tval := w64 (cl * 4 + q.toNat)
    let writes (i : Instr) (new : W64) : Prop := ∃ t u, exec i s = .next t ∧ RetiredAs s t th u 8 ∧ SameX th u ∧ OnlyX th u ∧ MemSame s t ∧
      SpSame s t ∧ (∀ j, j < 4 → (t.cluster cl).quarter j = if j = q.toNat then new else k.quarter j) ∧
      ∀ c, c ≠ cl → t.cluster c = s.cluster c
    let reads (i : Instr) (v : W64) : Prop := ∃ t u, exec i s = .next t ∧ RetiredAs s t th u 8 ∧ OnlyX th u ∧ (d ≠ 0 → u.rx d = v) ∧
      (∀ r, r ≠ d → u.rx r = th.rx r ∧ u.liveX r = th.liveX r) ∧ MemSame s t ∧ SpSame s t ∧ t.clusters = s.clusters
    (k.fenced = false → vget none k.owner q.toNat = some g.dom →
      (k.waits = [] → writes (.evSet o sc a q rc b) (e ||| m)) ∧ writes (.evClr o sc a q rc b) (e &&& ~~~m) ∧
      reads (.evTest o sc d a q rc b) (e &&& m) ∧
      (k.waits = [] → th.prog.got = [] → (e &&& m = m → reads (.evWait o sc d a q rc b) e) ∧
        (e &&& m ≠ m → ∃ t u, exec (.evWait o sc d a q rc b) s = .next t ∧ t.agent s.cur = some u ∧
          u = { th with wait := .sync, prog := u.prog } ∧ u.prog.inst = some (.evWait o sc d a q rc b) ∧
          (t.cluster cl).waits = [(s.cur, q.toNat)] ∧ MemSame s t ∧ SpSame s t)) ∧
      (∀ v, find th.prog.got 0 = some v → reads (.evWait o sc d a q rc b) v) ∧
      ∀ (w : Who) (tw : Thread) (mw : W64), w ≠ s.cur → k.waits = [(w, q.toNat)] → s.agent w = some tw → tw.waitMask = some (mw, q.toNat) →
        (e ||| m) &&& mw = mw → ∃ t v, exec (.evSet o sc a q rc b) s = .next t ∧ t.agent w = some v ∧
          find v.prog.got 0 = some (e ||| m) ∧ (t.cluster cl).waits = []) ∧
    (k.fenced = true ∨ vget none k.owner q.toNat ≠ some g.dom →
      Traps (.evSet o sc a q rc b) s .xlatePerm tval ∧ Traps (.evClr o sc a q rc b) s .xlatePerm tval ∧
      Traps (.evTest o sc d a q rc b) s .xlatePerm tval ∧ Traps (.evWait o sc d a q rc b) s .xlatePerm tval)

/-- Barrier objects in the agent's own scratchpad (18 R334 to R336): `ARR` in bits 23 to 0 and `PEND` above it in word 0, `INIT` in bits 23
to 0 and `PHASE` in bits 62 to 32 of word 1. A step that leaves word 0 zero completes the phase: word 0 takes `INIT` and `PHASE` advances. -/
def Obligations.BarrierObjects : Prop :=
  ∀ (s : State) (th : Thread) (g : Group) (o : MemOrd) (sc : Scope) (d a b : Reg), s.me = some th → s.group s.cur.core = some g →
    NoneOutstanding s → Unwatched s s.cur.core → BanksIdle s s.cur.core → Ready s th [a] [] → Ready s th [a, b] [] →
    let ea := (th.rx a).toNat
    let w0 := read64 g.spData ea
    let w1 := read64 g.spData (ea + 8)
    let n := th.rx b
    let phase := w1.extractLsb' 32 31
    let does (i : Instr) (x : Option W64) (new0 : W64) (p : W64 → Prop) : Prop := ∃ t u h, exec i s = .next t ∧ RetiredAs s t th u 8 ∧
      OnlyX th u ∧ (∀ v, x = some v → d ≠ 0 → u.rx d = v) ∧ (∀ r, x = none ∨ r ≠ d → u.rx r = th.rx r ∧ u.liveX r = th.liveX r) ∧ MemSame s t ∧
      t.group s.cur.core = some h ∧ h.spTags = g.spTags ∧ SpSameBut s t s.cur.core ea 16 ∧ read64 h.spData ea = new0 ∧ p (read64 h.spData (ea + 8))
    let next (w : W64) : Prop := w.extractLsb' 32 31 = phase + 1 ∧ w.extractLsb' 0 32 = w1.extractLsb' 0 32 ∧ w.getLsbD 63 = w1.getLsbD 63
    (ea % 16 = 0 → ea + 16 ≤ g.alloc → ea + 16 ≤ 0x180000 →
      (n ≠ 0 → n.toNat < 2 ^ 24 → does (.barInit o sc a b) none n (· = n)) ∧
      (n = 0 ∨ 2 ^ 24 ≤ n.toNat → Traps (.barInit o sc a b) s .queue 3) ∧
      (w0 = 1 → does (.barArrive o sc d a) (some (phase.setWidth 64)) (w1 &&& 0xFFFFFF) next) ∧
      (w0 ≠ 1 → w0.extractLsb' 0 24 ≠ 0 → does (.barArrive o sc d a) (some (phase.setWidth 64)) (w0 - 1) (· = w1)) ∧
      (w0.extractLsb' 0 24 = 0 → Traps (.barArrive o sc d a) s .queue 3) ∧
      (w0 ≠ 0 ∨ n ≠ 0 → n.toNat + w0.toNat / 2 ^ 24 < 2 ^ 40 → does (.barExpect a b) none (w0 + n <<< 24) (· = w1)) ∧
      (w0 = 0 → n = 0 → does (.barExpect a b) none (w1 &&& 0xFFFFFF) next) ∧
      (2 ^ 40 ≤ n.toNat + w0.toNat / 2 ^ 24 → Traps (.barExpect a b) s .queue 4) ∧
      (phase ≠ n.extractLsb' 0 31 → WritesX (.barWait .weak .th d a b) s th 8 d w1) ∧
      (phase = n.extractLsb' 0 31 → ∃ t u, exec (.barWait o sc d a b) s = .next t ∧ t.agent s.cur = some u ∧
        u = { th with wait := .sync, prog := u.prog } ∧ u.prog.inst = some (.barWait o sc d a b) ∧ MemSame s t ∧ SpSame s t)) ∧
    (ea % 16 ≠ 0 → ea + 16 ≤ g.alloc → ea + 16 ≤ 0x180000 → Traps (.barInit o sc a b) s .align (th.rx a) ∧ Traps (.barArrive o sc d a) s .align (th.rx a) ∧
      Traps (.barExpect a b) s .align (th.rx a) ∧ Traps (.barWait o sc d a b) s .align (th.rx a))

/-! ## Tasks, objects, rotation and tracing -/

/-- TASK (17 R321 to R323). `task.wid` reads a field of `WID`, `task.self` the identities of the gang, the group and the core;
`task.yield` suspends the gang only while another that its die could place waits at its level or above; `task.exit` ends the thread; `task.post`,
its record read, sends it to the hub and writes the answer. -/
def Obligations.TaskInstructions : Prop :=
  ∀ (s : State) (th : Thread) (g : Group) (k : Gang) (d a : Reg) (f : BitVec 3) (which : BitVec 2), Ready s th [] [] →
    s.group s.cur.core = some g → find s.gangs g.gang = some k →
    WritesX (.taskWid d f) s th 8 d (w64 (widField th.wid th.widlay f.toNat)) ∧
    WritesX (.taskSelf d which) s th 8 d (if which = 0 then k.answer else if which = 1 then w64 k.num else w64 s.cur.core) ∧
    (let waiter := s.waiter (s.cur.core / 256) false fun q => g.prio ≤ q.level
     (waiter = none → Retires .taskYield s (th.advance 8)) ∧
     ∀ q, waiter = some q → exec .taskYield s = .next ((s.suspend g.gang 1 (some q.head)).retire (th.advance 8))) ∧
    (∀ (t : Nat) (run : Thread), g.threads[t]? = some run → run.status = .running → s.cur.issuer ≠ .thread t → NoneOutstanding s →
      th.pend = [] → ∃ u t, exec .taskExit s = .next t ∧ t.agent s.cur = some u ∧ RetiredAs s t th u 8 ∧ u.status = .ended ∧
        u.x = th.x ∧ MemSame s t ∧ SpSame s t) ∧
    (∀ ws : List W64, Ready s th [a] [] → (th.rx a).toNat % 64 = 0 → th.prog.stage = 17 → th.prog.seq ≠ 0 → th.prog.reply = none →
      ws.length = 8 → (∀ j, j < 8 → find th.prog.got j = ws[j]?) → NoneOutstanding s → recWord ws 7 = 0 →
      ∃ t u seq, exec (.taskPost d a) s = .next t ∧ t.agent s.cur = some u ∧ u = { th with wait := .sync, prog := u.prog } ∧
        t.net = s.net ++ [.record { who := some (s.cur, seq), bell := none, die := recField ws 3 57 55, dom := g.dom, addr := th.rx a,
                                    words := ws, objs := [] }] ∧ MemSame s t ∧ SpSame s t) ∧
    (∀ v, th.prog.stage = 18 → th.prog.reply = none → find th.prog.got 0 = some v → WritesX (.taskPost d a) s th 8 d v) ∧
    (Ready s th [a] [] → th.prog.stage = 0 → (th.rx a).toNat % 64 ≠ 0 → Traps (.taskPost d a) s .align (th.rx a))

/-- CONT (20 R367 to R372). `co.suspend` of a gang under no suspension starts one, its areas checked; `co.resume` retires with the hub's
answer; `co.seal` writes a LIVE object's header with the flag SEALED, its body's hash and its seal; `co.discard` takes an object from LIVE
to DISCARDED, both noted for a replay while a maquette is held (25 R422); `co.stat` reads the group's bound, or the fields of an object's header. -/
def Obligations.ContinuationObjects : Prop :=
  ∀ (s : State) (th : Thread) (g : Group) (k : Gang) (d a b : Reg), Ready s th [a] [] → Ready s th [a, b] [] →
    s.group s.cur.core = some g → find s.gangs g.gang = some k → NoneOutstanding s → Unwatched s s.cur.core →
    let va := (th.rx a).toNat
    let stride := (th.rx b).toNat
    let n := k.cores.length
    let cs := s.coreCaches s.cur.core
    let areas := s.saveAreas g.gang k va stride
    let global := va % 64 = 0 ∧ regionOf va = .global
    (k.susp = none → global → stride % 64 = 0 → n = 1 ∨ (∀ c ∈ k.cores, s.holds g.gang c = true → s.boundOf c ≤ stride) → checkAreas s g th areas = .ok () →
      checkFree s g th areas = .ok () → ∃ t u v, exec (.coSuspend d a b) s = .next t ∧
        find t.gangs g.gang = some { k with susp := some v } ∧ v.agreed = s.gtick + (if 1 < n then 2048 else 1) ∧
        v.objs = (List.range n).map (fun j => w64 (va + j * stride)) ∧ v.byWho = some (s.cur, d) ∧ t.agent s.cur = some u ∧
        u = { th with wait := .suspending, prog := u.prog, issued := u.issued, ctrs := u.ctrs } ∧ MemSame s t ∧ SpSame s t) ∧
    (∀ v : W64, th.prog.stage = 3 → find th.prog.got 0 = some v → v.toNat % 256 = 0 → WritesX (.coResume d a b) s th 8 d v) ∧
    (∀ obj, global → s.objRead cs g.dom th.kernel va 32 = .ok (obj.take 256) → s.objBytes cs g.dom th.kernel va = .ok obj → 256 ≤ obj.length →
      leAt obj 0 4 = 0x5956434F → leAt obj 4 2 = 1 → leAt obj 6 2 = 0 → leAt obj 8 2 = 1 → leAt obj 0x10 1 = g.dom →
      (s.domain g.dom).sealRight = true → leAt obj 0x0C 4 = 1 → leAt obj 0x0A 2 / 4 % 2 = 0 → sectsOk obj = true →
      (s.xlate cs g.dom va th.kernel .both).isOk = true → (s.xlate cs g.dom (va + 255) th.kernel .both).isOk = true →
      let hdr := s.resealed g.dom va obj
      hdr.length = 256 ∧ leAt hdr 0x0A 2 = leAt obj 0x0A 2 ||| 8 ∧ leAt hdr 0x0C 4 = 1 ∧ hdr.take 0x0A = obj.take 0x0A ∧
      (hdr.drop 0x10).take 0xA8 = (obj.drop 0x10).take 0xA8 ∧ (hdr.drop 0xB8).take 64 = sha512 (obj.drop 256) ∧
      hdr.drop 0xF8 = s.sealOf g.dom (hdr.take 0xF8) va ∧
      ∀ t, s.objWrite g.dom va hdr 32 = .ok t → exec (.coSeal a) s =
        .next (((t.noteBytes g.dom va hdr 32).dropHeader cs g.dom va).retireNext 8)) ∧
    (∀ pa w t, global → s.objStatePa cs g.dom th.kernel .both va = .ok pa → s.engineRead (pa.pa - 4) 8 = .ok w → w / 2 ^ 18 % 2 = 0 →
      s.engineRead pa.pa 4 = .ok 1 → s.objPoke pa 4 4 = .ok t → exec (.coDiscard a) s =
        .next (((t.noteSwap pa.pa 1 4).dropWord s.cur.core pa.pa).retireNext 8)) ∧
    (th.rx a = 0 → WritesX (.coStat d a true) s th 8 d (w64 g.bound)) ∧
    (th.rx a ≠ 0 → Traps (.coStat d a true) s .illField (lowBits (.coStat d a true))) ∧
    (∀ h, global → s.objRead cs g.dom th.kernel va 32 = .ok h → WritesX (.coStat d a false) s th 8 d
      (w64 (leAt h 0x0C 4 % 256 + leAt h 0x0A 2 * 2 ^ 16 + leAt h 0x13 1 * 2 ^ 32 + leAt h 0x12 1 * 2 ^ 40))) ∧
    (va % 64 ≠ 0 → k.susp = none → th.prog.stage = 0 → Traps (.coSuspend d a b) s .align (th.rx a) ∧ Traps (.coResume d a b) s .align (th.rx a) ∧
      Traps (.coSeal a) s .align (th.rx a) ∧ Traps (.coDiscard a) s .align (th.rx a) ∧ Traps (.coStat d a false) s .align (th.rx a))

/-- ROT (22 R388 to R394). `rot.open` checks the ring and the buffer and leaves an unbroken session of `S` slots at cursor 0, `rot.put` of
the buffer's own base makes slot 0 FULL, `rot.take` names the block at the cursor, `rot.done` advances the cursor and leaves the slot CONSUMED, or, at
the last block, FREE, and `rot.close` ends the session. A handle that names no session of the domain raises ROT with code 4; that `TVAL` names cursor 0
there, also for a stale handle while a session is open, is the model's reading (notes/assumptions/19.md). -/
def Obligations.RotationInstructions : Prop :=
  ∀ (s : State) (th : Thread) (g : Group) (d a b c : Reg), s.group s.cur.core = some g → Ready s th [a] [] → Ready s th [a, b] [] →
    Ready s th [a, b, c] [] → NoneOutstanding s → th.prog.stage ≠ 18 →
    let v := th.rx a
    let r := v.toNat % 16
    let x := s.ring r
    let n := (v.extractLsb' 4 5).toNat
    let bk := (v.extractLsb' 16 7).toNat
    let va := (th.rx b).toNat
    let sess (t : State) : Option Session := (t.ring r).sess
    let quiet (t : State) (u : Thread) : Prop := RetiredAs s t th u 8 ∧ OnlyX th u ∧ MemSame s t ∧ SpSame s t
    (∀ units, r < 12 → x.valid = true → x.dom = g.dom → (s.port (x.portOf true)).up = true → (s.port (x.portOf false)).up = true →
      x.sess = none → x.heldUp = [] → x.heldDn = [] → v.toNat < 2 ^ 23 → v.extractLsb' 9 7 = 0 → (th.rx c).toNat < 2 ^ 32 → 4 ≤ n → n ≤ 16 → 1 ≤ bk → bk ≤ 64 →
      va % 4096 = 0 → regionOf va = .global → regionOf (va + n * bk * 4096 - 1) = .global → s.pinUnits s.cur g.dom th.kernel (unitVas va (n * bk)) = .ok units →
      s.overPinned units = false → ∃ t u se, exec (.rotOpen d a b c) s = .next t ∧ quiet t u ∧ sess t = some se ∧ se.dom = g.dom ∧ se.base = th.rx b ∧
        se.bk = bk ∧ se.cursor = 0 ∧ se.broken = none ∧ se.slots.length = n ∧ (∀ y ∈ se.slots, y.st = .free) ∧
        (t.ring r).epoch = x.epoch + 1 ∧ (d ≠ 0 → u.rx d = w64 (r + x.self * 2 ^ 8 + x.members * 2 ^ 16 + (x.epoch + 1).toNat * 2 ^ 32)) ∧
        ∀ q, q ≠ d → u.rx q = th.rx q) ∧
    (∀ se, r < 12 → x.sess = some se → se.dom = g.dom → v = x.handle r →
      (se.broken = none → se.putDone = false → th.rx b = se.base → 0 < se.slots.length → ∃ t u se', exec (.rotPut a b) s = .next t ∧ quiet t u ∧
        u.x = th.x ∧ sess t = some se' ∧ se'.putDone = true ∧ (se'.slot 0).st = .full ∧ (se'.slot 0).step = 0 ∧
        ∀ j, j ≠ 0 → se'.slot j = se.slot j) ∧
      (∀ k, se.broken = none → se.cursor ≠ x.members → se.fullAt se.cursor = some k →
        (∃ t u, exec (.rotTake d a c) s = .next t ∧ quiet t u ∧ t.rings = s.rings ∧ (c ≠ 0 → u.rx c = w64 se.cursor) ∧
          (d ≠ 0 → d ≠ c → u.rx d = se.base + w64 (k * se.bytes))) ∧
        (th.rx b = w64 se.cursor → k < se.slots.length → ∃ t u se', exec (.rotDone a b) s = .next t ∧ quiet t u ∧ u.x = th.x ∧ sess t = some se' ∧
          se'.cursor = se.cursor + 1 ∧ (se'.slot k).st = (if se.cursor + 1 < x.members then .consumed else .free) ∧
          ∀ j, j ≠ k → se'.slot j = se.slot j) ∧
        (th.rx b ≠ w64 se.cursor → ∃ tv, Traps (.rotDone a b) s .rot tv ∧ tv.toNat % 256 = 5)) ∧
      ((se.broken ≠ none ∨ (x.members ≤ se.cursor ∧ ∀ y ∈ se.slots, y.st ≠ .consumed)) →
        exec (.rotClose a) s = .next ((s.setRing r { x with sess := none }).retireNext 8))) ∧
    (12 ≤ r ∨ x.sess = none ∨ v ≠ x.handle r →
      Traps (.rotPut a b) s .rot (w64 (4 + r * 2 ^ 8)) ∧ Traps (.rotTake d a c) s .rot (w64 (4 + r * 2 ^ 8)) ∧
      Traps (.rotDone a b) s .rot (w64 (4 + r * 2 ^ 8)) ∧ Traps (.rotClose a) s .rot (w64 (4 + r * 2 ^ 8)))

/-- DBG (25 R410, R413, R416). A counter starts at zero with the tick, and stops with a record of its value, start, stop and control in
the four doublewords at the address; `ctr.rd` reads it. A mark or a sample is a record of its thread while tracing and marks are on, and nothing else.
That a sample takes the counters from bits 7 to 0 of `x[A]` whatever the others are is the model's reading (notes/assumptions/26.md). -/
def Obligations.CountersAndMarks : Prop :=
  ∀ (s : State) (th : Thread) (g : Group) (d a : Reg) (n : BitVec 3) (sel : BitVec 2) (imm : BitVec 16), Ready s th [a] [] → Ready s th [] [] →
    s.group s.cur.core = some g →
    let v := th.rx a
    let c := th.ctr n
    (v.toNat < 10 → ∃ t u, exec (.ctrStart a n) s = .next t ∧ RetiredAs s t th u 8 ∧ OnlyX th u ∧ u.x = th.x ∧ MemSame s t ∧ SpSame s t ∧
      u.ctr n = { value := 0, start := s.gtick64, stop := c.stop, control := v ||| 0x100 }) ∧
    (10 ≤ v.toNat → Traps (.ctrStart a n) s .illField (lowBits (.ctrStart a n))) ∧
    (NearPass s th g .st v.toNat 32 8 → bitOf c.control 8 = true → ∃ t u h, exec (.ctrStop d a n) s = .next t ∧ NearStep s t th u 8 ∧
      (d ≠ 0 → u.rx d = c.value) ∧ (∀ r, r ≠ d → u.rx r = th.rx r) ∧ bitOf (u.ctr n).control 8 = false ∧ (u.ctr n).stop = some s.gtick64 ∧
      t.group s.cur.core = some h ∧ read64 h.spData v.toNat = c.value ∧ read64 h.spData (v.toNat + 8) = c.start ∧
      read64 h.spData (v.toNat + 16) = s.gtick64 ∧ read64 h.spData (v.toNat + 24) = c.control &&& ~~~(0x100 : W64) ∧
      SpSameBut s t s.cur.core v.toNat 32) ∧
    (v.toNat % 8 ≠ 0 → Traps (.ctrStop d a n) s .align v) ∧
    (sel ≠ 3 → WritesX (.ctrRd d n sel) s th 8 d (if sel = 0 then c.value else if sel = 1 then c.start else c.control)) ∧
    (sel = 3 → Traps (.ctrRd d n sel) s .illField (lowBits (.ctrRd d n sel))) ∧
    ((s.trace.en && s.trace.marks) = false → Retires (.mark a imm) s (th.advance 8) ∧ Retires (.sample a) s (th.advance 8)) ∧
    (s.trace.en = true → s.trace.marks = true →
      let cs := (List.range 8).filter fun j => v.getLsbD j
      let writes (i : Instr) (typ len : Nat) (body : List Byte) : Prop := ∃ t u r, exec i s = .next t ∧ RetiredAs s t th u 8 ∧ OnlyX th u ∧ u.x = th.x ∧
        MemSame s t ∧ SpSame s t ∧ r ∈ t.trace.recs ∧ t.trace.recs.length = s.trace.recs.length + 1 ∧ r.tick = s.gtick ∧ r.core = s.cur.core ∧ r.t = s.cur.issuer.setNo ∧
        r.bytes = lil 8 s.gtick ++ lil 1 typ ++ lil 1 0 ++ lil 2 len ++ lil 4 0 ++ body
      writes (.mark a imm) 2 40 (lil 2 s.cur.core ++ lil 1 s.cur.issuer.setNo ++ lil 5 0 ++ lil 8 imm.toNat ++ lil 8 v.toNat) ∧
      writes (.sample a) 3 (32 + 8 * cs.length) (lil 2 s.cur.core ++ lil 1 s.cur.issuer.setNo ++ lil 1 (v.toNat % 256) ++ lil 4 0 ++
        lil 8 th.pc.toNat ++ cs.flatMap fun j => lil 8 (th.ctr (BitVec.ofNat 3 j)).value.toNat))

/-! ## Events: memory -/

/-- Requests at a word's home, where nothing waits and the host holds no line (09 R168 to R172, R180 to R182, 10 R192). A load reads the home's
copy of an unregistered word and is forwarded to the owner of a registered one; a registration is recorded and acknowledged, or asks the owner for the
word; an AMO and a store act on the home's copy, an untracked store whatever waits there but the same core's earlier store to the word; a message of an
earlier incarnation is dropped and counted. A word of a stack that has failed raises ECC on what consumes it (26 R435): that a load and an AMO
are answered with it, and that merge data carries the value as memory holds it while the storing agent is told, are the model's readings
(notes/assumptions/24.md). -/
def Obligations.HomeRequests : Prop :=
  ∀ (s s0 : State) (msg : Msg), s.takeMsg = some (msg, s0) → s0.host.hdm = [] →
    let home (pa : Nat) : Nat := s0.homeOf (pa / 8 * 8)
    let idle (pa : Nat) : Prop := (s0.slice (home pa)).queue = []
    let outside (t : State) (pa n : Nat) : Prop := ∀ a, a < pa ∨ pa + n ≤ a → byteAt t.mem a = byteAt s0.mem a
    let stale (i : Instr) (pa : Nat) : Prop := ∃ t, exec i s = .next t ∧ t.net = s0.net ∧ t.mem = s0.mem ∧
      (t.slice (s0.homeOf pa)).stale = (s0.slice (s0.homeOf pa)).stale + 1
    (∀ m, msg = .loadReq m → isHost m.pa = false → (m.inc ≠ (s0.core m.who.core).inc → stale .homeLoadRequest m.pa) ∧
      (m.inc = (s0.core m.who.core).inc →
        let rep (r : Reply) : Prop := exec .homeLoadRequest s = .next (s0.send (.loadRep m r))
        let home : Reply := if s0.stackFails m.pa = true then .trap .ecc (w64 (m.pa / 8 * 8)) else .ok [(m.k, read64 s0.mem (m.pa / 8 * 8))]
        (s0.regEnt m.pa = none → rep home) ∧
        ∀ e, s0.regEnt m.pa = some e → (e.lost = true → rep (.trap .ownerLost m.va)) ∧
          (e.lost = false → m.untracked = true → rep home) ∧
          (e.lost = false → m.untracked = false → exec .homeLoadRequest s = .next (s0.send (.fwdLoad m e.owner))))) ∧
    (∀ r, msg = .registration r → (r.inc ≠ (s0.core r.core).inc → stale .homeRegistration r.pa) ∧
      (r.inc = (s0.core r.core).inc → idle r.pa →
        (s0.regEnt r.pa = none → (s0.slice (home r.pa)).table.length < 524288 → ∃ t, exec .homeRegistration s = .next t ∧ t.mem = s0.mem ∧
          t.regEnt r.pa = some { word := r.pa / 8, owner := r.core, inc := r.inc, lost := false, asked := false } ∧
          t.net = s0.net ++ (if r.narrow then [.mergeData r.core (r.pa / 8 * 8) (read64 s0.mem (r.pa / 8 * 8))] else []) ++
            [.regAck r.core (r.pa / 8 * 8)] ∧
          (r.narrow = true → s0.stackFails r.pa = true → ∀ by_, (s0.core r.core).storer r.core r.pa = some by_ →
            t.due.head? = some (.event (.eccError (r.pa / 8 * 8) none by_) 0 0))) ∧
        ∀ e, s0.regEnt r.pa = some e → e.lost = false → e.asked = false → e.owner ≠ r.core → ∃ t, exec .homeRegistration s = .next t ∧
          t.mem = s0.mem ∧ t.net = s0.net ++ [.revoke e.owner (r.pa / 8 * 8)] ∧ (t.slice (home r.pa)).queue = [.reg r])) ∧
    (∀ a, msg = .amo a → isHost a.pa = false → (a.inc ≠ (s0.core a.who.core).inc → stale .homeAmo a.pa) ∧
      (a.inc = (s0.core a.who.core).inc → idle a.pa → s0.regEnt a.pa = none → s0.stackFails a.pa = true → ∃ t, exec .homeAmo s = .next t ∧ t.mem = s0.mem ∧
        t.net = s0.net ++ [.amoRep a.who (some a.pa) a.seq [0] (.trap .ecc (w64 (a.pa / 8 * 8)))]) ∧
      (a.inc = (s0.core a.who.core).inc → idle a.pa → s0.regEnt a.pa = none → s0.stackFails a.pa = false →
        let old := readN s0.mem a.pa a.n
        ∃ t, exec .homeAmo s = .next t ∧ readN t.mem a.pa a.n =
            a.op.apply (8 * a.n) old (a.b.toNat % 2 ^ (8 * a.n)) (a.c.toNat % 2 ^ (8 * a.n)) % 256 ^ a.n ∧ outside t a.pa a.n ∧
          t.net = (s0.noFill a.who.core fun p => p / 8 == a.pa / 8).net ++ [.amoRep a.who (some a.pa) a.seq [0] (.ok [(0, w64 old)])])) ∧
    (∀ a, msg = .ustore a → isHost a.pa = false → (a.inc ≠ (s0.core a.who.core).inc → stale .untrackedStoreAtHome a.pa) ∧
      (a.inc = (s0.core a.who.core).inc → (a.tracked = true → idle a.pa) →
        (∀ x ∈ (s0.slice (s0.homeOf a.pa)).queue, x.storeOf a.who.core a.pa = false) →
        s0.regEnt a.pa = none ∨ (a.tracked = false ∧ ∀ e, s0.regEnt a.pa = some e → e.lost = false) →
        ∃ t, exec .untrackedStoreAtHome s = .next t ∧ readN t.mem a.pa a.n = a.data.toNat % 256 ^ a.n ∧ outside t a.pa a.n ∧
          t.net = s0.net ++ [match a.jidx with
            | some j => .jAck a.who.core j (a.pa / 8 + 1)
            | none => .amoRep a.who (some a.pa) a.seq [a.k] (.ok [(a.k, 0)])]))

/-- At a word's owner and back at its home (09 R166 to R171, R180): a forwarded load is answered by a core that owns the word, merge data on
its way included, and goes to the home again from one that does not, which is the model's choice, as is that a P word whose acknowledgement is on its way
answers (notes/assumptions/32.md); a revoked G word becomes I, and one whose write-back is forced V, its data
going home; at the home the data is written, the entry leaves and the write-back is acknowledged, and a reply of no entry's owner, or of an earlier
incarnation, is dropped and counted. -/
def Obligations.OwnerEvents : Prop :=
  ∀ (s s0 : State) (msg : Msg) (core pa : Nat) (l : CLine) (c : CWord), s.takeMsg = some (msg, s0) → (s0.core core).cword pa = some (l, c) →
    let sends (i : Instr) (v : Option W64) (st : WSt) : Prop := ∃ t l' c', exec i s = .next t ∧ t.mem = s0.mem ∧
      t.net = s0.net ++ [.ownerData core (s0.core core).inc (pa / 8 * 8) v] ∧ (t.core core).cword pa = some (l', c') ∧ c'.st = st
    let stale : Prop := ∃ t, exec .ownerDataArrival s = .next t ∧ t.mem = s0.mem ∧ t.net = s0.net ∧
      (t.slice (s0.homeOf pa)).stale = (s0.slice (s0.homeOf pa)).stale + 1
    let answers (m : LoadMsg) (v : W64) : Prop := exec .forwardedLoad s = .next (s0.send (.loadRep m (.ok [(m.k, v)])))
    (∀ m, msg = .fwdLoad m core → m.pa = pa →
      (c.st = .g ∨ c.st = .p ∧ .regAck core (pa / 8 * 8) ∈ s0.net → (c.merge = false ∨ s0.mergeOf core pa = none → answers m c.data) ∧
        ∀ v, c.merge = true → s0.mergeOf core pa = some v → answers m (mergeBytes v c.data c.mask)) ∧
      (c.st ≠ .g → c.st ≠ .p ∨ .regAck core (pa / 8 * 8) ∉ s0.net → exec .forwardedLoad s = .next (s0.send (.loadReq m)))) ∧
    (msg = .revoke core pa → (c.st = .g → sends .revoke (some c.data) .inv) ∧ (c.st ≠ .g → sends .revoke none c.st)) ∧
    (msg = .forceWb core pa → (c.st = .g → sends .forcedWriteBackAtOwner (some c.data) .v) ∧
      (c.st ≠ .g → sends .forcedWriteBackAtOwner none c.st)) ∧
    (∀ inc v, msg = .ownerData core inc pa (some v) →
      (∀ e, s0.regEnt pa = some e → e.owner = core → e.inc = inc → e.lost = false → (s0.slice (s0.homeOf pa)).queue = [] →
        ∃ t, exec .ownerDataArrival s = .next t ∧ t.regEnt pa = none ∧ read64 t.mem (pa / 8 * 8) = v ∧
          (∀ a, a < pa / 8 * 8 ∨ pa / 8 * 8 + 8 ≤ a → byteAt t.mem a = byteAt s0.mem a) ∧ t.net = s0.net ++ [.wbAck core (pa / 8 * 8)]) ∧
      (s0.regEnt pa = none ∨ (∃ e, s0.regEnt pa = some e ∧ (e.owner ≠ core ∨ e.inc ≠ inc ∨ e.lost = true)) → stale)) ∧
    (∀ inc, msg = .ownerData core inc pa none → inc ≠ (s0.core core).inc → stale) ∧
    (msg = .regAck core pa → c.st = .p → ∃ t l' c', exec .registrationAck s = .next t ∧ MemSame s t ∧
      (t.core core).cword pa = some (l', c') ∧ c' = { c with st := .g } ∧
      ∀ e ∈ (t.core core).jrnl, ∀ p ∈ e.parts, p.kind = .reg (pa / 8 * 8) → p.bad = true) ∧
    (∀ v, msg = .mergeData core pa v → c.merge = true → ∃ t l' c', exec .mergeData s = .next t ∧ MemSame s t ∧
      (t.core core).cword pa = some (l', c') ∧ c'.st = c.st ∧ c'.merge = false ∧
      ∀ k, k < 8 → c'.data.toNat / 256 ^ k % 256 = (if c.mask.getLsbD k then c.data else v).toNat / 256 ^ k % 256)

/-- Answers reach the agent whose request they name (10 R189, R195, R202, 13 R251), and no other: a value binds and is asked for no more; a
fault is kept until every part is answered; an acknowledged write-back and a shootdown's answer are waited for no more. -/
def Obligations.AgentAnswers : Prop :=
  ∀ (s s0 : State) (msg : Msg) (w : Who) (th : Thread) (seq : Nat), s.takeMsg = some (msg, s0) → s0.agent w = some th → th.prog.seq = seq →
    seq ≠ 0 →
    let gets (i : Instr) (q : Prog) : Prop := ∃ t, exec i s = .next t ∧ t.agent w = some { th with prog := q } ∧ MemSame s t ∧ SpSame s t ∧
      ∀ v, v ≠ w → t.agent v = s0.agent v
    let less (k : Nat) : List Nat := th.prog.asked.filter (· != k)
    (∀ m vals v, msg = .loadRep m (.ok vals) → m.who = w → m.seq = seq → find vals m.k = some v →
      gets .loadReply { th.prog with got := set th.prog.got m.k (v >>> (8 * (m.pa % 8))), asked := less m.k }) ∧
    (∀ m c v, msg = .loadRep m (.trap c v) → m.who = w → m.seq = seq → th.prog.reply = none →
      gets .loadReply { th.prog with reply := some (.trap c v), asked := less m.k }) ∧
    (∀ home k vals v, msg = .amoRep w home seq [k] (.ok vals) → find vals k = some v →
      gets .amoReply { th.prog with got := set th.prog.got k v, asked := less k }) ∧
    (∀ home k c v, msg = .amoRep w home seq [k] (.trap c v) → th.prog.reply = none →
      gets .amoReply { th.prog with reply := some (.trap c v), asked := less k }) ∧
    (msg = .tlbAck w seq → gets .tlbShootdownAck { th.prog with asked := th.prog.asked.drop 1 }) ∧
    (∀ pa k, msg = .wbAck w.core pa → w.issuer = .thread k → th.prog.stage = 20 → ∃ t, exec .writeBackAck s = .next t ∧
      t.agent w = some { th with prog := { th.prog with asked := less (pa / 8) } } ∧ MemSame s t ∧ SpSame s t) ∧
    (∀ c sel, msg = .tlbReq c w seq sel → (s.cacheDrained c = true → exec .tlbShootdownRequest s = .next ((s0.shoot c sel).send (.tlbAck w seq))) ∧
      (s.cacheDrained c = false → exec .tlbShootdownRequest s = .next (s.shoot c sel)))

/-- The journal and arrivals at a core (10 R193, R194, 11 R209, R218, 14 R263, 18 R339, R341): an acknowledged entry frees; a refused one is held
pending for its thread; a far load or store steps its word at the bank and is answered; a deposit joins its ring, or is refused. -/
def Obligations.CoreArrivals : Prop :=
  ∀ (s s0 : State) (msg : Msg) (core : Nat), s.takeMsg = some (msg, s0) →
    (∀ idx, msg = .jAck core idx 0 → ∃ t, exec .journalAck s = .next t ∧ MemSame s t ∧ SpSame s t ∧
      (∀ e, (t.core core).jent idx = some e → ∀ p ∈ e.parts, p.bad = true) ∧
      ∀ j, j ≠ idx → (∀ e ∈ (s0.core core).jrnl, e.parts ≠ []) → (t.core core).jent j = (s0.core core).jent j) ∧
    (∀ idx reason code e k th, msg = .jRefuse core idx 0 reason code → idx < 32 → (s0.core core).jrnl = [e] → e.idx = idx → e.rel = 0 →
      e.owner = .thread k → e.state = .out → s0.agent { core := core, issuer := .thread k } = some th →
      ∃ t u e', exec .storeRefusal s = .next t ∧ MemSame s t ∧ SpSame s t ∧ (t.core core).jent idx = some e' ∧ e'.state = .refused reason code ∧
        (∀ p ∈ e'.parts, p.bad = true) ∧ t.agent { core := core, issuer := .thread k } = some u ∧
        u = { th with pend := (th.pend.filter fun b => b.jidx != some idx) ++ [{ cause := .storeRefused, tval := e'.tval, srce := 0, fpc := 0, jidx := some idx }] }) ∧
    (∀ (m : FarMsg) (p : SpPart) (g : Group), msg = .far m → m.target = core → s0.arrive core = .take → (s0.core core).fenced = false →
      (s0.core core).dead = false → s0.group core = some g → g.dom = m.dom → m.parts = [p] → m.vec = false → (∀ q ∈ g.past, q.upto ≤ m.stamp) →
      p.off % 8 + p.n ≤ 8 → 1 ≤ p.n →
      p.off + p.n ≤ g.alloc → p.off + p.n ≤ 0x180000 → BanksIdle s0 core →
      (m.req = .load → g.entry .rld (p.off / 8) = 0 → ∃ t, exec .farAccess s = .next t ∧ MemSame s t ∧ SpSame s t ∧
        t.net = s0.net ++ m.done [(p.k, w64 (readN g.spData p.off p.n))]) ∧
      (m.req = .store → g.entry .rst (p.off / 8) = 0 → ∃ t h vals, exec .farAccess s = .next t ∧ MemSame s t ∧ SpSameBut s t core p.off p.n ∧
        t.group core = some h ∧ readN h.spData p.off p.n = p.data.toNat % 256 ^ p.n ∧ t.net = s0.net ++ m.done vals)) ∧
    (∀ d : Deposit, msg = .deposit d → d.core = core → s0.arrive core = .take → (s0.core core).fenced = false → (s0.core core).dead = false →
      (s0.group core = none → exec .mailboxDeposit s = .next (s0.send (d.refuse .xlateNone))) ∧
      ∀ g, s0.group core = some g → (g.dom ≠ d.dom → exec .mailboxDeposit s = .next (s0.send (d.refuse .xlatePerm))) ∧
        (g.dom = d.dom → (g.ring d.ring).nslot = 0 → exec .mailboxDeposit s = .next (s0.send (d.refuse .queue))) ∧
        (g.dom = d.dom → d.ring < 4 → (g.ring d.ring).msgs.length < (g.ring d.ring).nslot → (g.ring d.ring).waiting = [] →
          ∃ t h, exec .mailboxDeposit s = .next t ∧ t.net = s0.net ++ [d.ack] ∧ t.group core = some h ∧ MemSame s t ∧
            (h.ring d.ring).msgs = (g.ring d.ring).msgs ++
              [{ slot := (g.ring d.ring).tail, nw := d.words.length, sender := d.who.core }] ∧ h.threads = g.threads ∧
            (∀ k v, d.words[k]? = some v → read64 h.spData ((g.ring d.ring).base + (g.ring d.ring).tail * 64 + 8 * k) = v) ∧
            SpSameBut s t core ((g.ring d.ring).base + (g.ring d.ring).tail * 64) (8 * d.words.length)))

/-! ## Events: cores -/

/-- Asynchronous causes and held threads (14 R254, R259, R261): a running thread with `INH` = 0 takes its oldest pending cause with `A` = 1
and its PC in `TEPC`; firmware's release of a held thread runs it again where its record says.
Waiters (11 R222 to R227, 17 R319, 18 R336): the first waiter due at a bank has its agent's turn next, and stays due until then when that agent can
run; any that found the queue full presents itself again; `act.swap` exchanges the tables at its boundary; and an agent that observes a barrier object,
or that found the wait entries full, executes its instruction again: a `bar.wait` whose object's phase has changed retires with word 1, and an
`ev.wait` retires with its quarter once its bits are set, or takes a free wait entry. -/
def Obligations.ThreadsAndWaiters : Prop :=
  (∀ (s : State) (core k : Nat) (g : Group) (th : Thread), s.group core = some g → s.agent { core := core, issuer := .thread k } = some th →
     let w : Who := { core := core, issuer := .thread k }
     (s.canRun w = true → ∀ (a : Async) (rest : List Async), th.status = .running → th.inh = false → th.pend = a :: rest → a.jidx = none → a.cause.machine = false →
       fld g.tvec 54 2 ≠ 0 → ∃ t u, exec .asyncTrapEntry (s.select core k) = .next t ∧ t.agent w = some u ∧ u.tepc = th.pc ∧ u.tval = a.tval ∧
         u.causeCode = a.cause.code ∧ u.tcause.getLsbD 9 = true ∧ u.tcause.getLsbD 10 = th.kernel ∧ u.inh = true ∧ u.kernel = true ∧
         u.pc = w64 (fld g.tvec 54 2 * 4) ∧ u.pend = rest ∧ u.x = th.x ∧ u.v = th.v ∧ u.xlive = th.xlive ∧ MemSame s t ∧ SpSame s t) ∧
     (s.canRun w = true → ∀ (a : Async) (rest : List Async), th.status = .running → th.inh = false → th.pend = a :: rest → a.jidx = none →
       (a.cause.machine = true ∧ a.srce = 0) ∨ fld g.tvec 54 2 = 0 → ∃ t u, exec .asyncTrapEntry (s.select core k) = .next t ∧ t.agent w = some u ∧
         u = { th with status := .held, wait := .none, prog := Prog.idle, pend := rest } ∧
         t.sup = s.sup ++ [{ core := core, t := k, wid := th.wid, code := a.cause.code, tepc := th.pc, tval := a.tval }]) ∧
     (th.pend = [] ∨ th.inh = true ∨ th.status ≠ .running ∨ s.canRun w = false → exec .asyncTrapEntry (s.select core k) = .next (s.select core k)) ∧
     (∀ (r : SupRec) (old : List SupRec), th.status = .held → s.sup = old ++ [r] → r.core = core → r.t = k → r.wid = th.wid →
       exec .releaseHeldThread (s.select core k) = .next ((s.select core k).setAgent w { th with status := .running, pc := r.tepc }))) ∧
  (∀ (s : State) (core k b : Nat) (th : Thread) (g : Group), s.group core = some g → b < 3 →
     let w := whoAt core k
     let bank := (s.core core).bank b
     let s0 : State := { s.select core k with cur := w }
     (∀ word parts rest, s.agent w = some th → bank.due = Waiter.own w.issuer word parts :: rest →
       ∃ t, exec .waiterReevaluation (s.select core b) = .next t ∧
         ((t.core core).bank b).due = (if s.canRun w then bank.due else rest) ∧
         t.agent w = some { th with prog := { th.prog with note := 1 } } ∧ t.due.head? = some (.agent w) ∧ MemSame s t ∧ SpSame s t) ∧
     (bank.due = [] → exec .waiterReevaluation (s.select core b) = .next (s.select core b)) ∧
     (∀ x word parts, s.agent w = some th → bank.retry[x]? = some (Waiter.own w.issuer word parts) →
       exec .waitQueueRetry (s.select core (b + 3 * x)) = .next ((s.select core (b + 3 * x)).now (.agent w))) ∧
     (∀ j, g.threads[j]? = some th → th.prog.inst = some .actSwap → th.prog.stage = 16 → g.tablesHeld j th.issued = false →
       (∀ i u, i < j → g.threads[i]? = some u → u.prog.inst ≠ some .actSwap) → ∃ t u h,
         exec .actSwapBoundary (s.select core 0) = .next t ∧ t.agent { core := core, issuer := .thread j } = some u ∧ u.pc = th.pc + 8 ∧
         u.retired = th.retired + 1 ∧ u.x = th.x ∧ t.group core = some h ∧ h.act = g.shadow ∧ h.shadow = g.act ∧ MemSame s t ∧ SpSame s t) ∧
     (s.agent w = some th → s.canRun w = true → NoneOutstanding s0 →
       (∀ o sc d a r, th.prog.inst = some (.barWait o sc d a r) →
         exec .barWaitPoll (s.select core k) = exec (.barWait o sc d a r) s0 ∧
         (Ready s0 th [a, r] [] → Unwatched s core → BanksIdle s core → (th.rx a).toNat % 16 = 0 → (th.rx a).toNat + 16 ≤ g.alloc →
           (th.rx a).toNat + 16 ≤ 0x180000 → (read64 g.spData ((th.rx a).toNat + 8)).extractLsb' 32 31 ≠ (th.rx r).extractLsb' 0 31 →
           exec .barWaitPoll (s.select core k) =
             .next ((s0.acquire core o sc).retireX d (read64 g.spData ((th.rx a).toNat + 8)) 8))) ∧
       (∀ o sc d a q rc r, th.prog.inst = some (.evWait o sc d a q rc r) →
         exec .evWaitRepresent (s.select core k) = exec (.evWait o sc d a q rc r) s0 ∧
         (let cl := if rc then (th.rx r).toNat % 64 else core / 32
          let e := (s.cluster cl).quarter q.toNat
          let done (v : W64) : Prop := exec .evWaitRepresent (s.select core k) = .next ((s0.acquire core o sc).retireX d v 8)
          Ready s0 th (if rc then [a, r] else [a]) [] → (s.cluster cl).fenced = false →
           vget none (s.cluster cl).owner q.toNat = some g.dom →
           (∀ v, find th.prog.got 0 = some v → done v) ∧
           (find th.prog.got 0 = none → (∀ x ∈ (s.cluster cl).waits, x.1 ≠ w) → (e &&& th.rx a = th.rx a → done e) ∧
             (e &&& th.rx a ≠ th.rx a → (s.cluster cl).waits.length < 64 → ∃ t, exec .evWaitRepresent (s.select core k) = .next t ∧
               (t.cluster cl).waits = (s.cluster cl).waits ++ [(w, q.toNat)] ∧
               t.agent w = some { th with wait := .sync, prog := { th.prog with stage := 16, note := 0 } } ∧ MemSame s t ∧ SpSame s t))))) ∧
     (s.agent w = some th → th.prog.inst = none → exec .barWaitPoll (s.select core k) = .next (s.select core k) ∧
       exec .evWaitRepresent (s.select core k) = .next (s.select core k)))

/-- A core that dies and the flags of a cluster (06 R105, 09 R180, 17 R294, 26 R435): an expired watchdog stops the core, its declaration empties its
caches, and, where no group is resident, raises its incarnation and marks its words LOST; what was raised joins `FLAGUNION`, which firmware
clears on B1 bit by bit; and firmware sets and clears event bits. -/
def Obligations.CoreDeathAndUnions : Prop :=
  ∀ (s : State) (core cl q : Nat) (mask : W64), core < 2048 → cl < 64 → q < 4 →
    let k := s.cluster cl
    (∃ t, exec .coreWatchdogExpiry (s.select core 0) = .next t ∧ t.core core = { s.core core with dead := true } ∧
      (∀ c, c ≠ core → t.core c = s.core c) ∧ t.due.head? = some (.event .coreDeathDeclaration core 0) ∧ MemSame s t) ∧
    (∃ t, exec .coreDeathDeclaration (s.select core 0) = .next t ∧ (t.core core).dead = false ∧ (t.core core).cache = [] ∧
      (t.core core).tlb = [] ∧ (t.core core).fetch = [] ∧
      (s.group core = none → (∀ h r, .reg r ∈ (s.slice h).queue → r.core = core → r.inc = (s.core core).inc) → (t.core core).inc = (s.core core).inc + 1 ∧ ∀ h, ∀ e ∈ (t.slice h).table, e.owner = core → e.lost = true)) ∧
    (exec .flagunionSet (s.select cl 0) =
      .next ((s.select cl 0).setCluster cl { k with union := k.union ||| k.raised.setWidth 64, raised := 0 })) ∧
    (s.a1 = false → ∃ t, exec (.flagunionClear cl mask) s = .next t ∧ t.cluster cl = { k with union := k.union &&& ~~~mask } ∧ MemSame s t ∧
      ∀ c, c ≠ cl → t.cluster c = s.cluster c) ∧
    (k.waits = [] → exec (.firmwareEventSet cl q mask true) s =
      .next (s.setCluster cl { k with ev := vset k.ev q (k.quarter q ||| mask) })) ∧
    (exec (.firmwareEventSet cl q mask false) s = .next (s.setCluster cl { k with ev := vset k.ev q (k.quarter q &&& ~~~mask) }))

/-! ## Events: the hubs and jobs -/

/-- A record at its hub (17 R301 to R306, R308, R311, R312): it is refused with its code, or takes the lowest free slot and the next serial number, and is
admitted at once when it waits for no bit; the hub's cycle admits a record whose bits are set, and places a pending gang on a span that fits it; a hub
whose bits are not set, or that is dead, admits nothing; a gang's retirement counts, and the last one sets the completion bits; a failure drops the
pending gangs and is told to the supervisor; a level passed 64 times reserves a span. That a record takes the lowest free slot, that its failure
record has `TVAL` = the record's address, and how far after its placement a gang starts are the model's choices (notes/assumptions/18.md). -/
def Obligations.LaunchEvents : Prop :=
  ∀ (s : State) (d slot : Nat), d < 8 →
    let h := s.hub d
    (∀ (p : Post) (w : Who) (seq : Nat) (s0 : State), s.takeMsg = some (.record p, s0) → p.who = some (w, seq) → p.bell = none → p.objs = [] →
      recWord p.words 7 = 0 →
      let code := s0.postCode p.die p.dom p.words false
      let hub := s0.hub p.die
      let free := hub.freeSlot
      (code ≠ 0 → exec .recordAccept s = .next (s0.send (.amoRep w none seq [0] (.ok [(0, w64 code)])))) ∧
      (code = 0 → ∃ t l, exec .recordAccept s = .next t ∧ find (t.hub p.die).slots free = some l ∧ l.words = p.words ∧ l.addr = p.addr ∧
        l.dom = p.dom ∧ l.serial = hub.serial + 1 ∧ (t.hub p.die).serial = hub.serial + 1 ∧ l.failed = none ∧ l.ready = (recWord p.words 4 == 0) ∧
        t.net = s0.net ++ [.amoRep w none seq [0] (.ok [(0, w64 (p.die * 2 ^ 8 + free * 2 ^ 11 + (hub.serial + 1).toNat * 2 ^ 32))])] ∧
        (recWord p.words 4 ≠ 0 → (t.hub p.die).queue = hub.queue) ∧
        (recWord p.words 4 = 0 → ∃ q ∈ (t.hub p.die).queue, q.home = p.die ∧ q.slot = free ∧ q.lo = 0 ∧ q.n = recN p.words ∧
          q.level = recPrio p.words))) ∧
    (h.dead = true ∨ s.live = false → exec .hubCycle (s.select d 0) = .next (s.select d 0)) ∧
    (∀ l : Launch, h.dead = false → s.live = true → h.queue = [] → h.slots = [(slot, l)] → l.ready = false → s.groupsOf d = [] →
      (s.cluster (recEvcl l.words)).quarter (recField l.words 3 49 48) &&& recWord l.words 4 ≠ recWord l.words 4 →
      ∃ t, exec .hubCycle (s.select d 0) = .next t ∧ (t.hub d).slots = h.slots ∧ (t.hub d).queue = [] ∧ MemSame s t ∧ SpSame s t) ∧
    (∀ l : Launch, h.dead = false → s.live = true → h.slots = [(slot, l)] → l.failed = none → s.groupsOf d = [] → recN l.words ≠ 0 →
      let q (n : Nat) : Pend := { home := d, slot := slot, lo := 0, n := recN l.words, level := recPrio l.words, stolen := none,
                                  objs := l.co.getD [], answer := l.answer d slot, was := none, turn := n }
      (h.queue = [] → l.ready = false → (∀ die, s.spans (q h.admits) die [] = []) →
        (s.cluster (recEvcl l.words)).quarter (recField l.words 3 49 48) &&& recWord l.words 4 = recWord l.words 4 →
        ∃ t, exec .hubCycle (s.select d 0) = .next t ∧ (t.hub d).queue = [q h.admits] ∧ (t.hub d).admits = h.admits + 1 ∧
          find (t.hub d).slots slot = some { l with ready := true, turn := h.admits } ∧ MemSame s t ∧ SpSame s t) ∧
      (∀ n img, h.queue = [q n] → l.ready = true → l.co = none → recN l.words = 1 → recAmode l.words = 0 → s.spans (q n) d [] ≠ [] →
        s.outranked (recPrio l.words) d = false → s.image l.dom l.words = .ok img → ∃ t first k l', exec .hubCycle (s.select d 0) = .next t ∧
          first ∈ s.spans (q n) d [] ∧ (t.hub d).queue = [] ∧ find (t.hub d).slots slot = some l' ∧ l'.out = l.out + 1 ∧
          find t.gangs (s.nextGang + 1) = some k ∧ k.home = d ∧ k.slot = slot ∧ k.num = 0 ∧ k.placed = s.gtick ∧ s.gtick < k.start ∧
          k.cores = (List.range (recGroups l.words)).map (fun j => first + j) ∧ MemSame s t ∧
          ∀ j, j < recGroups l.words → t.group (first + j) =
            some { recGroup l.words l.addr (s.domain l.dom) l.dom (s.nextGang + 1) 0 j img with lastRetire := s.gtick })) ∧
    (∀ (l : Launch) (num : Nat) (s0 : State), s.takeMsg = some (.retired d slot num none, s0) → h.dead = false → find h.slots slot = some l →
      l.failed = none → ∃ t l', exec .gangRetirementReport s = .next t ∧ find (t.hub d).slots slot = some l' ∧ l'.retired = l.retired + 1 ∧
        l'.out = l.out - 1 ∧ l' = { l with out := l'.out, retired := l'.retired } ∧
        (l.retired + 1 = recN l.words → Turn.event .completionSet d slot ∈ t.due)) ∧
    (∀ l : Launch, find h.slots slot = some l → l.failed = none → recN l.words ≤ l.retired → (s.cluster (recEvcl l.words)).waits = [] →
      recField l.words 3 51 50 < 4 → ∃ t, exec .completionSet (s.select d slot) = .next t ∧ find (t.hub d).slots slot = none ∧
        (t.cluster (recEvcl l.words)).quarter (recField l.words 3 51 50) =
          (s.cluster (recEvcl l.words)).quarter (recField l.words 3 51 50) ||| recWord l.words 5 ∧
        t.host.sent = s.host.sent ++ (if l.vec = 0 then [] else [l.vec])) ∧
    (∀ (l : Launch) (c : Cause), find h.slots slot = some l → l.failed = some c → l.told = false → ∃ t, exec .launchFailure (s.select d slot) = .next t ∧
      (∀ p ∈ (t.hub d).queue, p.home ≠ d ∨ p.slot ≠ slot) ∧ (∃ r, t.sup = s.sup ++ [r] ∧ r.code = c.code ∧ r.tval = l.addr) ∧
      ∀ l', find (t.hub d).slots slot = some l' → l'.told = true ∧ l'.out ≠ 0) ∧
    (∀ (p : Pend) (die r b : Nat), h.queue.find? (fun q => q.level == slot) = some p → 64 ≤ h.passedOf slot →
      (∀ x ∈ h.reserve, x.level ≠ slot) → die ∈ s.dies d p → r < 32 → recGroups (s.pendWords p) + b ≤ 8 →
      (∀ k, k < recGroups (s.pendWords p) → s.coreFenced (die * 256 + r * 8 + b + k) = false) →
      ∃ t x, exec .headReservation (s.select d slot) = .next t ∧ (t.hub d).reserve = h.reserve ++ [x] ∧ x.level = slot ∧
        x.head = p.head ∧ x.count = recGroups (s.pendWords p) ∧ x.first % 8 + x.count ≤ 8 ∧ ∀ k, k < x.count → s.coreFenced (x.first + k) = false)

/-- Resident gangs (02 R26, R32, 17 R317, 20 R359 to R361, 25 R422): an expired quantum suspends a gang at the tick 2048 ahead; an expired watchdog holds the
running threads with code 0 and stops the feed cores, the latter the model's choice (notes/assumptions/18.md); at the agreed tick, every agent at a boundary, the gang stops; the last group of a `co.suspend` that is
saved frees its core, and a save that fails loses the gang; a claimed launch's maquette keeps its groups. -/
def Obligations.GangEvents : Prop :=
  ∀ (s : State) (id : Nat) (g : Gang), find s.gangs id = some g →
    let die := (g.cores.head?.map dieOf).getD 0
    (∀ q as, g.placed + s.quantum ≤ s.gtick → s.topLevel die g.prio = true → (s.waiter die true fun q => q.level == g.prio) = some q → g.susp = none →
      s.gangHalted g = false → s.areasFor g 0 = some as → ∃ t u, exec .quantumExpiry (s.select id 0) = .next t ∧
        find t.gangs id = some { g with susp := some u } ∧ u.why = 1 ∧ u.agreed = s.gtick + 2048 ∧ u.objs = as ∧ u.claim = some q.head ∧
        MemSame s t ∧ SpSame s t) ∧
    (s.gtick < g.placed + s.quantum → exec .quantumExpiry (s.select id 0) = .next (s.select id 0)) ∧
    (∀ (core k : Nat) (gr : Group) (run : Thread), s.group core = some gr → s.dogDue gr = true → k < 4 → gr.threads[k]? = some run →
      run.status = .running → ∃ t h, exec .hubWatchdog (s.select core 0) = .next t ∧ t.group core = some h ∧ h.loader.run = false ∧ h.storer.run = false ∧
        (∀ j th, j < 4 → gr.threads[j]? = some th → ∃ u, h.threads[j]? = some u ∧ u.pc = th.pc ∧ u.x = th.x ∧
          u.status = if th.status = .running then .held else th.status) ∧ MemSame s t ∧ SpSame s t) ∧
    (∀ u : Susp, g.susp = some u → u.stopped = false →
      (s.gtick < u.agreed ∨ s.quiet id g = false → exec .agreedTick (s.select id 0) = .next (s.select id 0)) ∧
      (u.agreed ≤ s.gtick → s.quiet id g = true → u.objs = [] → ∃ t, exec .agreedTick (s.select id 0) = .next t ∧
        find t.gangs id = some { g with susp := some { u with stopped := true, saved := (s.retiredOf id g).map (·.2) }, latch := [] } ∧
        ∀ w ∈ s.gangAgents id g, ∀ th, t.agent w = some th → th.prog = Prog.idle)) ∧
    (∀ (u : Susp) (core : Nat), g.susp = some u → u.stopped = true → u.saved = [] → g.cores = [core] → u.why = 0 →
      s.saveReady id core = true → ∃ t, exec .saveBodyWrite (s.select id 0) = .next t ∧ find t.gangs id = none ∧
        match (s.select id 0).saveGroup id g u 0 core with
        | .ok s1 => (s1.holds id core = true → t.group core = none) ∧ t.net = s1.net ++ [.retired g.home g.slot g.num none]
        | .error _ => ∃ l, t.net = l ++ [.retired g.home g.slot g.num (some .saveLost)]) ∧
    (∀ (u : Susp) (core : Nat), g.susp = some u → u.stopped = true → u.saved = [] → g.cores = [core] → s.saveReady id core = false →
      exec .saveBodyWrite (s.select id 0) = .next (s.select id 0)) ∧
    (∀ (l : Launch), find (s.hub g.home).slots g.slot = some l → (l.claimed = false ∨ s.gtick < l.nextMq →
        exec .maquette (s.select g.home g.slot) = .next (s.select g.home g.slot)) ∧
      (l.claimed = true → l.nextMq ≤ s.gtick →
        (∀ e ∈ s.gangsOf g.home g.slot, s.quiet e.1 e.2 = true ∧ ∀ c ∈ s.coresOf e.1 e.2, s.saveReady e.1 c = true) →
        ∃ t l', exec .maquette (s.select g.home g.slot) = .next t ∧ find (t.hub g.home).slots g.slot = some l' ∧ l'.nextMq = l.nextMq + l.period ∧
          MemSame s t ∧ SpSame s t ∧ ∀ c gr, s.group c = some gr → gr.gang = id → ∃ m, t.maquettes = s.maquettes ++ [m] ∧
            m.die = g.home ∧ m.slot = g.slot ∧ (find m.groups c).isSome = true))

/-- Stealing (17 R313 to R315, Table 7): a victim lends at most 16 gangs from a tail and offers them; the thief acknowledges an offer of its own
incarnation that it can place; an ACK in time is confirmed, a late one is answered so and the range goes back; a confirmed range joins the thief's queue; a
placed gang is forgotten; a reset raises the incarnation, which the others are told of; the range of a dead victim stays with its thief, and its launch
fails, as does one of which the thief has placed a lent gang. The one record of such a launch, and what a reset hub keeps and drops, are the model's
readings (notes/assumptions/18.md). -/
def Obligations.StealEvents : Prop :=
  ∀ (s : State) (v th : Nat) (p : Pend), v < 8 → th < 8 → v ≠ th →
    (∀ (s0 : State) (msg : Msg) (inc vinc : BitVec 16), s.takeMsg = some (msg, s0) →
      let vic := s0.hub v
      let thief := s0.hub th
      let own : Prop := thief.inc = inc ∧ thief.dead = false
      let offered : Prop := thief.offers = [{ victim := v, range := p }]
      (msg = .stealReq th inc v → (vic.dead = true ∨ s0.lendable v = none → exec .stealReq s = .next s0) ∧
        (vic.dead = false → s0.lendable v = some p → ∃ t r, exec .stealReq s = .next t ∧ r.n = min 16 p.n ∧ r.lo + r.n = p.lo + p.n ∧
          r.home = p.home ∧ r.slot = p.slot ∧ t.net = s0.net ++ [.stealOffer v vic.inc th inc r (s0.gtick + 4096)] ∧
          (t.hub v).loans = vic.loans ++ [{ thief := th, inc := inc, dl := s0.gtick + 4096, range := r, acked := false }])) ∧
      (∀ dl, msg = .stealOffer v vinc th inc p dl → (¬ own → exec .stealOffer s = .next s0) ∧
        (own → vic.dead = false → s0.spans { p with stolen := some v } th [] ≠ [] → ∃ t, exec .stealOffer s = .next t ∧
          t.net = s0.net ++ [.stealAck th inc v p] ∧ (t.hub th).offers = thief.offers ++ [{ victim := v, range := p }]) ∧
        (own → vic.dead = false → s0.spans { p with stolen := some v } th [] = [] →
          exec .stealOffer s = .next (s0.send (.stealNak th inc v p))) ∧
        (own → vic.dead = true → ∃ t, exec .stealOffer s = .next t ∧ { p with stolen := some v, turn := thief.admits } ∈ (t.hub th).queue)) ∧
      (∀ l, vic.loans = [l] → l.thief = th → l.inc = inc → l.range = p → l.acked = false →
        (msg = .stealAck th inc v p → vic.dead = false →
          (s0.gtick ≤ l.dl → ∃ t, exec .stealAck s = .next t ∧ t.net = s0.net ++ [.stealConfirm v vic.inc th inc p] ∧
            (t.hub v).loans = [{ l with acked := true }] ∧ (t.hub v).queue = vic.queue) ∧
          (l.dl < s0.gtick → ∃ t, exec .stealAck s = .next t ∧ t.net = s0.net ++ [.stealLate v vic.inc th inc p] ∧ (t.hub v).loans = [] ∧
            (vic.queue = [] → p.n ≠ 0 → (t.hub v).queue = [p]))) ∧
        (msg = .stealNak th inc v p → ∃ t, exec .stealNak s = .next t ∧ (t.hub v).loans = [] ∧ t.net = s0.net ∧
          (vic.queue = [] → p.n ≠ 0 → (t.hub v).queue = [p])) ∧
        (∀ slot num, msg = .stealPlaced th vinc v slot num → p.home = v → p.slot = slot → p.lo ≤ num → num < p.lo + p.n →
          ∃ t, exec .stealPlaced s = .next t ∧ (∀ x ∈ (t.hub v).loans, num < x.range.lo ∨ x.range.lo + x.range.n ≤ num) ∧
            (t.hub v).queue = vic.queue)) ∧
      (msg = .stealConfirm v vinc th inc p → own → offered → ∃ t, exec .stealConfirm s = .next t ∧ (t.hub th).offers = [] ∧
        { p with stolen := some v, turn := thief.admits } ∈ (t.hub th).queue ∧ t.net = s0.net) ∧
      (msg = .stealLate v vinc th inc p → own → offered → ∃ t, exec .stealLate s = .next t ∧ (t.hub th).offers = [] ∧
        (t.hub th).queue = thief.queue) ∧
      (msg = .incarnation th inc v → (∀ m ∈ s.net, Msg.fromHub th v m = false) → ∃ t, exec .incarnationAnnouncement s = .next t ∧
        ∀ x ∈ (t.hub v).loans, x.thief = th → x.inc = inc)) ∧
    (∀ l : Loan, (s.hub v).loans = [l] → l.acked = false → l.dl < s.gtick → ∃ t, exec .stealDeadline (s.select v 0) = .next t ∧
      (t.hub v).loans = [] ∧ ((s.hub v).queue = [] → l.range.n ≠ 0 → (t.hub v).queue = [l.range])) ∧
    (∃ t, exec .hubReset (s.select v 0) = .next t ∧ (t.hub v).inc = (s.hub v).inc + 1 ∧ (t.hub v).offers = [] ∧
      (∀ q ∈ (t.hub v).queue, q.stolen = none) ∧ ∀ d, d < 8 → d ≠ v → Msg.incarnation v ((s.hub v).inc + 1) d ∈ t.net) ∧
    (let fails (t : State) (home slot : Nat) : Prop := ∀ l, find (s.hub home).slots slot = some l → l.failed = none →
       (∃ r ∈ t.sup, r.tval = l.addr) ∧ ∃ l', find (t.hub home).slots slot = some l' ∧ l'.failed.isSome = true ∧ l'.told = true
     ((s.hub th).offers = [{ victim := v, range := p }] → ∃ t, exec .victimDeathNotice (s.select th v) = .next t ∧
       (t.hub v).dead = true ∧ (t.hub th).offers = [] ∧ { p with stolen := some v, turn := (s.hub th).admits } ∈ (t.hub th).queue ∧
       fails t p.home p.slot) ∧
     ∀ e ∈ s.gangs, e.2.stolen = some v → e.2.cores.head?.map dieOf = some th →
       ∃ t, exec .victimDeathNotice (s.select th v) = .next t ∧ (t.hub v).dead = true ∧ fails t e.2.home e.2.slot)

/-- Engine jobs (18 R324, R327 to R333). A card is accepted into its engine's inbox while there is room, and refused by an engine of a fenced cluster; a
startable one starts; a unit of FILL writes one line part of the pattern; a complete REDUCE set is combined in ascending `WID` and written once; a job
that completes or fails counts in `JSTAT`, and its reply joins its queue register once that has room, is held for a suspended group, or has none when the
group is gone. -/
def Obligations.JobEvents : Prop :=
  ∀ (s : State) (id : Nat) (j : Job),
    let w0 := cardWord j.card 0
    let op := w0.toNat % 256
    let bar := cardWord j.card 1
    let q := (cardWord j.card 2).toNat / 4 % 8
    let wr := cardRegion j.card 3
    (∀ (s0 : State) (seq : Nat), s.takeMsg = some (.card seq j, s0) →
      ((s0.cluster j.cluster).fenced = true → exec .jobAccept s =
        .next (s0.send (.amoRep j.who none seq [0] (.trap .xlateNone (w64 (j.cluster + j.kind * 2 ^ 8)))))) ∧
      ((s0.cluster j.cluster).fenced = false → s0.jobs = [] → ∃ t, exec .jobAccept s = .next t ∧
        find t.jobs (s0.nextJob + 1) = some { j with st := .inbox } ∧ t.nextJob = s0.nextJob + 1 ∧
        t.net = s0.net ++ [.amoRep j.who none seq [0] (.ok [(0, 0)])] ∧ MemSame s t ∧ SpSame s t)) ∧
    (find s.jobs id = some j →
      (s.startable id j = false → exec .jobStart (s.select id 0) = .next (s.select id 0)) ∧
      (s.startable id j = true → op ≠ 0x20 → ∃ t, exec .jobStart (s.select id 0) = .next t ∧ MemSame s t ∧ SpSame s t ∧
        find t.jobs id = some { j with st := if (if op = 0x11 then (cardRegion j.card 0).2 else wr.2) = 0 then .ended 0 0 false else .running 0 [] }) ∧
      (s.startable id j = true → op = 0x20 → s.jobs = [(id, j)] → (cardArg j.card 1).toNat % 128 ≠ 1 → ∃ t, exec .jobStart (s.select id 0) = .next t ∧
        MemSame s t ∧ SpSame s t ∧ find t.jobs id = some { j with st := .held 0 [] 0 }) ∧
      (∀ (done : Nat) (g : Group), j.st = .running done [] → op = 2 → bar = 0 → done < wr.2 → wr.1 + wr.2 ≤ 0x180000 →
        let dst := wr.1 + done
        let n := min (64 - dst % 64) (wr.2 - done)
        EngineNear s j g dst n → ∃ t h, exec .engineUnit (s.select id 0) = .next t ∧ t.group j.origin = some h ∧ MemSame s t ∧
          (∀ k, k < n → (byteAt h.spData (dst + k)).toNat = (cardArg j.card 0).toNat / 256 ^ ((done + k) % 8) % 256) ∧
          SpSameBut s t j.origin dst n ∧
          find t.jobs id = some { j with st := if wr.2 ≤ done + n then .ended 0 (done + n) false else .running (done + n) [] }) ∧
      (∀ (done : Nat) (b : Bool) (g : Group), j.st = .ended 0 done b → s.jobGroup j = some g → s.jobPaused j = false →
        let word := w64 (w0.toNat / 2 ^ 32 + j.cond.toNat % 64 * 2 ^ 40)
        ∃ t h, exec .jobComplete (s.select id 0) = .next t ∧ t.group j.origin = some h ∧ h = { g with jdone := g.jdone + 1, jinfl := g.jinfl - 1 } ∧
          ((cardWord j.card 2).toNat % 4 = 1 → j.recorded = false → find t.jobs id = some { j with st := .reply word } ∧ t.net = s.net ++ [.reply id]) ∧
          ((cardWord j.card 2).toNat % 4 ≠ 1 → find t.jobs id = none)) ∧
      (∀ (st done k : Nat) (b : Bool) (g : Group) (th : Thread), j.st = .ended st done b → st ≠ 0 → st < 256 → bar = 0 → s.jobGroup j = some g → s.jobPaused j = false →
        j.who.issuer = .thread k → g.threads[k]? = some th → th.status = .running → ∃ t h u, exec .jobFail (s.select id 0) = .next t ∧
          t.group j.origin = some h ∧ h.jlast.toNat = st ∧ h.jdone = g.jdone + 1 ∧ h.jinfl = g.jinfl - 1 ∧ h.threads[k]? = some u ∧
          u = { th with pend := th.pend ++ [{ cause := .engine, tval := 0, srce := 0, fpc := 0, jidx := none }] }) ∧
      ∀ (s0 : State) (word : W64), s.takeMsg = some (.reply id, s0) → j.st = .reply word →
        (s.jobGroup j = none → exec .replyDeposit s = .next { s0 with jobs := del s0.jobs id }) ∧
        ∀ g, s.jobGroup j = some g →
          (s.arrive j.origin = .take → (g.queue q).length < 8 → ∃ t h, exec .replyDeposit s = .next t ∧ find t.jobs id = none ∧
            t.group j.origin = some h ∧ h = g.setQueue q (g.queue q ++ [word])) ∧
          (s.arrive j.origin = .take → 8 ≤ (g.queue q).length → exec .replyDeposit s = .next s) ∧
          (∀ gang gidx, s.arrive j.origin = .hold gang gidx →
            exec .replyDeposit s = .next (s0.holdMsg gang gidx j.origin (.reply id)))) ∧
    (∀ (i2 : Nat) (j2 : Job) (b1 b2 : List Byte) (g : Group), s.jobs = [(id, j), (i2, j2)] → 1 ≤ id → id < i2 → j.wid ≠ j2.wid → j.st = .held id b1 0 →
      j2.st = .held id b2 0 → bar = 0 → cardBar j2.card = 0 → b1.length = b2.length →
      let len := b1.length
      let first := j.wid.toNat < j2.wid.toNat
      let lead := if first then j else j2
      let arg := (cardArg lead.card 1).toNat
      let r := reduceAll (arg / 2 ^ 8 % 16) (arg / 2 ^ 12 % 4) (if first then [b1, b2] else [b2, b1])
      let dst := (cardRegion lead.card 3).1
      (cardRegion j.card 0).2 = len → (cardRegion j2.card 0).2 = len → r.1.length = len → 1 ≤ len → dst % 64 + len ≤ 64 → EngineNear s lead g dst len →
      ∃ t h, exec .reduceSetComplete (s.select id 0) = .next t ∧ t.group lead.origin = some h ∧ MemSame s t ∧
        (∀ k, k < len → some (byteAt h.spData (dst + k)) = r.1[k]?) ∧ SpSameBut s t lead.origin dst len ∧
        find t.jobs id = some { j with st := .ended 0 len false, cond := r.2.setWidth 64 } ∧
        find t.jobs i2 = some { j2 with st := .ended 0 len false, cond := r.2.setWidth 64 }) ∧
    exec .reduceSetComplete (s.select 0 0) = .next (s.select 0 0)

/-! ## Events: controller, module and links -/

/-- The mailbox (26 R428 to R434, Tables 3 to 6). While another command runs, and where `STATE` does not allow it, a command has no effect but its answer;
the log is read oldest first, an image is staged, refused or committed, a policy is set or refused, a unit is fenced, and the trace registers
are read and written. The model's own: `SET_POLICY` takes item 2 until the map is used and answers 2 afterwards, and `FENCE_UNIT` takes a stack
for the next reset (notes/assumptions/24.md); a record that `READ_FAILURE_LOG` answers leaves the log (27.md). -/
def Obligations.ControllerCommands : Prop :=
  ∀ (s : State), s.mgmt.busy = false →
    let up := s.mgmt.state = 3
    let m (k : Nat) : W64 := s.marg k
    let done (i : Instr) (stat : Nat) (p : State → Prop) : Prop := ∃ t, exec i s = .next t ∧ t.mgmt.busy = false ∧ t.mgmt.mstat = stat ∧
      MemSame s t ∧ SpSame s t ∧ p t
    (s.mgmt.state ≠ 3 → ∀ i, i ∈ [Instr.setPolicy, .fenceUnit, .readTraceRegister, .writeTraceRegister, .claimLaunch, .releaseClaim, .resumeOrStep,
      .readState, .writeState, .setWatchpoint, .reverseStep, .stopAtTickCommand, .readRegistrationEntry, .readModuleCounter, .readScratchpadWord,
      .writeScratchpadWord, .readDebugEvent] → done i 2 fun t => t.cores = s.cores ∧ t.mgmt.margs = s.mgmt.margs) ∧
    (∀ (u : State) (code : Nat), u = { s with mgmt := { s.mgmt with busy := true, mcmd := code } } → code ≠ 0x0020 →
      exec .setPolicy u = .next u) ∧
    (s.mgmt.log = [] → done .readFailureLog 0 fun t => t.mgmt.margs = #v[0, 0, 0, 0]) ∧
    (∀ r rest, s.mgmt.log = r :: rest → done .readFailureLog 0 fun t => t.mgmt.margs = #v[r.w0, r.w1, r.w2, r.w3] ∧ t.mgmt.log = rest) ∧
    (∀ img : Image, (img.valid = true → done (.stageImage img) 0 fun t => t.mgmt.staged = some img ∧ t.mgmt.image = s.mgmt.image) ∧
      (img.valid = false → done (.stageImage img) 4 fun t => t.mgmt.staged = s.mgmt.staged)) ∧
    (∀ img, s.mgmt.staged = some img → done .commitImage 0 fun t => t.mgmt.image = some img) ∧
    (s.mgmt.staged = none → done .commitImage 4 fun t => t.mgmt.image = s.mgmt.image) ∧
    (up → m 0 = 1 → done .setPolicy 0 fun t => t.quantum = (m 1).toNat) ∧
    (up → m 0 = 2 → (s.mapUsed = true → done .setPolicy 2 fun t => t.localMap = s.localMap) ∧
      (s.mapUsed = false → s.mgmt.fencedStacks = [] → (m 1).toNat ≤ 1 → done .setPolicy 0 fun t => t.localMap = ((m 1).toNat == 1)) ∧
      (s.mapUsed = false → 2 ≤ (m 1).toNat → done .setPolicy 3 fun t => t.localMap = s.localMap)) ∧
    (up → m 0 = 3 → done .setPolicy 0 fun t => t.watchdog = (m 1).toNat) ∧
    (up → m 0 = 5 → (1000 ≤ (m 1).toNat ∧ (m 1).toNat ≤ 6400 → done .setPolicy 0 fun t => t.mgmt.powerCap = (m 1).toNat) ∧
      ((m 1).toNat < 1000 ∨ 6400 < (m 1).toNat → done .setPolicy 3 fun t => t.mgmt.powerCap = s.mgmt.powerCap)) ∧
    (up → m 0 = 7 → (m 1).toNat < 2 ^ 16 → done .setPolicy 0 fun t => ∀ d, d < 16 → (t.domain d).sealRight = (m 1).getLsbD d) ∧
    (up → m 0 = 0 ∨ 8 ≤ (m 0).toNat → done .setPolicy 3 fun t => t.cores = s.cores) ∧
    (up → m 0 = 1 → (m 1).toNat < 2048 → (s.core (m 1).toNat).fenced = false → done .fenceUnit 0 fun t => (t.core (m 1).toNat).fenced = true ∧
      Turn.event .coreDeathDeclaration (m 1).toNat 0 ∈ t.due) ∧
    (up → m 0 = 3 → (m 1).toNat < 32 → done .fenceUnit 0 fun t => (m 1).toNat ∈ t.outStacks) ∧
    (up → m 0 = 0 ∨ 7 ≤ (m 0).toNat → done .fenceUnit 3 fun t => t.cores = s.cores) ∧
    (up → (m 0).toNat < 5 → done .readTraceRegister 0 fun t => t.marg 1 = s.trace.reg (m 0).toNat) ∧
    (up → 5 ≤ (m 0).toNat → done .readTraceRegister 3 fun t => t.marg 1 = m 1) ∧
    (up → m 0 = 0 → (let p := (m 1).toNat / 2 ^ 32
      (p = 0 ∨ 4096 ≤ p → done .writeTraceRegister 0 fun t => t.trace.en = (m 1).getLsbD 0 ∧ t.trace.marks = (m 1).getLsbD 1 ∧
        t.trace.wrap = (m 1).getLsbD 2 ∧ t.trace.period.toNat = p) ∧
      (1 ≤ p ∧ p ≤ 4095 → done .writeTraceRegister 3 fun t => t.trace = s.trace))) ∧
    (up → m 0 = 1 → (s.trace.en = true → done .writeTraceRegister 3 fun t => t.trace = s.trace) ∧
      (s.trace.en = false → done .writeTraceRegister 0 fun t => t.trace.base = m 1 &&& 0x000FFFFFFFFFF000)) ∧
    (up → 3 ≤ (m 0).toNat → done .writeTraceRegister 3 fun t => t.trace = s.trace)

/-- The debug commands (25 R419, R422 to R425; 26 Table 6). A launch is claimed by its answer and released; a claimed group halts at its boundaries, its
state is read and written while it is halted, and it resumes or steps; a watchpoint is set, a tick to stop at is named, a point is reached backwards, and
entries, counters, scratchpad words and events are read. A command on a group that is not claimed answers 2, an argument out of range 3. The model's own
(notes/assumptions/25.md): what a position of `READ_REGISTRATION_ENTRY` names, that arguments are checked before the claim, and the answer 3 to a
claim or release that names no launch. -/
def Obligations.DebugCommands : Prop :=
  ∀ (s : State), s.mgmt.busy = false → s.mgmt.state = 3 →
    let m (k : Nat) : W64 := s.marg k
    let core := (m 0).toNat
    let done (i : Instr) (stat : Nat) (p : State → Prop) : Prop := ∃ t, exec i s = .next t ∧ t.mgmt.busy = false ∧ t.mgmt.mstat = stat ∧
      MemSame s t ∧ p t
    (∀ die slot l, s.launchOf (m 0) = some (die, slot, l) →
      (10 ≤ (m 1).toNat ∧ (m 1).toNat ≤ 10000 → done .claimLaunch 0 fun t => find (t.hub die).slots slot =
        some { l with claimed := true, period := (m 1).toNat * 1350, nextMq := s.gtick + (m 1).toNat * 1350 }) ∧
      (l.claimed = true → done .releaseClaim 0 fun t => find (t.hub die).slots slot = some { l with claimed := false, nextMq := 0 }) ∧
      (l.claimed = false → done .releaseClaim 3 fun t => t.hubs = s.hubs)) ∧
    (s.launchOf (m 0) = none → done .claimLaunch 3 (fun t => t.hubs = s.hubs) ∧ done .releaseClaim 3 fun t => t.hubs = s.hubs) ∧
    (core < 2048 → s.group core = none ∨ s.claimed core = false → done .resumeOrStep (if (m 1 ≠ 0 ∧ 4 ≤ (m 2).toNat) ∨ 65535 < (m 1).toNat then 3 else 2)
      fun t => t.cores = s.cores) ∧
    (∀ g, core < 2048 → s.group core = some g → s.claimed core = true →
      (g.halted = true → s.selB ≠ 1 → done .haltGroup 0 fun t => t.group core = some g) ∧
      (g.halted = false → s.selB ≠ 1 → ∃ t, exec .haltGroup s = .next t ∧ t.mgmt.busy = true ∧ t.group core = some { g with halting := true }) ∧
      (m 1 = 0 → done .resumeOrStep 0 fun t => t.group core = some g.unhalt) ∧
      (∀ th, 1 ≤ (m 1).toNat → (m 1).toNat ≤ 65535 → (m 2).toNat < 4 → g.threads[(m 2).toNat]? = some th → done .resumeOrStep 0 fun t =>
        ∃ h u, t.group core = some h ∧ h.halted = false ∧ h.threads[(m 2).toNat]? = some u ∧ u.stepsLeft = some (m 1).toNat ∧ u.pc = th.pc) ∧
      ((m 1).toNat % 8 = 0 → (m 1).toNat < g.alloc →
        done .readScratchpadWord 0 (fun t => t.marg 2 = read64 g.spData (m 1).toNat ∧ t.marg 3 = w64 (g.tagOf ((m 1).toNat / 8)) ∧ SpSame s t) ∧
        done .writeScratchpadWord 0 fun t => SpSameBut s t core (m 1).toNat 8 ∧ ∃ h, t.group core = some h ∧ read64 h.spData (m 1).toNat = m 2 ∧
          h.tagOf ((m 1).toNat / 8) = (m 3).toNat % 16) ∧
      ((m 1).toNat % 8 ≠ 0 → done .readScratchpadWord 3 (fun t => t.cores = s.cores) ∧ done .writeScratchpadWord 3 fun t => t.cores = s.cores)) ∧
    (∀ (c k item : Nat) (g : Group) (th : Thread), core = c + k * 2 ^ 11 + item * 2 ^ 16 → c < 2048 → k < 4 → s.group c = some g → s.claimed c = true →
      g.halted = true → g.threads[k]? = some th → g.threads.length = 4 →
      (item = 0 → m 1 = 0 → done .readState 0 (fun t => t.marg 2 = th.pc ∧ t.marg 3 = 0 ∧ t.cores = s.cores) ∧
        done .writeState 0 fun t => ∃ h, t.group c = some h ∧ h.threads[k]? = some { th with pc := m 2 &&& ~~~(3 : W64) }) ∧
      (∀ r : Reg, r ≠ 0 → item = 1 → (m 1).toNat = r.toNat → done .readState 0 (fun t => t.marg 2 = th.rx r ∧ t.marg 3 = w64 (natOf (th.liveX r)) ∧
          t.cores = s.cores) ∧
        done .writeState 0 fun t => ∃ h, t.group c = some h ∧ h.threads[k]? = some (th.wx r (m 2))) ∧
      (item = 0 → m 1 ≠ 0 → done .readState 3 (fun t => t.cores = s.cores) ∧ done .writeState 3 fun t => t.cores = s.cores)) ∧
    (∀ (c k kind : Nat) (g : Group), core = c + k * 2 ^ 11 + kind * 2 ^ 13 → c < 2048 → k < 4 → kind < 4 → s.group c = some g → s.claimed c = true → 1 ≤ (m 2).toNat →
      (m 2).toNat ≤ 2 ^ 32 → done .setWatchpoint 0 fun t => t.core c = { s.core c with
        watch := vset (s.core c).watch k { kind := kind, base := m 1, len := (m 2).toNat } }) ∧
    (m 2 = 0 → done .setWatchpoint 3 fun t => t.cores = s.cores) ∧
    (∀ (c k : Nat) (g : Group) (gang : Gang) (th : Thread) (p : Point) (ms : List Maquette), core = c + k * 2 ^ 11 → c < 2048 → k < 4 → s.group c = some g →
      s.claimed c = true → g.halted = true → find s.gangs g.gang = some gang → g.threads[k]? = some th → 1 ≤ (m 1).toNat → (m 1).toNat ≤ 65535 →
      (m 1).toNat ≤ th.retired →
      (reachIn gang.home gang.slot { core := c, issuer := .thread k } (th.retired - (m 1).toNat) s.maquettes = some (p, ms) →
        ∃ t, exec .reverseStep s = .next t ∧ t.mgmt.busy = false ∧ t.mgmt.mstat = 0 ∧ t.marg 2 = w64 (th.retired - (m 1).toNat) ∧ t.maquettes = ms ∧
          (p.redo = [] → MemSame s t) ∧ ∀ old, p.groups = [(c, old)] → old.gang = g.gang → ∃ h, t.group c = some h ∧
            h.threads = old.threads.map Thread.replayed ∧ h.spData = old.spData ∧ h.halted = true) ∧
      (reachIn gang.home gang.slot { core := c, issuer := .thread k } (th.retired - (m 1).toNat) s.maquettes = none →
        done .reverseStep 3 fun t => t.cores = s.cores)) ∧
    (s.gtick + 64 ≤ core → done .stopAtTickCommand 0 fun t => t.stopAt = some core) ∧
    (core < s.gtick + 64 → done .stopAtTickCommand 3 fun t => t.stopAt = s.stopAt) ∧
    (core < 64 → (m 1).toNat < 524288 → (∀ e, (s.slice core).table[(m 1).toNat]? = some e → e.word < 2 ^ 49 → e.owner < 2 ^ 16 →
        done .readRegistrationEntry 0 fun t => (t.marg 2).toNat = e.word + natOf e.lost * 2 ^ 49 + 2 ^ 63 ∧
          (t.marg 3).toNat = e.owner + e.inc.toNat * 2 ^ 16 ∧ t.slices = s.slices) ∧
      ((s.slice core).table.length ≤ (m 1).toNat → done .readRegistrationEntry 0 fun t => t.marg 2 = 0 ∧ t.marg 3 = 0 ∧ t.slices = s.slices)) ∧
    (64 ≤ core ∨ 524288 ≤ (m 1).toNat → done .readRegistrationEntry 3 fun t => t.slices = s.slices) ∧
    (∀ d, d < 64 → (core = 1 + d * 256 → done .readModuleCounter 0 fun t => t.marg 1 = w64 (s.slice d).forced) ∧
      (core = 2 + d * 256 → done .readModuleCounter 0 fun t => t.marg 1 = w64 (s.slice d).stale)) ∧
    (∀ d, d < 8 → core = 3 + d * 256 → done .readModuleCounter 0 fun t => t.marg 1 = w64 (s.hub d).dropped) ∧
    (∀ d, d < 24 → core = 4 + d * 256 → done .readModuleCounter 0 fun t => t.marg 1 = w64 (s.port d).dropped) ∧
    (∀ d, arrayOk d = true → core = 5 + d * 256 → done .readModuleCounter 0 fun t => t.marg 1 = w64 (look 0 s.mgmt.softErrs d)) ∧
    (∀ d, d < 32 → core = 6 + d * 256 → done .readModuleCounter 0 fun t => t.marg 1 = look 0 t.mgmt.hbmBytes d) ∧
    (core = 0 ∨ core = 7 → done .readModuleCounter 3 fun t => t.mgmt.margs = s.mgmt.margs) ∧
    (s.mgmt.debugQ = [] → done .readDebugEvent 0 fun t => t.marg 0 = 0) ∧
    (∀ r rest, s.mgmt.debugQ = r :: rest → done .readDebugEvent 0 fun t => t.mgmt.debugQ = rest ∧ t.mgmt.debugDrop = 0 ∧ t.marg 1 = r.w1 ∧
      t.marg 2 = r.w2 ∧ t.marg 3 = r.w3)

/-- Bring-up (26 R426 to R428, R431, R435). A reset without a valid image, or with a failing SRAM array that belongs to no core, ends in the safe
state; an array of a core fences that core, and a stack that has failed in service is fenced; one with an image and nothing
that fails ends with the image's domains, quantum and watchdog period in `STATE` 3 with every core free; the host's command does the same, and
losing power keeps the image alone, which a commit of a verified image in progress leaves invalid. The model's own: the array of no core that ends in `STATE` 4 with
`FAILSTEP` 2, memory kept by a reset, and what stands after the loss of power (notes/assumptions/23.md), the domains that an image does not list (10.md), and that the
host's command is the reset itself (27.md).
A module that has run its bring-up with one failing stack, the thirteenth, and a threshold of one stack reads as the spec's example
says (26 R435). -/
def Obligations.BringUpOutcomes : Prop :=
  (∀ (s : State) (b : BringUp) (img : Image),
     let reads (st step unit : Nat) : Prop := ∃ t, exec (.moduleReset b) s = .next t ∧ t.mgmt.state = st ∧ t.mgmt.failStep = step ∧ t.mgmt.failUnit = unit ∧
       t.live = (st == 3) ∧ t.mem = s.mem ∧ (∀ c, t.group c = none)
     (s.mgmt.image = none → reads 4 1 0) ∧
     (s.mgmt.image = some img → img.valid = false → reads 4 1 0) ∧
     (∀ a, s.mgmt.image = some img → img.valid = true → b.arrays = [a] → 0x2000 ≤ a → reads 4 2 a) ∧
     (∀ a, s.mgmt.failedStacks = [] → s.mgmt.image = some img → img.valid = true → a < 0x2000 → b = { arrays := [a], cores := [], clusters := [], hbmFail := [], ports := [] } →
       reads 3 2 a ∧ ∃ t, exec (.moduleReset b) s = .next t ∧ (t.core (a / 4)).fenced = true) ∧
     (∀ k, s.mgmt.failedStacks = [k] → k < 32 → s.mgmt.image = some img → img.valid = true →
       b = { arrays := [], cores := [], clusters := [], hbmFail := [], ports := [] } →
       reads 3 4 k ∧ ∃ t, exec (.moduleReset b) s = .next t ∧ t.mgmt.fencedStacks = [k] ∧ t.mgmt.failedStacks = [] ∧ t.localMap = true) ∧
     (s.mgmt.failedStacks = [] → s.mgmt.image = some img → img.valid = true → b = { arrays := [], cores := [], clusters := [], hbmFail := [], ports := [] } →
       reads 3 0 0 ∧ ∃ t, exec (.moduleReset b) s = .next t ∧ t.mgmt.replace = false ∧ t.quantum = img.cfg.quantum ∧ t.watchdog = img.cfg.watchdog ∧ ∀ d, d < 16 → t.domain d = (img.cfg.domains[d]?).elim Domain.init domainOf) ∧
     (s.mgmt.busy = false → exec (.moduleResetCommand b) s = exec (.moduleReset b) s) ∧
     (∃ t, exec .powerLoss s = .next t ∧ t.mem = State.reset.mem ∧ t.live = false ∧ t.mgmt.state = 0 ∧
       (s.mgmt.busy = false ∨ s.mgmt.mcmd ≠ 0x0011 ∨ s.mgmt.staged = none → t.mgmt.image = s.mgmt.image) ∧
        (s.mgmt.busy = true → s.mgmt.mcmd = 0x0011 → s.mgmt.staged ≠ none → ∀ i, t.mgmt.image = some i → i.valid = false))) ∧
  (∀ (s : State) (b : BringUp) (img : Image), s.mgmt.failedStacks = [] → s.mgmt.image = some img → img.valid = true → img.cfg.threshold = 1 →
     b = { arrays := [], cores := [], clusters := [], hbmFail := [13], ports := [] } →
     ∃ t, exec (.moduleReset b) s = .next t ∧ t.mgmt.state = 3 ∧ t.mgmt.failStep = 4 ∧ t.mgmt.replace = true ∧ t.mgmt.failUnit = 13 ∧
       t.mailWord 0 = 0x00000000000D0143 ∧ (t.capBody 2)[5]? = some 31 ∧ t.localMap = true ∧ t.isHbm (13 * 2 ^ 36) = false ∧
       (0 : Nat) ∈ t.host.sent)

/-- The host port (24 R399 to R408): training, register writes by their access codes, reads of BAR 0, invalid accesses, doorbells, memory through
BAR 2, a line of HBM that the host caches and its recall, and snoops. Where the host holds no line of HBM its accesses through BAR 2 reach the home.
The model's own: a valid read of BAR 0 comes through the same event as an invalid one, and an argument is written while `BUSY` is 1
(notes/assumptions/27.md); a rate or width that the rule does not list trains nothing, and how a line comes to be held by the host and is given back (22.md). -/
def Obligations.HostPortEvents : Prop :=
  ∀ (s : State) (rate width : BitVec 8) (cxl : Bool) (off size pa n line : Nat) (v : W64) (bytes : List Byte) (hold : Option Bool) (cached : Bool),
    (if linkRate rate.toNat ∧ linkWidth width.toNat then ∃ t, exec (.hostPortTraining rate width cxl) s = .next t ∧ t.host.trained = true ∧
        t.host.rate = rate.setWidth 16 ∧ t.host.width = width ∧ t.host.cxl = cxl ∧ (s.host.hdm = [] → t.mem = s.mem) ∧
        (cxl = false → t.host.lines = [] ∧ t.host.hdm = [])
      else exec (.hostPortTraining rate width cxl) s = .next s) ∧
    (let ok := (size = 4 ∨ size = 8) ∧ off % size = 0 ∧ off < 2 ^ 21
     (¬ ok → exec (.registerWrite off size v) s = .next s ∧ exec (.bar0InvalidAccess off size true) s = .next s ∧
       exec (.bar0InvalidAccess off size false) s = .next { s with host := { s.host with readVal := List.replicate size 0 } }) ∧
     (ok → exec (.bar0InvalidAccess off size true) s = .next s ∧ exec (.bar0InvalidAccess off size false) s =
       .next { s with host := { s.host with readVal := lil size ((s.bar0Word (off / 8 * 8)).toNat / 256 ^ (off % 8)) } }) ∧
     (∀ k, k < 4 → off = 0x18 + 8 * k → size = 8 → exec (.registerWrite off size v) s = .next (s.setMarg k v)) ∧
     (∀ d, d < 16 → off = 0x10000 + 32 * d → size = 8 → s.live = true → (s.bell d).busy = false →
       exec (.registerWrite off size v) s = .next (s.setBell d { s.bell d with addr := v })) ∧
     (off = 0x10 → size = 4 → s.mgmt.busy = true → exec (.registerWrite off size v) s = .next s) ∧
     (off = 0x10 → size = 4 → s.mgmt.busy = false → v = 0x0020 → ∃ t, exec (.registerWrite off size v) s = .next t ∧ t.mgmt.busy = true ∧
       t.mgmt.mcmd = 0x0020 ∧ t.due = s.due ++ [.event .setPolicy 0 0]) ∧
     (off = 0x10 → size = 4 → s.mgmt.busy = false → v = 0x0002 → ∃ t, exec (.registerWrite off size v) s = .next t ∧ t.mgmt.busy = false ∧ t.mgmt.mstat = 1)) ∧
    (∀ (dom vec : Nat), dom < 16 →
      let b := s.bell dom
      (s.live = false ∨ b.busy = true → exec (.doorbellPost dom vec) s = .next s) ∧
      (s.live = true → b.busy = false → vec < 256 → b.addr.toNat % 64 ≠ 0 ∨ (vec ≠ 0 ∧ vec < 8) ∨ 63 < vec →
        exec (.doorbellPost dom vec) s = .next (s.setBell dom { b with vec := vec, ans := 1 })) ∧
      (∀ bs, s.live = true → b.busy = false → (vec = 0 ∨ (8 ≤ vec ∧ vec ≤ 63)) → b.addr.toNat % 64 = 0 → regionOf b.addr.toNat = .global →
        s.objRead [] dom true b.addr.toNat 8 = .ok bs → ∃ t p, exec (.doorbellPost dom vec) s = .next t ∧ (t.bell dom).busy = true ∧
          t.net = s.net ++ [.record p] ∧ p.bell = some (dom, vec) ∧ p.dom = dom ∧ p.addr = b.addr ∧
          ∀ k, k < 8 → (recWord p.words k).toNat = leAt bs (8 * k) 8)) ∧
    (s.live = true → s.host.hdm = [] → pa + n ≤ hbmEnd → (∀ k, k < n → s.isHbm (pa + k) = true ∧ s.regEnt (pa + k) = none ∧ s.stackFails (pa + k) = false) →
      ∃ t, exec (.bar2Read pa ⟨n, hold⟩) s = .next t ∧ MemSame s t ∧ t.host.readVal = ((List.range n).map fun k => byteAt s.mem (pa + k)) ∧
        ∀ excl, hold = some excl → s.host.cxl = true → n ≠ 0 → (pa + n - 1) / 64 = pa / 64 → s.isHbm (pa / 64 * 64) = true →
          (∀ k, k < 8 → s.regEnt (pa / 64 * 64 + 8 * k) = none) → t.hdmLine pa = some { line := pa / 64, excl := excl, data := none }) ∧
    (∀ h, s.live = true → pa + bytes.length ≤ hbmEnd → s.hdmLine pa = some h → h.excl = true → pa % 64 + bytes.length ≤ 64 →
      ∃ t m, exec (.bar2Write pa ⟨bytes, true⟩) s = .next t ∧ t.mem = s.mem ∧ t.hdmLine pa = some { h with data := some m } ∧
        ∀ k b, bytes[k]? = some b → byteAt m (pa % 64 + k) = b) ∧
    (∀ h m, s.hdmLine pa = some h → h.data = some m → (s.recall pa).hdmLine pa = none ∧
      ∀ k, k < 64 → byteAt (s.recall pa).mem (h.line * 64 + k) = byteAt m k) ∧
    (s.live = true → s.host.hdm = [] → pa + bytes.length ≤ hbmEnd →
      (∀ k, k < bytes.length → s.isHbm (pa + k) = true ∧ s.regEnt (pa + k) = none) →
      ∃ t, exec (.bar2Write pa ⟨bytes, cached⟩) s = .next t ∧ (∀ k b, bytes[k]? = some b → byteAt t.mem (pa + k) = b) ∧
        ∀ a, a < pa ∨ pa + bytes.length ≤ a → byteAt t.mem a = byteAt s.mem a) ∧
    (s.live = false → exec (.bar2Read pa ⟨n, hold⟩) s = .next s ∧ exec (.bar2Write pa ⟨bytes, cached⟩) s = .next s) ∧
    (∀ kind, find s.host.lines line = none → exec (.hostSnoop line kind) s = .next s) ∧
    (∀ l, find s.host.lines line = some l → ∃ t u, exec (.hostSnoop line .invalidate) s = .next t ∧ find t.host.lines line = none ∧
      exec (.hostSnoop line .share) s = .next u ∧ find u.host.lines line = some { l with st := .s } ∧ t.hostMem = u.hostMem ∧
      (l.st ≠ .m → t.hostMem = s.hostMem) ∧ (l.st = .m → ∀ k, k < 64 → byteAt t.hostMem (line * 64 + k) = byteAt l.data k) ∧
      ∀ a, a < line * 64 ∨ line * 64 + 64 ≤ a → byteAt t.hostMem a = byteAt s.hostMem a)

/-- Errors, power and time (14 R252, 25 R415 to R417, R424, R425, 26 R433, R436): a corrected error is counted for its array, and another holds the thread that
consumes it, is held pending where no instruction does, ends an engine's job or breaks a ring's session; a core that loses power is dead; the draw is refreshed; marks of earlier ticks enter the buffer at a pulse, before
its frieze, which may be dropped; the module stops at the named tick and on a thermal trip of a die that exists. The model's own: the capability entry's `SEQ` goes up
by two at a refresh (notes/assumptions/24.md), a consumer that has no instruction under way is told later (27.md), and a throttle has no effect (28.md). -/
def Obligations.ModuleEvents : Prop :=
  ∀ (s : State) (pa core k tick array : Nat) (w : BitVec 32) (by_ : Consumer),
    (arrayOk array = true → ∃ t, exec (.eccError pa (some array) by_) s = .next t ∧ MemSame s t ∧ t.cores = s.cores ∧
      look 0 t.mgmt.softErrs array = look 0 s.mgmt.softErrs array + 1) ∧
    (∀ (g : Group) (th : Thread), s.group core = some g → s.agent { core := core, issuer := .thread k } = some th → th.status = .running →
      ∃ t, exec (.eccError pa none (.thread core k)) s = .next t ∧ t.agent { core := core, issuer := .thread k } =
          some { th with status := .held, wait := .none, prog := Prog.idle } ∧
        t.sup = s.sup ++ [{ core := core, t := k, wid := th.wid, code := Cause.ecc.code, tepc := th.pc, tval := w64 pa }]) ∧
    (∀ th : Thread, s.agent { core := core, issuer := .thread k } = some th → th.status ≠ .ended → th.status ≠ .idle →
      ∃ t, exec (.eccError pa none (.later core k)) s = .next t ∧ t.agent { core := core, issuer := .thread k } =
        some { th with pend := th.pend ++ [{ cause := .ecc, tval := w64 pa, srce := 0, fpc := 0, jidx := none }] }) ∧
    (∀ id j done buf, find s.jobs id = some j → j.st = .running done buf → ∃ t, exec (.eccError pa none (.engine id)) s = .next t ∧
      find t.jobs id = some { j with st := .ended 6 done true }) ∧
    (∀ r se, (s.ring r).sess = some se → se.broken = none → r < 12 → ∃ t se', exec (.eccError pa none (.forward r)) s = .next t ∧
      (t.ring r).sess = some se' ∧ se'.broken = some 4) ∧
    (core < 2048 → (s.core core).gated = false → ∃ t, exec (.powerGating core false) s = .next t ∧
      t.core core = { s.core core with gated := true, dead := true } ∧ Turn.event .coreDeathDeclaration core 0 ∈ t.due) ∧
    (core < 2048 → ∃ t, exec (.powerGating core true) s = .next t ∧ t.core core = { s.core core with gated := false }) ∧
    (s.mgmt.state = 3 → exec (.presentDrawRefresh w) s =
      .next { s with mgmt := { s.mgmt with power := w, capSeq := vset s.mgmt.capSeq 6 (vget 0 s.mgmt.capSeq 6 + 2) } }) ∧
    (s.mgmt.state ≠ 3 → exec (.presentDrawRefresh w) s = .next s) ∧
    (s.trace.en = false ∨ s.trace.period = 0 → exec .samplingPulse (s.select tick 0) = .next (s.select tick 0)) ∧
    (s.trace.en = true → s.trace.period ≠ 0 → tick % s.trace.period.toNat = 0 →
      (∃ t, exec .samplingPulse (s.select tick 0) = .next t ∧ t.trace.recs = s.trace.recs.filter fun r => !decide (r.tick < tick)) ∧
      (∀ r : TraceRec, s.trace.recs = [r] → r.tick < tick → r.bytes.length % 8 = 0 → s.trace.full = false → s.host.hdm = [] →
        let at_ := s.trace.head.toNat
        let n := r.bytes.length
        let pa := s.trace.base.toNat + at_
        at_ + n ≤ s.trace.units.toNat * 4096 → (∀ k, k < n → s.isHbm (pa + k) = true) →
        ∃ u, (exec .samplingPulse (s.select tick 0) = .next u ∨ exec .samplingPulse (s.select tick 0) = .next (u.frieze tick)) ∧
          u.trace.recs = [] ∧ u.trace.head = w64 (at_ + n) ∧ (∀ k b, r.bytes[k]? = some b → byteAt u.mem (pa + k) = b) ∧
          ∀ a, a < pa ∨ pa + n ≤ a → byteAt u.mem a = byteAt s.mem a)) ∧
    (∀ n, s.stopAt = some n → n ≤ s.gtick → s.stopped = false → ∃ t, exec .stopAtTick s = .next t ∧ t.stopped = true ∧ MemSame s t ∧
      ∀ p, p < 24 → (t.port p).up = false) ∧
    (s.stopAt = none → exec .stopAtTick s = .next s) ∧
    (k < 8 → ∃ t, exec .thermalTrip (s.select k 0) = .next t ∧ t.stopped = true ∧ MemSame s t ∧ (∀ p, p < 24 → (t.port p).up = false) ∧
      ∃ r, r ∈ t.mgmt.log ∧ fld r.w1 7 0 = 4 ∧ fld r.w1 23 16 = 6 ∧ fld r.w1 39 24 = k) ∧
    (8 ≤ k → exec .thermalTrip (s.select k 0) = .next (s.select k 0)) ∧
    exec .powerThrottle s = .next s

/-- Ports (22 R376 to R378). A live port with nothing to send has sent an idle flit last, before the next step's turn; a flit that is not the next intact one is dropped and asked for again, sixteen in a row take the port down, a retry request sends the
unacknowledged flits again, and a port that goes down or is retrained starts from zero.
Rings (22 R381 to R386, R390). With a session open and its neighbours announced: the first flit of a block fills a granted slot, a grant is kept, an acknowledged
forward frees its slot and grants it upstream, a matching open announces the neighbour's epoch, and a break breaks the session with reason 5, which a take
that waits hears of; a
CONSUMED block is forwarded under the oldest grant, the own block lands in slot 0, and a teardown breaks the session with reason 2.
The model's own (notes/assumptions/22.md): the layout of the open flit's payload, the idle and retry flits, and what counts as sixteen CRC failures in a row. -/
def Obligations.PortsAndRings : Prop :=
  (∀ (s : State) (port : Nat) (f : Flit), port < 24 →
     let p := s.port port
     (∀ i, i ∈ [Instr.blockFlit port f, .slotGrant port f, .forwardAck port f, .openFlit port f, .breakFlit port f, .retryRequest port f] →
       p.up = false ∨ p.expects f = false → exec i s = .next s) ∧
     (p.up = true → p.expects f = false → flitIntact f = false → p.fails < 15 → p.retry.length < 256 → p.queue = [] →
       ∃ t g, exec (.flitCrcFailure port f) s = .next t ∧ (t.port port).fails = p.fails + 1 ∧ (t.port port).up = true ∧
         (t.port port).sent = p.sent ++ [g] ∧ flitType g = 7 ∧ flitAck g = p.rxSeq.toNat ∧ (t.port port).rxSeq = p.rxSeq ∧ MemSame s t) ∧
     (p.up = true → p.expects f = false → flitIntact f = false → 15 ≤ p.fails → ∃ t, exec (.flitCrcFailure port f) s = .next t ∧ (t.port port).up = false) ∧
     (p.up = true → p.expects f = true → flitType f = 7 → ∃ t, exec (.retryRequest port f) s = .next t ∧
       (t.port port).sent = (p.take f).sent ++ (p.take f).retry ∧ (t.port port).rxSeq = p.rxSeq + 1) ∧
     (p.up = true → ∃ t, exec .portDown (s.select port 0) = .next t ∧ (t.port port).up = false ∧ MemSame s t) ∧
     (p.up = false → exec .portDown (s.select port 0) = .next (s.select port 0)) ∧
     (s.live = true → p.up = false → p.fenced = false → ∃ t, exec .portRetraining (s.select port 0) = .next t ∧ (t.port port).up = true ∧
       (t.port port).rxSeq = 0 ∧ (t.port port).txSeq = 0 ∧ (t.port port).retry = []) ∧
     (p.up = true → p.queue = [] → ∃ g, (s.restPorts.port port).sent.getLast? = some g ∧ flitType g = 0 ∧ flitAck g = p.rxSeq.toNat)) ∧
  (∀ (s : State) (port r : Nat) (f : Flit) (se : Session), port < 24 → r < 12 → (s.ring r).sess = some se → se.broken = none →
     let p := s.port port
     let s1 := s.setPort port (p.take f)
     let x := s.ring r
     let sess (t : State) : Option Session := (t.ring r).sess
     let here (up : Bool) (typ : Nat) : Prop := s.ringOf port = some (r, up) ∧ p.up = true ∧ p.expects f = true ∧ flitType f = typ ∧
       x.heldUp = [] ∧ x.heldDn = []
     (∀ s2, here true 2 → se.upEpoch = some (flitEpoch f) →
       let k := flitSlot f
       let at_ := flitOff f * 112
       let n := min 112 (se.bytes - at_)
       (se.slot k).st = .free → (se.slot k).granted = true → k < se.slots.length → at_ + n < se.bytes → f.payload.length = 14 →
       s1.bufWrite se (k * se.bytes + at_) ((f.payload.flatMap fun w => lil 8 w.toNat).take n) = .ok s2 →
       (s2.ring r).sess = some se → ∃ t se', exec (.blockFlit port f) s = .next t ∧ t.mem = s2.mem ∧ sess t = some se' ∧
         se'.slot k = { st := .filling, step := se.nextStep, bytes := n, granted := false } ∧ ∀ j, j ≠ k → se'.slot j = se.slot j) ∧
     (here false 3 → se.dnEpoch = some (flitEpoch f) → ∃ t, exec (.slotGrant port f) s = .next t ∧
       sess t = some { se with grants := se.grants ++ [flitSlot f] } ∧ MemSame s t) ∧
     (∀ k, here false 4 → se.dnEpoch = some (flitEpoch f) → se.sending = some (k, flitSlot f) → k < se.slots.length → ∃ t se',
       exec (.forwardAck port f) s = .next t ∧ sess t = some se' ∧ se'.sending = none ∧
         se'.slot k = { st := .free, step := 0, bytes := 0, granted := true } ∧ (∀ j, j ≠ k → se'.slot j = se.slot j) ∧ MemSame s t) ∧
     (here true 5 → se.upEpoch = none → (f.payload.take 4 = [se.word.setWidth 64, w64 se.bytes, w64 x.members, w64 ((x.self + x.members - 1) % x.members)] →
         exec (.openFlit port f) s = .next (s1.setSess r { se with upEpoch := some (flitEpoch f) })) ∧
       (f.payload.head? ≠ some (se.word.setWidth 64) → f.payload ≠ [] → ∃ t se', exec (.openFlit port f) s = .next t ∧ sess t = some se' ∧ se'.broken = some 3)) ∧
     (here true 6 → se.upEpoch = some (flitEpoch f) → ∃ t se', exec (.breakFlit port f) s = .next t ∧ sess t = some se' ∧ se'.broken = some 5 ∧
       se' = { se with broken := se'.broken, sending := none, put := none, takes := [] } ∧ MemSame s t ∧
       ∀ w seq th, se.takes = [(w, seq)] → s.agent w = some th → th.prog.seq = seq → seq ≠ 0 → th.prog.reply = none →
         ∃ u, t.agent w = some u ∧ u.prog.reply = some (.trap .rot (rotTval 6 r 5 se.cursor))) ∧
     (∃ t se', exec .ringTeardown (s.select r 0) = .next t ∧ sess t = some se' ∧ se'.broken = some 2 ∧ MemSame s t) ∧
     (∀ k dst rest ws, se.toForward = some k → se.grants = dst :: rest → se.sending = none →
       (s.select r 0).bufRead se (k * se.bytes) (se.bytes / 8) = .ok ws → ∃ t, exec .forwardStart (s.select r 0) = .next t ∧
         sess t = some { se with grants := rest, sending := some (k, dst) } ∧ MemSame s t) ∧
     (se.toForward = none ∨ se.grants = [] ∨ se.sending ≠ none → exec .forwardStart (s.select r 0) = .next (s.select r 0)) ∧
     (∀ q s2 bs, se.put = some q → (s.select r 0).copyBlock r (q.job x.die se.dom) se q.src.toNat 0 (se.bytes / 64 + 2) = .ok s2 bs →
       0 < se.slots.length → ∃ t se', exec .putCopyComplete (s.select r 0) = .next t ∧ sess t = some se' ∧ se'.put = none ∧
         se'.slot 0 = { st := .full, step := 0, bytes := se.bytes, granted := false } ∧ t.mem = s2.mem) ∧
     (se.put = none → exec .putCopyComplete (s.select r 0) = .next (s.select r 0)))

/-! ## Memory's canonical form -/

/-- Every step keeps HBM and the host's memory in canonical form: addresses rising, no entry equal to what an unlisted one reads as.
The form is the model's own, and what an unlisted address reads as is its choice (notes/assumptions/2.md). -/
def Obligations.StepKeepsMemWf : Prop :=
  ∀ s t : State, s.MemWf → step s = .next t → t.MemWf

/-- The state after reset has both memories in canonical form.
The form is the model's own, and what an unlisted address reads as is its choice (notes/assumptions/2.md). -/
def Obligations.ResetMemWf : Prop := State.reset.MemWf
end

