-- ==== Sys2Proof/Laws/Memory.lean ====
section
/-! SUPPORT. Tables and memories: a read after a write, and that every operation on a memory keeps its canonical form. -/

namespace Sys2Proof.Machine

/-! ## Tables -/

@[simp] theorem find_set_same {α : Type} (m : Map α) (k : Nat) (v : α) : find (set m k v) k = some v := by
  induction m with
  | nil => simp [set, find]
  | cons e rest ih =>
    simp only [set]
    split
    · simp [find]
    · split
      · simp [find]
      · simp [find, *]

theorem find_set_other {α : Type} (m : Map α) {j k : Nat} (v : α) (h : j ≠ k) : find (set m k v) j = find m j := by
  have hk : k ≠ j := fun e => h e.symm
  induction m with
  | nil => simp [set, find, hk]
  | cons e rest ih =>
    simp only [set]
    split
    · rename_i he; subst he; simp [find, hk]
    · split <;> simp [find, hk, ih]

theorem find_set {α : Type} (m : Map α) (j k : Nat) (v : α) : find (set m k v) j = if j = k then some v else find m j := by
  split
  · rename_i h; subst h; simp
  · rename_i h; exact find_set_other m v h

@[simp] theorem look_set_same {α : Type} (d : α) (m : Map α) (k : Nat) (v : α) : look d (set m k v) k = v := by
  induction m with
  | nil => simp [set, look]
  | cons e rest ih =>
    simp only [set]
    split
    · simp [look]
    · split
      · simp [look]
      · simp [look, *]

theorem look_set_other {α : Type} (d : α) (m : Map α) {j k : Nat} (v : α) (h : j ≠ k) : look d (set m k v) j = look d m j := by
  have hk : k ≠ j := fun e => h e.symm
  induction m with
  | nil => simp [set, look, hk]
  | cons e rest ih =>
    simp only [set]
    split
    · rename_i he; subst he; simp [look, hk]
    · split <;> simp [look, hk, ih]

@[simp] theorem look_del_same {α : Type} (d : α) (m : Map α) (k : Nat) : look d (del m k) k = d := by
  induction m with
  | nil => rfl
  | cons e rest ih => simp only [del]; split <;> simp [look, *]

theorem look_del_other {α : Type} (d : α) (m : Map α) {j k : Nat} (h : j ≠ k) : look d (del m k) j = look d m j := by
  have hk : k ≠ j := fun e => h e.symm
  induction m with
  | nil => rfl
  | cons e rest ih =>
    simp only [del]
    split
    · rename_i he; subst he; simp [look, hk, ih]
    · simp [look, ih]

theorem look_put {α : Type} [DecidableEq α] (d : α) (m : Map α) (j k : Nat) (v : α) :
    look d (put d m k v) j = if j = k then v else look d m j := by
  unfold put
  split
  · rename_i hv
    split
    · rename_i h; subst h; simp [hv]
    · rename_i h; exact look_del_other d m h
  · split
    · rename_i h; subst h; simp
    · rename_i h; exact look_set_other d m v h

/-! ## Canonical form -/

theorem risingFrom_mono {α : Type} {a b : Nat} (m : Map α) (h : a ≤ b) (hb : risingFrom b m = true) : risingFrom a m = true := by
  cases m with
  | nil => rfl
  | cons e rest => simp [risingFrom] at *; exact ⟨by omega, hb.2⟩

theorem risingFrom_set {α : Type} (m : Map α) {a k : Nat} (v : α) (hk : a ≤ k) (h : risingFrom a m = true) :
    risingFrom a (set m k v) = true := by
  induction m generalizing a with
  | nil => simp [set, risingFrom, hk]
  | cons e rest ih =>
    simp [risingFrom] at h
    simp only [set]
    split
    · rename_i he; subst he; simp [risingFrom, h]
    · split
      · rename_i hlt; simp [risingFrom, hk, h.2]; omega
      · simp [risingFrom, h.1]; exact ih (by omega) h.2

theorem risingFrom_del {α : Type} (m : Map α) {a k : Nat} (h : risingFrom a m = true) : risingFrom a (del m k) = true := by
  induction m generalizing a with
  | nil => rfl
  | cons e rest ih =>
    simp [risingFrom] at h
    simp only [del]
    split
    · exact ih (risingFrom_mono rest (by omega) h.2)
    · simp [risingFrom, h.1]; exact ih h.2

theorem risingFrom_filter {α : Type} (p : Nat × α → Bool) (m : Map α) {a : Nat} (h : risingFrom a m = true) :
    risingFrom a (m.filter p) = true := by
  induction m generalizing a with
  | nil => rfl
  | cons e rest ih =>
    simp [risingFrom] at h
    simp only [List.filter]
    split
    · simp [risingFrom, h.1]; exact ih h.2
    · exact ih (risingFrom_mono rest (by omega) h.2)

theorem mem_set {α : Type} {m : Map α} {k : Nat} {v : α} {e : Nat × α} (h : e ∈ set m k v) : e = (k, v) ∨ e ∈ m := by
  induction m with
  | nil => simp [set] at h; exact .inl h
  | cons x rest ih =>
    simp only [set] at h
    split at h
    · simp at h; rcases h with h | h <;> simp [h]
    · split at h
      · simp at h; rcases h with h | h | h <;> simp [h]
      · simp at h
        rcases h with h | h
        · simp [h]
        · rcases ih h with h | h <;> simp [h]

theorem mem_del {α : Type} {m : Map α} {k : Nat} {e : Nat × α} (h : e ∈ del m k) : e ∈ m := by
  induction m with
  | nil => exact h
  | cons x rest ih =>
    simp only [del] at h
    split at h
    · simp [ih h]
    · simp at h
      rcases h with h | h
      · simp [h]
      · simp [ih h]

theorem canon_put {α : Type} [DecidableEq α] (d : α) (m : Map α) (k : Nat) (v : α) (h : canon d m = true) :
    canon d (put d m k v) = true := by
  simp only [canon, Bool.and_eq_true, List.all_eq_true, decide_eq_true_eq] at *
  unfold put
  split
  · exact ⟨risingFrom_del m h.1, fun e he => h.2 e (mem_del he)⟩
  · rename_i hv
    refine ⟨risingFrom_set m v (Nat.zero_le k) h.1, fun e he => ?_⟩
    rcases mem_set he with rfl | he
    · exact hv
    · exact h.2 e he

theorem canon_filter {α : Type} [DecidableEq α] (d : α) (p : Nat × α → Bool) (m : Map α) (h : canon d m = true) :
    canon d (m.filter p) = true := by
  simp only [canon, Bool.and_eq_true, List.all_eq_true, decide_eq_true_eq] at *
  exact ⟨risingFrom_filter p m h.1, fun e he => h.2 e ((List.mem_filter.mp he).1)⟩

/-! ## Bytes -/

theorem byteAt_setByte (m : Memory) (a b : Nat) (v : Byte) : byteAt (setByte m a v) b = if b = a then v else byteAt m b :=
  look_put 0 m b a v

theorem setByte_wf {m : Memory} (h : Memory.wf m = true) (a : Nat) (v : Byte) : Memory.wf (setByte m a v) = true := canon_put 0 m a v h

/-- What a write of `n` bytes leaves in each byte. -/
theorem byteAt_writeN (m : Memory) (a n v b : Nat) :
    byteAt (writeN m a n v) b = if a ≤ b ∧ b < a + n then BitVec.ofNat 8 (v / 256 ^ (b - a)) else byteAt m b := by
  induction n generalizing m a v with
  | zero =>
    simp only [writeN]
    split
    · omega
    · rfl
  | succ k ih =>
    simp only [writeN, ih, byteAt_setByte]
    by_cases hb : b = a
    · subst hb
      rw [if_neg (by omega), if_pos rfl, if_pos (by omega)]; simp
    · by_cases hi : a + 1 ≤ b ∧ b < a + 1 + k
      · rw [if_pos hi, if_pos (by omega), Nat.div_div_eq_div_mul, ← Nat.pow_succ']
        rw [show (b - (a + 1)).succ = b - a by omega]
      · rw [if_neg hi, if_neg hb, if_neg (by omega)]

theorem byteAt_writeN_outside (m : Memory) {a n v b : Nat} (h : b < a ∨ a + n ≤ b) : byteAt (writeN m a n v) b = byteAt m b := by
  rw [byteAt_writeN, if_neg (by omega)]

/-- A number is read from its bytes alone. -/
theorem readN_congr {m m' : Memory} {a n : Nat} (h : ∀ b, a ≤ b → b < a + n → byteAt m b = byteAt m' b) : readN m a n = readN m' a n := by
  induction n generalizing a with
  | zero => rfl
  | succ k ih =>
    simp only [readN]
    rw [h a (Nat.le_refl a) (by omega), ih fun b h1 h2 => h b (by omega) (by omega)]

/-- A read after a write of the same bytes gives the number written, modulo its width. -/
theorem readN_writeN_same (m : Memory) (a n v : Nat) : readN (writeN m a n v) a n = v % 256 ^ n := by
  induction n generalizing m a v with
  | zero => simp [readN, Nat.mod_one]
  | succ k ih =>
    simp only [readN, writeN, ih, byteAt_writeN_outside (setByte m a (BitVec.ofNat 8 v)) (a := a + 1) (n := k) (b := a) (by omega),
      byteAt_setByte, if_pos, BitVec.toNat_ofNat]
    rw [show (2 : Nat) ^ 8 = 256 by rfl, Nat.pow_succ', Nat.mod_mul]

theorem readN_writeN_outside (m : Memory) {a n v b k : Nat} (h : b + k ≤ a ∨ a + n ≤ b) : readN (writeN m a n v) b k = readN m b k :=
  readN_congr fun _ _ _ => byteAt_writeN_outside m (by omega)

theorem writeN_wf {m : Memory} (h : Memory.wf m = true) (a n v : Nat) : Memory.wf (writeN m a n v) = true := by
  induction n generalizing m a v with
  | zero => exact h
  | succ k ih => exact ih (setByte_wf h _ _) _ _

theorem write64_wf {m : Memory} (h : Memory.wf m = true) (a : Nat) (v : W64) : Memory.wf (write64 m a v) = true := writeN_wf h _ _ _

@[simp] theorem read64_write64_same (m : Memory) (a : Nat) (v : W64) : read64 (write64 m a v) a = v := by
  unfold read64 write64
  rw [readN_writeN_same, Nat.mod_eq_of_lt (by have := v.isLt; simpa using this)]
  simp

/-- What a copy of a list of bytes leaves in each byte. -/
theorem byteAt_putBytes (m : Memory) (a : Nat) (bs : List Byte) (b : Nat) :
    byteAt (putBytes m a bs) b = if a ≤ b then (bs[b - a]?).getD (byteAt m b) else byteAt m b := by
  induction bs generalizing m a with
  | nil => simp [putBytes]
  | cons x rest ih =>
    simp only [putBytes, ih, byteAt_setByte]
    by_cases hb : b = a
    · subst hb; rw [if_neg (by omega)]; simp
    · by_cases hl : a ≤ b
      · rw [if_pos (by omega), if_pos hl, if_neg hb, show b - a = (b - (a + 1)) + 1 by omega]; simp
      · rw [if_neg (by omega), if_neg hb, if_neg hl]

theorem putBytes_wf {m : Memory} (h : Memory.wf m = true) (a : Nat) (bs : List Byte) : Memory.wf (putBytes m a bs) = true := by
  induction bs generalizing m a with
  | nil => exact h
  | cons x rest ih => exact ih (setByte_wf h _ _) _

theorem zeroRange_wf {m : Memory} (h : Memory.wf m = true) (lo n : Nat) : Memory.wf (zeroRange m lo n) = true := canon_filter 0 _ m h

/-! ## Elements by number -/

theorem vget_vset {α : Type} {n : Nat} (d : α) (v : Vector α n) (j k : Nat) (a : α) :
    vget d (vset v k a) j = if j = k ∧ k < n then a else vget d v j := by
  unfold vget vset
  by_cases hk : k < n
  · rw [dif_pos hk]
    by_cases hj : j < n
    · rw [dif_pos hj, dif_pos hj, Vector.getElem_set]
      by_cases h : j = k
      · rw [if_pos h.symm, if_pos ⟨h, hk⟩]
      · rw [if_neg fun e => h e.symm, if_neg fun e => h e.1]
    · rw [dif_neg hj, dif_neg hj, if_neg fun (e : j = k ∧ k < n) => hj (e.1 ▸ hk)]
  · rw [dif_neg hk, if_neg fun (e : j = k ∧ k < n) => hk e.2]

@[simp] theorem vget_vset_same {α : Type} {n : Nat} (d : α) (v : Vector α n) {k : Nat} (a : α) (h : k < n) : vget d (vset v k a) k = a := by
  rw [vget_vset]; simp [h]

theorem vget_vset_other {α : Type} {n : Nat} (d : α) (v : Vector α n) {j k : Nat} (a : α) (h : j ≠ k) :
    vget d (vset v k a) j = vget d v j := by rw [vget_vset]; simp [h]

theorem getElem?_setAt {α : Type} (l : List α) (j k : Nat) (v : α) :
    (setAt l k v)[j]? = if j = k ∧ k < l.length then some v else l[j]? := by
  induction l generalizing j k with
  | nil => simp [setAt]
  | cons x rest ih => cases k with
    | zero => cases j <;> simp [setAt]
    | succ k => cases j with
      | zero => simp [setAt]
      | succ j => simp [setAt, ih]

end Sys2Proof.Machine
end

