-- ==== Sys2Proof/Laws/Ops.lean ====
section
/-! SUPPORT. What the shared operations of the meanings come to: the checks that pass, the outcomes of a computation, retiring, and
arithmetic that raises no enabled condition. -/

namespace Sys2Proof.Machine

/-! ## The outcome of a computation -/

@[simp] theorem finish_ok (w : Who) (s : State) : finish w (.ok s) = .next s := rfl
@[simp] theorem finish_trap (w : Who) (s : State) (t : Trap) :
    finish w (.error (.trap s t)) = .next (s.takeTrap w t false 0 0) := rfl
@[simp] theorem finish_wait (w : Who) (s : State) : finish w (.error (.wait s)) = .next s := rfl
@[simp] theorem finish_raise (w : Who) (s : State) (c : Cause) (v : W64) :
    finish w (raise s c v) = .next (s.takeTrap w { cause := c, tval := v, tepc := none } false 0 0) := rfl

/-! ## Sequencing -/

@[simp] theorem do_ok {α β : Type} (a : α) (f : α → Do β) : (do let x ← (Except.ok a : Do α); f x) = f a := rfl
@[simp] theorem do_error {α β : Type} (e : Stop) (f : α → Do β) : (do let x ← (Except.error e : Do α); f x) = .error e := rfl
@[simp] theorem do_raise {α β : Type} (s : State) (c : Cause) (v : W64) (f : α → Do β) :
    (do let x ← (raise s c v : Do α); f x) = raise s c v := rfl

/-! ## The issuing agent and its operands -/

theorem getMe_ok {s : State} {th : Thread} (h : s.me = some th) : getMe s = .ok th := by unfold getMe; rw [h]
theorem getGroup_ok {s : State} {g : Group} (h : s.group s.cur.core = some g) : getGroup s = .ok g := by unfold getGroup; rw [h]

theorem needLive_ok {s : State} {th : Thread} {xs vs : List Reg} (h : s.cur.issuer.isFeed = true ∨ th.deadRead xs vs = none) :
    needLive s th xs vs = .ok () := by
  unfold needLive
  rcases h with h | h
  · rw [h]; rfl
  · rw [h]; simp

theorem Ready.me {s : State} {th : Thread} {xs vs : List Reg} (h : Ready s th xs vs) : s.me = some th := h.1
theorem Ready.getMe {s : State} {th : Thread} {xs vs : List Reg} (h : Ready s th xs vs) : getMe s = .ok th := getMe_ok h.1
theorem Ready.needLive {s : State} {th : Thread} {xs vs : List Reg} (h : Ready s th xs vs) : needLive s th xs vs = .ok () :=
  needLive_ok h.2

/-- A scalar instruction whose operands may be read retires with its effect on the thread. -/
theorem scalar_ready {s : State} {th : Thread} {xs : List Reg} (h : Ready s th xs []) (f : Thread → Thread) :
    scalar s xs f = .next (s.retire (f th)) := by
  unfold scalar; rw [h.getMe, do_ok, h.needLive]; rfl

/-- The same for one that writes a scalar register. -/
theorem toX_ready {s : State} {th : Thread} {xs : List Reg} (h : Ready s th xs []) (len : Nat) (d : Reg) (f : Thread → W64) :
    toX s len d xs f = .next (s.retire ((th.wx d (f th)).advance len)) := scalar_ready h _

/-- In kernel mode a privileged instruction goes on. -/
theorem needKernel_ok {s : State} {th : Thread} (h : th.kernel = true) (i : Instr) : needKernel s th i = .ok () := by
  unfold needKernel; rw [if_pos h]

/-- In user mode it raises PRIV. -/
theorem needKernel_user {s : State} {th : Thread} (h : th.kernel = false) (i : Instr) :
    needKernel s th i = raise s .priv (lowBits i) := by
  unfold needKernel; simp [h]

/-! ## Retiring -/

theorem retire_eq {s : State} {g : Group} (h : s.group s.cur.core = some g) (u : Thread) :
    s.retire u = (s.setGroup s.cur.core { g.setAgent s.cur.issuer (s.counted s.cur u) with lastRetire := s.gtick }).logPoint s.cur := by
  unfold State.retire State.retireOf State.retireAs; rw [h]

theorem retireX_eq {s : State} {th : Thread} (h : s.me = some th) (d : Reg) (v : W64) (len : Nat) :
    s.retireX d v len = s.retire ((th.wx d v).advance len) := by unfold State.retireX; rw [h]

theorem retireNext_eq {s : State} {th : Thread} (h : s.me = some th) (len : Nat) : s.retireNext len = s.retire (th.advance len) := by
  unfold State.retireNext; rw [h]

/-- An agent that exists stands in a resident group. -/
theorem group_of_me {s : State} {th : Thread} (h : s.me = some th) : ∃ g, s.group s.cur.core = some g ∧ g.agent s.cur.issuer = some th := by
  unfold State.me State.agent at h
  split at h
  · rename_i g hg; exact ⟨g, hg, h⟩
  · cases h

/-! ## Arithmetic -/

@[simp] theorem unionOf_one (f : Flg) : unionOf [f] = f := by simp [unionOf]

/-- One lane that raises no enabled condition retires with its conditions. -/
theorem fpRetire_quiet {s : State} {th : Thread} {f : Flg} (h : f &&& th.enabled = 0) (k : Thread → Thread) :
    fpRetire s th [f] k = .ok ((s.retire ((k th).raiseFlags f)).unite s.cur.core f) := by
  unfold fpRetire needQuiet; simp [findIdx, h]

/-- One lane that raises an enabled condition raises FP. -/
theorem fpRetire_trap {s : State} {th : Thread} {f : Flg} (h : f &&& th.enabled ≠ 0) (k : Thread → Thread) :
    fpRetire s th [f] k = raise s .fp (w64 f.toNat) := by
  have h' : (f &&& th.enabled != 0) = true := by simpa using h
  unfold fpRetire needQuiet; simp only [findIdx, h', if_true, unionOf_one, do_raise, Nat.zero_mul, Nat.add_zero]

/-! ## Waits that are over -/

/-- An agent with no journal entry waits for nothing of its journal. -/
theorem waitJournal_none {s : State} (h : NoneOutstanding s) (p : JPart → Bool) (why : Wait) : waitJournal s s.cur p why = .ok () := by
  have he : ((s.core s.cur.core).jrnl.filter fun e => e.owner == s.cur.issuer) = [] := by
    rw [List.filter_eq_nil_iff]; intro e he; have := h e he; simp [JEnt.owes] at this; simp [this.1]
  unfold waitJournal; simp [he]

/-- Where no entry of a core meets a test, none is changed. -/
theorem noteJrnl_none {s : State} {core : Nat} {p : JEnt → Bool} (h : ∀ e ∈ (s.core core).jrnl, p e = false) (f : JEnt → JEnt) :
    s.noteJrnl core p f = s := by
  have : (s.core core).jrnl.any p = false := by rw [List.any_eq_false]; intro e he; simp [h e he]
  unfold State.noteJrnl; simp [this]

/-- A release of an agent that owes nothing covers nothing. -/
theorem publish_none {s : State} (h : NoneOutstanding s) : s.publish s.cur = s := by
  unfold State.publish; exact noteJrnl_none (fun e he => by simp [h e he]) _

/-- A release of an agent that owes nothing waits for nothing and leaves the state as it is. -/
theorem releaseWait_none {s : State} (h : NoneOutstanding s) (o : MemOrd) (sc : Scope) : releaseWait s s.cur o sc = .ok s := by
  have ha : ∀ q : JEnt → Bool, ((s.core s.cur.core).jrnl.any fun e => e.also.contains s.cur.issuer && q e) = false := by
    intro q; rw [List.any_eq_false]; intro e he; have := h e he; simp [JEnt.owes] at this; simp [this.2]
  unfold releaseWait
  cases o <;> simp only [waitJournal_none h, do_ok, Bool.and_assoc, ha, publish_none h] <;> simp

theorem overlapWait_none {s : State} (h : NoneOutstanding s) (ps : List Part) : overlapWait s s.cur ps = .ok () :=
  waitJournal_none h _ _

end Sys2Proof.Machine
end

