-- ==== Sys2Proof/Laws/PerInstr.lean ====
section
/-! SUPPORT. Families of lemmas with one lemma per instruction. -/

/-! MapRow: an instruction's encoding names a class and an operation that the opcode map has, in the length it takes (03 R44, Table 5). -/

namespace Sys2Proof.Laws.MapRow

/-- The class and operation of the encoding are a row of the opcode map, and the row exists in the encoding's length. -/
def Statement (i : Instr) : Prop :=
  ∀ f, encodeFields i = some f → ∃ r, opRow f.cls.toNat f.op.toNat = some r ∧ r.hasLen f.len = true

theorem add (sz : ISz) (d : Reg) (a : Reg) (b : Reg) : Statement (.add sz d a b) := by
  intro f hf
  cases hf; exact ⟨_, rfl, rfl⟩
theorem sub (sz : ISz) (d : Reg) (a : Reg) (b : Reg) : Statement (.sub sz d a b) := by
  intro f hf
  cases hf; exact ⟨_, rfl, rfl⟩
theorem and (sz : ISz) (d : Reg) (a : Reg) (b : Reg) : Statement (.and sz d a b) := by
  intro f hf
  cases hf; exact ⟨_, rfl, rfl⟩
theorem or (sz : ISz) (d : Reg) (a : Reg) (b : Reg) : Statement (.or sz d a b) := by
  intro f hf
  cases hf; exact ⟨_, rfl, rfl⟩
theorem xor (sz : ISz) (d : Reg) (a : Reg) (b : Reg) : Statement (.xor sz d a b) := by
  intro f hf
  cases hf; exact ⟨_, rfl, rfl⟩
theorem andn (sz : ISz) (d : Reg) (a : Reg) (b : Reg) : Statement (.andn sz d a b) := by
  intro f hf
  cases hf; exact ⟨_, rfl, rfl⟩
theorem shl (sz : ISz) (d : Reg) (a : Reg) (b : Reg) : Statement (.shl sz d a b) := by
  intro f hf
  cases hf; exact ⟨_, rfl, rfl⟩
theorem shr (sz : ISz) (d : Reg) (a : Reg) (b : Reg) : Statement (.shr sz d a b) := by
  intro f hf
  cases hf; exact ⟨_, rfl, rfl⟩
theorem sra (sz : ISz) (d : Reg) (a : Reg) (b : Reg) : Statement (.sra sz d a b) := by
  intro f hf
  cases hf; exact ⟨_, rfl, rfl⟩
theorem rol (sz : ISz) (d : Reg) (a : Reg) (b : Reg) : Statement (.rol sz d a b) := by
  intro f hf
  cases hf; exact ⟨_, rfl, rfl⟩
theorem ror (sz : ISz) (d : Reg) (a : Reg) (b : Reg) : Statement (.ror sz d a b) := by
  intro f hf
  cases hf; exact ⟨_, rfl, rfl⟩
theorem min (sz : ISz) (d : Reg) (a : Reg) (b : Reg) : Statement (.min sz d a b) := by
  intro f hf
  cases hf; exact ⟨_, rfl, rfl⟩
theorem max (sz : ISz) (d : Reg) (a : Reg) (b : Reg) : Statement (.max sz d a b) := by
  intro f hf
  cases hf; exact ⟨_, rfl, rfl⟩
theorem minu (sz : ISz) (d : Reg) (a : Reg) (b : Reg) : Statement (.minu sz d a b) := by
  intro f hf
  cases hf; exact ⟨_, rfl, rfl⟩
theorem maxu (sz : ISz) (d : Reg) (a : Reg) (b : Reg) : Statement (.maxu sz d a b) := by
  intro f hf
  cases hf; exact ⟨_, rfl, rfl⟩
theorem slt (sz : ISz) (d : Reg) (a : Reg) (b : Reg) : Statement (.slt sz d a b) := by
  intro f hf
  cases hf; exact ⟨_, rfl, rfl⟩
theorem sltu (sz : ISz) (d : Reg) (a : Reg) (b : Reg) : Statement (.sltu sz d a b) := by
  intro f hf
  cases hf; exact ⟨_, rfl, rfl⟩
theorem seq (sz : ISz) (d : Reg) (a : Reg) (b : Reg) : Statement (.seq sz d a b) := by
  intro f hf
  cases hf; exact ⟨_, rfl, rfl⟩
theorem sel (sz : ISz) (d : Reg) (a : Reg) (b : Reg) (c : Reg) : Statement (.sel sz d a b c) := by
  intro f hf
  cases hf; exact ⟨_, rfl, rfl⟩
theorem addi (sz : ISz) (d : Reg) (a : Reg) (imm : ImmA) : Statement (.addi sz d a imm) := by
  intro f hf
  cases imm <;> cases hf <;> exact ⟨_, rfl, rfl⟩
theorem andi (sz : ISz) (d : Reg) (a : Reg) (imm : ImmA) : Statement (.andi sz d a imm) := by
  intro f hf
  cases imm <;> cases hf <;> exact ⟨_, rfl, rfl⟩
theorem ori (sz : ISz) (d : Reg) (a : Reg) (imm : ImmA) : Statement (.ori sz d a imm) := by
  intro f hf
  cases imm <;> cases hf <;> exact ⟨_, rfl, rfl⟩
theorem xori (sz : ISz) (d : Reg) (a : Reg) (imm : ImmA) : Statement (.xori sz d a imm) := by
  intro f hf
  cases imm <;> cases hf <;> exact ⟨_, rfl, rfl⟩
theorem shli (sz : ISz) (d : Reg) (a : Reg) (s : BitVec 6) : Statement (.shli sz d a s) := by
  intro f hf
  cases hf; exact ⟨_, rfl, rfl⟩
theorem shri (sz : ISz) (d : Reg) (a : Reg) (s : BitVec 6) : Statement (.shri sz d a s) := by
  intro f hf
  cases hf; exact ⟨_, rfl, rfl⟩
theorem srai (sz : ISz) (d : Reg) (a : Reg) (s : BitVec 6) : Statement (.srai sz d a s) := by
  intro f hf
  cases hf; exact ⟨_, rfl, rfl⟩
theorem li (sz : ISz) (d : Reg) (imm : ImmL) : Statement (.li sz d imm) := by
  intro f hf
  cases imm <;> cases hf <;> exact ⟨_, rfl, rfl⟩
theorem pcadd (d : Reg) (imm : ImmA) : Statement (.pcadd d imm) := by
  intro f hf
  cases imm <;> cases hf <;> exact ⟨_, rfl, rfl⟩
theorem mul (sz : ISz) (d : Reg) (a : Reg) (b : Reg) : Statement (.mul sz d a b) := by
  intro f hf
  cases hf; exact ⟨_, rfl, rfl⟩
theorem mulh (sz : ISz) (d : Reg) (a : Reg) (b : Reg) : Statement (.mulh sz d a b) := by
  intro f hf
  cases hf; exact ⟨_, rfl, rfl⟩
theorem mulhu (sz : ISz) (d : Reg) (a : Reg) (b : Reg) : Statement (.mulhu sz d a b) := by
  intro f hf
  cases hf; exact ⟨_, rfl, rfl⟩
theorem mulhsu (sz : ISz) (d : Reg) (a : Reg) (b : Reg) : Statement (.mulhsu sz d a b) := by
  intro f hf
  cases hf; exact ⟨_, rfl, rfl⟩
theorem div (sz : ISz) (d : Reg) (a : Reg) (b : Reg) : Statement (.div sz d a b) := by
  intro f hf
  cases hf; exact ⟨_, rfl, rfl⟩
theorem divu (sz : ISz) (d : Reg) (a : Reg) (b : Reg) : Statement (.divu sz d a b) := by
  intro f hf
  cases hf; exact ⟨_, rfl, rfl⟩
theorem rem (sz : ISz) (d : Reg) (a : Reg) (b : Reg) : Statement (.rem sz d a b) := by
  intro f hf
  cases hf; exact ⟨_, rfl, rfl⟩
theorem remu (sz : ISz) (d : Reg) (a : Reg) (b : Reg) : Statement (.remu sz d a b) := by
  intro f hf
  cases hf; exact ⟨_, rfl, rfl⟩
theorem madd (sz : ISz) (d : Reg) (a : Reg) (b : Reg) (c : Reg) : Statement (.madd sz d a b c) := by
  intro f hf
  cases hf; exact ⟨_, rfl, rfl⟩
theorem clz (sz : ISz) (d : Reg) (a : Reg) : Statement (.clz sz d a) := by
  intro f hf
  cases hf; exact ⟨_, rfl, rfl⟩
theorem ctz (sz : ISz) (d : Reg) (a : Reg) : Statement (.ctz sz d a) := by
  intro f hf
  cases hf; exact ⟨_, rfl, rfl⟩
theorem popc (sz : ISz) (d : Reg) (a : Reg) : Statement (.popc sz d a) := by
  intro f hf
  cases hf; exact ⟨_, rfl, rfl⟩
theorem bfx (sz : ISz) (d : Reg) (a : Reg) (pos : BitVec 6) (len : BitVec 7) : Statement (.bfx sz d a pos len) := by
  intro f hf
  cases hf; exact ⟨_, rfl, rfl⟩
theorem bfxu (sz : ISz) (d : Reg) (a : Reg) (pos : BitVec 6) (len : BitVec 7) : Statement (.bfxu sz d a pos len) := by
  intro f hf
  cases hf; exact ⟨_, rfl, rfl⟩
theorem bfi (sz : ISz) (d : Reg) (a : Reg) (b : Reg) (pos : BitVec 6) (len : BitVec 7) : Statement (.bfi sz d a b pos len) := by
  intro f hf
  cases hf; exact ⟨_, rfl, rfl⟩
theorem bswap (sz : ISz) (d : Reg) (a : Reg) : Statement (.bswap sz d a) := by
  intro f hf
  cases hf; exact ⟨_, rfl, rfl⟩
theorem brev (sz : ISz) (d : Reg) (a : Reg) : Statement (.brev sz d a) := by
  intro f hf
  cases hf; exact ⟨_, rfl, rfl⟩
theorem sext (sz : ISz) (d : Reg) (a : Reg) : Statement (.sext sz d a) := by
  intro f hf
  cases hf; exact ⟨_, rfl, rfl⟩
theorem zext (sz : ISz) (d : Reg) (a : Reg) : Statement (.zext sz d a) := by
  intro f hf
  cases hf; exact ⟨_, rfl, rfl⟩
theorem fadd (fmt : FFmt) (rm : Rm) (d : Reg) (a : Reg) (b : Reg) : Statement (.fadd fmt rm d a b) := by
  intro f hf
  cases hf; exact ⟨_, rfl, rfl⟩
theorem fsub (fmt : FFmt) (rm : Rm) (d : Reg) (a : Reg) (b : Reg) : Statement (.fsub fmt rm d a b) := by
  intro f hf
  cases hf; exact ⟨_, rfl, rfl⟩
theorem fmul (fmt : FFmt) (rm : Rm) (d : Reg) (a : Reg) (b : Reg) : Statement (.fmul fmt rm d a b) := by
  intro f hf
  cases hf; exact ⟨_, rfl, rfl⟩
theorem fma (fmt : FFmt) (rm : Rm) (d : Reg) (a : Reg) (b : Reg) (c : Reg) : Statement (.fma fmt rm d a b c) := by
  intro f hf
  cases hf; exact ⟨_, rfl, rfl⟩
theorem fnma (fmt : FFmt) (rm : Rm) (d : Reg) (a : Reg) (b : Reg) (c : Reg) : Statement (.fnma fmt rm d a b c) := by
  intro f hf
  cases hf; exact ⟨_, rfl, rfl⟩
theorem fdiv (fmt : FFmt) (rm : Rm) (d : Reg) (a : Reg) (b : Reg) : Statement (.fdiv fmt rm d a b) := by
  intro f hf
  cases hf; exact ⟨_, rfl, rfl⟩
theorem fsqrt (fmt : FFmt) (rm : Rm) (d : Reg) (a : Reg) : Statement (.fsqrt fmt rm d a) := by
  intro f hf
  cases hf; exact ⟨_, rfl, rfl⟩
theorem fmin (fmt : FFmt) (d : Reg) (a : Reg) (b : Reg) : Statement (.fmin fmt d a b) := by
  intro f hf
  cases hf; exact ⟨_, rfl, rfl⟩
theorem fmax (fmt : FFmt) (d : Reg) (a : Reg) (b : Reg) : Statement (.fmax fmt d a b) := by
  intro f hf
  cases hf; exact ⟨_, rfl, rfl⟩
theorem fsgn (fmt : FFmt) (d : Reg) (a : Reg) (b : Reg) (mode : BitVec 2) : Statement (.fsgn fmt d a b mode) := by
  intro f hf
  cases hf; exact ⟨_, rfl, rfl⟩
theorem fcmp (fmt : FFmt) (d : Reg) (a : Reg) (b : Reg) (mode : BitVec 2) : Statement (.fcmp fmt d a b mode) := by
  intro f hf
  cases hf; exact ⟨_, rfl, rfl⟩
theorem fclass (fmt : FFmt) (d : Reg) (a : Reg) : Statement (.fclass fmt d a) := by
  intro f hf
  cases hf; exact ⟨_, rfl, rfl⟩
theorem fcvt (fmt : FFmt) (rm : Rm) (d : Reg) (a : Reg) (src : BitVec 3) : Statement (.fcvt fmt rm d a src) := by
  intro f hf
  cases hf; exact ⟨_, rfl, rfl⟩
theorem fcvtInt (fmt : FFmt) (rm : Rm) (d : Reg) (a : Reg) (dst : BitVec 3) : Statement (.fcvtInt fmt rm d a dst) := by
  intro f hf
  cases hf; exact ⟨_, rfl, rfl⟩
theorem fmv (fmt : FFmt) (d : Reg) (a : Reg) : Statement (.fmv fmt d a) := by
  intro f hf
  cases hf; exact ⟨_, rfl, rfl⟩
theorem br (cond : Cond) (a : Reg) (b : Reg) (imm : ImmA) : Statement (.br cond a b imm) := by
  intro f hf
  cases imm <;> cases hf <;> exact ⟨_, rfl, rfl⟩
theorem jmp (imm : ImmA) : Statement (.jmp imm) := by
  intro f hf
  cases imm <;> cases hf <;> exact ⟨_, rfl, rfl⟩
theorem jmpr (a : Reg) (imm : BitVec 16) : Statement (.jmpr a imm) := by
  intro f hf
  cases hf; exact ⟨_, rfl, rfl⟩
theorem call (imm : ImmA) : Statement (.call imm) := by
  intro f hf
  cases imm <;> cases hf <;> exact ⟨_, rfl, rfl⟩
theorem callr (a : Reg) (imm : BitVec 16) : Statement (.callr a imm) := by
  intro f hf
  cases hf; exact ⟨_, rfl, rfl⟩
theorem ret : Statement (.ret) := by
  intro f hf
  cases hf; exact ⟨_, rfl, rfl⟩
theorem ctlRd (d : Reg) (num : BitVec 12) : Statement (.ctlRd d num) := by
  intro f hf
  cases hf; exact ⟨_, rfl, rfl⟩
theorem ctlWr (a : Reg) (num : BitVec 12) : Statement (.ctlWr a num) := by
  intro f hf
  cases hf; exact ⟨_, rfl, rfl⟩
theorem ctlSet (a : Reg) (num : BitVec 12) : Statement (.ctlSet a num) := by
  intro f hf
  cases hf; exact ⟨_, rfl, rfl⟩
theorem ctlClr (a : Reg) (num : BitVec 12) : Statement (.ctlClr a num) := by
  intro f hf
  cases hf; exact ⟨_, rfl, rfl⟩
theorem yield : Statement (.yield) := by
  intro f hf
  cases hf; exact ⟨_, rfl, rfl⟩
theorem tid (d : Reg) : Statement (.tid d) := by
  intro f hf
  cases hf; exact ⟨_, rfl, rfl⟩
theorem nop (len : NopLen) : Statement (.nop len) := by
  intro f hf
  cases len <;> cases hf <;> exact ⟨_, rfl, rfl⟩
theorem trap (imm : BitVec 16) : Statement (.trap imm) := by
  intro f hf
  cases hf; exact ⟨_, rfl, rfl⟩
theorem eret : Statement (.eret) := by
  intro f hf
  cases hf; exact ⟨_, rfl, rfl⟩
theorem halt : Statement (.halt) := by
  intro f hf
  cases hf; exact ⟨_, rfl, rfl⟩
theorem brk (imm : BitVec 16) : Statement (.brk imm) := by
  intro f hf
  cases hf; exact ⟨_, rfl, rfl⟩
theorem icinv (a : Reg) (b : Reg) : Statement (.icinv a b) := by
  intro f hf
  cases hf; exact ⟨_, rfl, rfl⟩
theorem icinvFeed (a : Reg) (b : Reg) (c : Reg) (storer : Bool) : Statement (.icinvFeed a b c storer) := by
  intro f hf
  cases storer <;> cases hf <;> exact ⟨_, rfl, rfl⟩
theorem ld (sz : ISz) (ord : MemOrd) (scope : Scope) (reuse : BitVec 3) (d : Reg) (a : Reg) (imm : ImmA) : Statement (.ld sz ord scope reuse d a imm) := by
  intro f hf
  cases imm <;> cases hf <;> exact ⟨_, rfl, rfl⟩
theorem ldx (sz : ISz) (ord : MemOrd) (scope : Scope) (reuse : BitVec 3) (d : Reg) (a : Reg) (b : Reg) (imm : ImmA) : Statement (.ldx sz ord scope reuse d a b imm) := by
  intro f hf
  cases imm <;> cases hf <;> exact ⟨_, rfl, rfl⟩
theorem st (sz : ISz) (ord : MemOrd) (scope : Scope) (a : Reg) (b : Reg) (imm : ImmA) : Statement (.st sz ord scope a b imm) := by
  intro f hf
  cases imm <;> cases hf <;> exact ⟨_, rfl, rfl⟩
theorem stx (sz : ISz) (ord : MemOrd) (scope : Scope) (a : Reg) (b : Reg) (c : Reg) (imm : ImmA) : Statement (.stx sz ord scope a b c imm) := by
  intro f hf
  cases imm <;> cases hf <;> exact ⟨_, rfl, rfl⟩
theorem amoAdd (sz : ASz) (ord : MemOrd) (scope : Scope) (d : Reg) (a : Reg) (b : Reg) : Statement (.amoAdd sz ord scope d a b) := by
  intro f hf
  cases hf; exact ⟨_, rfl, rfl⟩
theorem amoAnd (sz : ASz) (ord : MemOrd) (scope : Scope) (d : Reg) (a : Reg) (b : Reg) : Statement (.amoAnd sz ord scope d a b) := by
  intro f hf
  cases hf; exact ⟨_, rfl, rfl⟩
theorem amoOr (sz : ASz) (ord : MemOrd) (scope : Scope) (d : Reg) (a : Reg) (b : Reg) : Statement (.amoOr sz ord scope d a b) := by
  intro f hf
  cases hf; exact ⟨_, rfl, rfl⟩
theorem amoXor (sz : ASz) (ord : MemOrd) (scope : Scope) (d : Reg) (a : Reg) (b : Reg) : Statement (.amoXor sz ord scope d a b) := by
  intro f hf
  cases hf; exact ⟨_, rfl, rfl⟩
theorem amoMin (sz : ASz) (ord : MemOrd) (scope : Scope) (d : Reg) (a : Reg) (b : Reg) : Statement (.amoMin sz ord scope d a b) := by
  intro f hf
  cases hf; exact ⟨_, rfl, rfl⟩
theorem amoMax (sz : ASz) (ord : MemOrd) (scope : Scope) (d : Reg) (a : Reg) (b : Reg) : Statement (.amoMax sz ord scope d a b) := by
  intro f hf
  cases hf; exact ⟨_, rfl, rfl⟩
theorem amoMinu (sz : ASz) (ord : MemOrd) (scope : Scope) (d : Reg) (a : Reg) (b : Reg) : Statement (.amoMinu sz ord scope d a b) := by
  intro f hf
  cases hf; exact ⟨_, rfl, rfl⟩
theorem amoMaxu (sz : ASz) (ord : MemOrd) (scope : Scope) (d : Reg) (a : Reg) (b : Reg) : Statement (.amoMaxu sz ord scope d a b) := by
  intro f hf
  cases hf; exact ⟨_, rfl, rfl⟩
theorem amoSwap (sz : ASz) (ord : MemOrd) (scope : Scope) (d : Reg) (a : Reg) (b : Reg) : Statement (.amoSwap sz ord scope d a b) := by
  intro f hf
  cases hf; exact ⟨_, rfl, rfl⟩
theorem amoCas (sz : ASz) (ord : MemOrd) (scope : Scope) (d : Reg) (a : Reg) (b : Reg) (c : Reg) : Statement (.amoCas sz ord scope d a b c) := by
  intro f hf
  cases hf; exact ⟨_, rfl, rfl⟩
theorem fence (ord : MemOrd) (scope : Scope) : Statement (.fence ord scope) := by
  intro f hf
  cases hf; exact ⟨_, rfl, rfl⟩
theorem inval (a : Reg) (b : Reg) : Statement (.inval a b) := by
  intro f hf
  cases hf; exact ⟨_, rfl, rfl⟩
theorem wb (a : Reg) (b : Reg) : Statement (.wb a b) := by
  intro f hf
  cases hf; exact ⟨_, rfl, rfl⟩
theorem pf (a : Reg) (imm : BitVec 16) : Statement (.pf a imm) := by
  intro f hf
  cases hf; exact ⟨_, rfl, rfl⟩
theorem tlbInv (scope : Scope) (a : Reg) (b : Reg) : Statement (.tlbInv scope a b) := by
  intro f hf
  cases hf; exact ⟨_, rfl, rfl⟩
theorem tagLd (d : Reg) (a : Reg) (imm : BitVec 16) : Statement (.tagLd d a imm) := by
  intro f hf
  cases hf; exact ⟨_, rfl, rfl⟩
theorem tagSt (a : Reg) (b : Reg) (imm : BitVec 16) : Statement (.tagSt a b imm) := by
  intro f hf
  cases hf; exact ⟨_, rfl, rfl⟩
theorem tagLdw (d : Reg) (a : Reg) (c : Reg) (imm : BitVec 16) : Statement (.tagLdw d a c imm) := by
  intro f hf
  cases hf; exact ⟨_, rfl, rfl⟩
theorem tagFill (a : Reg) (b : Reg) (tag : BitVec 4) : Statement (.tagFill a b tag) := by
  intro f hf
  cases hf; exact ⟨_, rfl, rfl⟩
theorem actWr (a : Reg) (b : Reg) : Statement (.actWr a b) := by
  intro f hf
  cases hf; exact ⟨_, rfl, rfl⟩
theorem actWrImg (a : Reg) : Statement (.actWrImg a) := by
  intro f hf
  cases hf; exact ⟨_, rfl, rfl⟩
theorem actRd (d : Reg) (a : Reg) : Statement (.actRd d a) := by
  intro f hf
  cases hf; exact ⟨_, rfl, rfl⟩
theorem actRdSh (d : Reg) (a : Reg) : Statement (.actRdSh d a) := by
  intro f hf
  cases hf; exact ⟨_, rfl, rfl⟩
theorem actSwap : Statement (.actSwap) := by
  intro f hf
  cases hf; exact ⟨_, rfl, rfl⟩
theorem spSet (d : Reg) (a : Reg) (imm : ImmA) : Statement (.spSet d a imm) := by
  intro f hf
  cases imm <;> cases hf <;> exact ⟨_, rfl, rfl⟩
theorem spRd (d : Reg) (a : Reg) : Statement (.spRd d a) := by
  intro f hf
  cases hf; exact ⟨_, rfl, rfl⟩
theorem vadd (sz : ISz) (pr : Bool) (d : Reg) (a : Reg) (b : Reg) : Statement (.vadd sz pr d a b) := by
  intro f hf
  cases pr <;> cases hf <;> exact ⟨_, rfl, rfl⟩
theorem vsub (sz : ISz) (pr : Bool) (d : Reg) (a : Reg) (b : Reg) : Statement (.vsub sz pr d a b) := by
  intro f hf
  cases pr <;> cases hf <;> exact ⟨_, rfl, rfl⟩
theorem vmul (sz : ISz) (pr : Bool) (d : Reg) (a : Reg) (b : Reg) : Statement (.vmul sz pr d a b) := by
  intro f hf
  cases pr <;> cases hf <;> exact ⟨_, rfl, rfl⟩
theorem vmulh (sz : ISz) (pr : Bool) (d : Reg) (a : Reg) (b : Reg) : Statement (.vmulh sz pr d a b) := by
  intro f hf
  cases pr <;> cases hf <;> exact ⟨_, rfl, rfl⟩
theorem vmin (sz : ISz) (pr : Bool) (d : Reg) (a : Reg) (b : Reg) : Statement (.vmin sz pr d a b) := by
  intro f hf
  cases pr <;> cases hf <;> exact ⟨_, rfl, rfl⟩
theorem vmax (sz : ISz) (pr : Bool) (d : Reg) (a : Reg) (b : Reg) : Statement (.vmax sz pr d a b) := by
  intro f hf
  cases pr <;> cases hf <;> exact ⟨_, rfl, rfl⟩
theorem vabs (sz : ISz) (pr : Bool) (d : Reg) (a : Reg) : Statement (.vabs sz pr d a) := by
  intro f hf
  cases pr <;> cases hf <;> exact ⟨_, rfl, rfl⟩
theorem vneg (sz : ISz) (pr : Bool) (d : Reg) (a : Reg) : Statement (.vneg sz pr d a) := by
  intro f hf
  cases pr <;> cases hf <;> exact ⟨_, rfl, rfl⟩
theorem vand (sz : ISz) (pr : Bool) (d : Reg) (a : Reg) (b : Reg) : Statement (.vand sz pr d a b) := by
  intro f hf
  cases pr <;> cases hf <;> exact ⟨_, rfl, rfl⟩
theorem vor (sz : ISz) (pr : Bool) (d : Reg) (a : Reg) (b : Reg) : Statement (.vor sz pr d a b) := by
  intro f hf
  cases pr <;> cases hf <;> exact ⟨_, rfl, rfl⟩
theorem vxor (sz : ISz) (pr : Bool) (d : Reg) (a : Reg) (b : Reg) : Statement (.vxor sz pr d a b) := by
  intro f hf
  cases pr <;> cases hf <;> exact ⟨_, rfl, rfl⟩
theorem vshl (sz : ISz) (pr : Bool) (d : Reg) (a : Reg) (b : Reg) : Statement (.vshl sz pr d a b) := by
  intro f hf
  cases pr <;> cases hf <;> exact ⟨_, rfl, rfl⟩
theorem vshr (sz : ISz) (pr : Bool) (d : Reg) (a : Reg) (b : Reg) : Statement (.vshr sz pr d a b) := by
  intro f hf
  cases pr <;> cases hf <;> exact ⟨_, rfl, rfl⟩
theorem vsra (sz : ISz) (pr : Bool) (d : Reg) (a : Reg) (b : Reg) : Statement (.vsra sz pr d a b) := by
  intro f hf
  cases pr <;> cases hf <;> exact ⟨_, rfl, rfl⟩
theorem vsadd (sz : ISz) (pr : Bool) (d : Reg) (a : Reg) (b : Reg) : Statement (.vsadd sz pr d a b) := by
  intro f hf
  cases pr <;> cases hf <;> exact ⟨_, rfl, rfl⟩
theorem vssub (sz : ISz) (pr : Bool) (d : Reg) (a : Reg) (b : Reg) : Statement (.vssub sz pr d a b) := by
  intro f hf
  cases pr <;> cases hf <;> exact ⟨_, rfl, rfl⟩
theorem vfadd (fmt : FFmt) (pr : Bool) (rm : Rm) (d : Reg) (a : Reg) (b : Reg) : Statement (.vfadd fmt pr rm d a b) := by
  intro f hf
  cases pr <;> cases hf <;> exact ⟨_, rfl, rfl⟩
theorem vfsub (fmt : FFmt) (pr : Bool) (rm : Rm) (d : Reg) (a : Reg) (b : Reg) : Statement (.vfsub fmt pr rm d a b) := by
  intro f hf
  cases pr <;> cases hf <;> exact ⟨_, rfl, rfl⟩
theorem vfmul (fmt : FFmt) (pr : Bool) (rm : Rm) (d : Reg) (a : Reg) (b : Reg) : Statement (.vfmul fmt pr rm d a b) := by
  intro f hf
  cases pr <;> cases hf <;> exact ⟨_, rfl, rfl⟩
theorem vfma (fmt : FFmt) (pr : Bool) (rm : Rm) (d : Reg) (a : Reg) (b : Reg) (c : Reg) : Statement (.vfma fmt pr rm d a b c) := by
  intro f hf
  cases pr <;> cases hf <;> exact ⟨_, rfl, rfl⟩
theorem vfnma (fmt : FFmt) (pr : Bool) (rm : Rm) (d : Reg) (a : Reg) (b : Reg) (c : Reg) : Statement (.vfnma fmt pr rm d a b c) := by
  intro f hf
  cases pr <;> cases hf <;> exact ⟨_, rfl, rfl⟩
theorem vfmin (fmt : FFmt) (pr : Bool) (d : Reg) (a : Reg) (b : Reg) : Statement (.vfmin fmt pr d a b) := by
  intro f hf
  cases pr <;> cases hf <;> exact ⟨_, rfl, rfl⟩
theorem vfmax (fmt : FFmt) (pr : Bool) (d : Reg) (a : Reg) (b : Reg) : Statement (.vfmax fmt pr d a b) := by
  intro f hf
  cases pr <;> cases hf <;> exact ⟨_, rfl, rfl⟩
theorem vfdiv (fmt : FFmt) (pr : Bool) (rm : Rm) (d : Reg) (a : Reg) (b : Reg) : Statement (.vfdiv fmt pr rm d a b) := by
  intro f hf
  cases pr <;> cases hf <;> exact ⟨_, rfl, rfl⟩
theorem vfcmp (fmt : FFmt) (pr : Bool) (d : Reg) (a : Reg) (b : Reg) (mode : BitVec 2) : Statement (.vfcmp fmt pr d a b mode) := by
  intro f hf
  cases pr <;> cases hf <;> exact ⟨_, rfl, rfl⟩
theorem vcvt (fmt : VM) (rm : Rm) (d : Reg) (a : Reg) (e0 : BitVec 5) : Statement (.vcvt fmt rm d a e0) := by
  intro f hf
  cases hf; exact ⟨_, rfl, rfl⟩
theorem vcvtBlk (fmt : MFmt) (rm : Rm) (d : Reg) (a : Reg) (e0 : BitVec 5) (h : BitVec 4) (he : Bool) : Statement (.vcvtBlk fmt rm d a e0 h he) := by
  intro f hf
  cases he <;> cases hf <;> exact ⟨_, rfl, rfl⟩
theorem vpack (fmt : VFmt) (d : Reg) (a : Reg) (b : Reg) (u : Bool) : Statement (.vpack fmt d a b u) := by
  intro f hf
  cases u <;> cases hf <;> exact ⟨_, rfl, rfl⟩
theorem vunpack (fmt : VFmt) (d : Reg) (a : Reg) (hi : Bool) (z : Bool) : Statement (.vunpack fmt d a hi z) := by
  intro f hf
  cases hi <;> cases z <;> cases hf <;> exact ⟨_, rfl, rfl⟩
theorem vld (fmt : VM) (ord : MemOrd) (scope : Scope) (reuse : BitVec 3) (d : Reg) (base : VBase) (c : Reg) : Statement (.vld fmt ord scope reuse d base c) := by
  intro f hf
  cases base <;> cases hf <;> exact ⟨_, rfl, rfl⟩
theorem vst (fmt : VM) (ord : MemOrd) (scope : Scope) (b : Reg) (base : VBase) (c : Reg) : Statement (.vst fmt ord scope b base c) := by
  intro f hf
  cases base <;> cases hf <;> exact ⟨_, rfl, rfl⟩
theorem vldg (fmt : VM) (ord : MemOrd) (scope : Scope) (reuse : BitVec 3) (d : Reg) (a : Reg) (b : Reg) (long : Bool) : Statement (.vldg fmt ord scope reuse d a b long) := by
  intro f hf
  cases long <;> cases hf <;> exact ⟨_, rfl, rfl⟩
theorem vsts (fmt : VM) (ord : MemOrd) (scope : Scope) (a : Reg) (b : Reg) (c : Reg) (long : Bool) : Statement (.vsts fmt ord scope a b c long) := by
  intro f hf
  cases long <;> cases hf <;> exact ⟨_, rfl, rfl⟩
theorem vperm (sz : ISz) (d : Reg) (a : Reg) (b : Reg) (c : Reg) : Statement (.vperm sz d a b c) := by
  intro f hf
  cases hf; exact ⟨_, rfl, rfl⟩
theorem vsel (sz : ISz) (d : Reg) (a : Reg) (b : Reg) (c : Reg) : Statement (.vsel sz d a b c) := by
  intro f hf
  cases hf; exact ⟨_, rfl, rfl⟩
theorem vmerge (sz : ISz) (d : Reg) (a : Reg) (b : Reg) (hf : Bool) : Statement (.vmerge sz d a b hf) := by
  intro f hf
  cases hf <;> cases hf <;> exact ⟨_, rfl, rfl⟩
theorem vslide (sz : ISz) (d : Reg) (a : Reg) (b : Reg) (s : BitVec 6) : Statement (.vslide sz d a b s) := by
  intro f hf
  cases hf; exact ⟨_, rfl, rfl⟩
theorem vbcast (sz : ISz) (d : Reg) (a : Reg) (tag : BitVec 4) : Statement (.vbcast sz d a tag) := by
  intro f hf
  cases hf; exact ⟨_, rfl, rfl⟩
theorem vext (sz : ISz) (d : Reg) (a : Reg) (k : BitVec 5) : Statement (.vext sz d a k) := by
  intro f hf
  cases hf; exact ⟨_, rfl, rfl⟩
theorem vins (sz : ISz) (d : Reg) (a : Reg) (k : BitVec 5) (tag : BitVec 4) : Statement (.vins sz d a k tag) := by
  intro f hf
  cases hf; exact ⟨_, rfl, rfl⟩
theorem vredAdd (fmt : VFmt) (rm : Rm) (d : Reg) (a : Reg) : Statement (.vredAdd fmt rm d a) := by
  intro f hf
  cases hf; exact ⟨_, rfl, rfl⟩
theorem vredMax (fmt : VFmt) (d : Reg) (a : Reg) : Statement (.vredMax fmt d a) := by
  intro f hf
  cases hf; exact ⟨_, rfl, rfl⟩
theorem vredMin (fmt : VFmt) (d : Reg) (a : Reg) : Statement (.vredMin fmt d a) := by
  intro f hf
  cases hf; exact ⟨_, rfl, rfl⟩
theorem vexp2V (rm : Rm) (d : Reg) (a : Reg) : Statement (.vexp2V rm d a) := by
  intro f hf
  cases hf; exact ⟨_, rfl, rfl⟩
theorem vrcpV (rm : Rm) (d : Reg) (a : Reg) : Statement (.vrcpV rm d a) := by
  intro f hf
  cases hf; exact ⟨_, rfl, rfl⟩
theorem vrsqrtV (rm : Rm) (d : Reg) (a : Reg) : Statement (.vrsqrtV rm d a) := by
  intro f hf
  cases hf; exact ⟨_, rfl, rfl⟩
theorem vlog2V (rm : Rm) (d : Reg) (a : Reg) : Statement (.vlog2V rm d a) := by
  intro f hf
  cases hf; exact ⟨_, rfl, rfl⟩
theorem crandV (sz : CrSz) (d : Reg) (a : Reg) (b : Reg) : Statement (.crandV sz d a b) := by
  intro f hf
  cases hf; exact ⟨_, rfl, rfl⟩
theorem vexp2S (rm : Rm) (d : Reg) (a : Reg) : Statement (.vexp2S rm d a) := by
  intro f hf
  cases hf; exact ⟨_, rfl, rfl⟩
theorem vrcpS (rm : Rm) (d : Reg) (a : Reg) : Statement (.vrcpS rm d a) := by
  intro f hf
  cases hf; exact ⟨_, rfl, rfl⟩
theorem vrsqrtS (rm : Rm) (d : Reg) (a : Reg) : Statement (.vrsqrtS rm d a) := by
  intro f hf
  cases hf; exact ⟨_, rfl, rfl⟩
theorem vlog2S (rm : Rm) (d : Reg) (a : Reg) : Statement (.vlog2S rm d a) := by
  intro f hf
  cases hf; exact ⟨_, rfl, rfl⟩
theorem crandS (d : Reg) (a : Reg) (b : Reg) : Statement (.crandS d a b) := by
  intro f hf
  cases hf; exact ⟨_, rfl, rfl⟩
theorem vloop (a : Reg) (imm : BitVec 16) : Statement (.vloop a imm) := by
  intro f hf
  cases hf; exact ⟨_, rfl, rfl⟩
theorem tld (fmt : MFmt) (reuse : BitVec 3) (d : Reg) (a : Reg) (b : Reg) (c : Reg) (imm : ImmA) : Statement (.tld fmt reuse d a b c imm) := by
  intro f hf
  cases imm <;> cases hf <;> exact ⟨_, rfl, rfl⟩
theorem tst (fmt : MFmt) (d : Reg) (a : Reg) (b : Reg) (c : Reg) (imm : ImmA) : Statement (.tst fmt d a b c imm) := by
  intro f hf
  cases imm <;> cases hf <;> exact ⟨_, rfl, rfl⟩
theorem tzero (fmt : MFmt) (d : Reg) : Statement (.tzero fmt d) := by
  intro f hf
  cases hf; exact ⟨_, rfl, rfl⟩
theorem tcvt (fmt : MFmt) (rm : Rm) (d : Reg) (a : Reg) (h : BitVec 4) (he : Bool) : Statement (.tcvt fmt rm d a h he) := by
  intro f hf
  cases he <;> cases hf <;> exact ⟨_, rfl, rfl⟩
theorem tmov (fmt : MFmt) (d : Reg) (a : Reg) : Statement (.tmov fmt d a) := by
  intro f hf
  cases hf; exact ⟨_, rfl, rfl⟩
theorem mma (fmt : MFmt) (d : Reg) (a : Reg) (b : Reg) (k : BitVec 7) : Statement (.mma fmt d a b k) := by
  intro f hf
  cases hf; exact ⟨_, rfl, rfl⟩
theorem mmaCp (fmt : MFmt) (d : Reg) (a : Reg) (b : Reg) (k : BitVec 7) : Statement (.mmaCp fmt d a b k) := by
  intro f hf
  cases hf; exact ⟨_, rfl, rfl⟩
theorem cpLd (nops : BitVec 2) (join : BitVec 2) (prog : BitVec 64) : Statement (.cpLd nops join prog) := by
  intro f hf
  cases hf; exact ⟨_, rfl, rfl⟩
theorem accRd (d : Reg) (a : Reg) (row : BitVec 6) : Statement (.accRd d a row) := by
  intro f hf
  cases hf; exact ⟨_, rfl, rfl⟩
theorem accWr (d : Reg) (a : Reg) (row : BitVec 6) : Statement (.accWr d a row) := by
  intro f hf
  cases hf; exact ⟨_, rfl, rfl⟩
theorem accZero (d : Reg) : Statement (.accZero d) := by
  intro f hf
  cases hf; exact ⟨_, rfl, rfl⟩
theorem gang (d : Reg) : Statement (.gang d) := by
  intro f hf
  cases hf; exact ⟨_, rfl, rfl⟩
theorem qCnt (d : Reg) (a : Reg) : Statement (.qCnt d a) := by
  intro f hf
  cases hf; exact ⟨_, rfl, rfl⟩
theorem qPeek (d : Reg) (a : Reg) : Statement (.qPeek d a) := by
  intro f hf
  cases hf; exact ⟨_, rfl, rfl⟩
theorem qPeekPop (d : Reg) (a : Reg) : Statement (.qPeekPop d a) := by
  intro f hf
  cases hf; exact ⟨_, rfl, rfl⟩
theorem qFlush (a : Reg) : Statement (.qFlush a) := by
  intro f hf
  cases hf; exact ⟨_, rfl, rfl⟩
theorem hdrLay (a : Reg) : Statement (.hdrLay a) := by
  intro f hf
  cases hf; exact ⟨_, rfl, rfl⟩
theorem hdrPack (d : Reg) (a : Reg) (n : BitVec 4) : Statement (.hdrPack d a n) := by
  intro f hf
  cases hf; exact ⟨_, rfl, rfl⟩
theorem hdrUnpack (s : Bool) (d : Reg) (a : Reg) (n : BitVec 4) : Statement (.hdrUnpack s d a n) := by
  intro f hf
  cases s <;> cases hf <;> exact ⟨_, rfl, rfl⟩
theorem sendQueue (d : Reg) (b : Reg) : Statement (.sendQueue d b) := by
  intro f hf
  cases hf; exact ⟨_, rfl, rfl⟩
theorem sendMailbox (ord : MemOrd) (scope : Scope) (a : Reg) (b : Reg) (nw : BitVec 5) : Statement (.sendMailbox ord scope a b nw) := by
  intro f hf
  cases hf; exact ⟨_, rfl, rfl⟩
theorem sendEngine (a : Reg) (b : Reg) : Statement (.sendEngine a b) := by
  intro f hf
  cases hf; exact ⟨_, rfl, rfl⟩
theorem mbxTake (ord : MemOrd) (scope : Scope) (d : Reg) (a : Reg) (mask : BitVec 4) : Statement (.mbxTake ord scope d a mask) := by
  intro f hf
  cases hf; exact ⟨_, rfl, rfl⟩
theorem mbxCnt (d : Reg) : Statement (.mbxCnt d) := by
  intro f hf
  cases hf; exact ⟨_, rfl, rfl⟩
theorem mbxCntCfg (d : Reg) (a : Reg) (r : BitVec 2) : Statement (.mbxCntCfg d a r) := by
  intro f hf
  cases hf; exact ⟨_, rfl, rfl⟩
theorem evSet (ord : MemOrd) (scope : Scope) (a : Reg) (q : BitVec 2) (rc : Bool) (b : Reg) : Statement (.evSet ord scope a q rc b) := by
  intro f hf
  cases rc <;> cases hf <;> exact ⟨_, rfl, rfl⟩
theorem evClr (ord : MemOrd) (scope : Scope) (a : Reg) (q : BitVec 2) (rc : Bool) (b : Reg) : Statement (.evClr ord scope a q rc b) := by
  intro f hf
  cases rc <;> cases hf <;> exact ⟨_, rfl, rfl⟩
theorem evWait (ord : MemOrd) (scope : Scope) (d : Reg) (a : Reg) (q : BitVec 2) (rc : Bool) (b : Reg) : Statement (.evWait ord scope d a q rc b) := by
  intro f hf
  cases rc <;> cases hf <;> exact ⟨_, rfl, rfl⟩
theorem evTest (ord : MemOrd) (scope : Scope) (d : Reg) (a : Reg) (q : BitVec 2) (rc : Bool) (b : Reg) : Statement (.evTest ord scope d a q rc b) := by
  intro f hf
  cases rc <;> cases hf <;> exact ⟨_, rfl, rfl⟩
theorem barInit (ord : MemOrd) (scope : Scope) (a : Reg) (b : Reg) : Statement (.barInit ord scope a b) := by
  intro f hf
  cases hf; exact ⟨_, rfl, rfl⟩
theorem barArrive (ord : MemOrd) (scope : Scope) (d : Reg) (a : Reg) : Statement (.barArrive ord scope d a) := by
  intro f hf
  cases hf; exact ⟨_, rfl, rfl⟩
theorem barExpect (a : Reg) (b : Reg) : Statement (.barExpect a b) := by
  intro f hf
  cases hf; exact ⟨_, rfl, rfl⟩
theorem barWait (ord : MemOrd) (scope : Scope) (d : Reg) (a : Reg) (b : Reg) : Statement (.barWait ord scope d a b) := by
  intro f hf
  cases hf; exact ⟨_, rfl, rfl⟩
theorem taskPost (d : Reg) (a : Reg) : Statement (.taskPost d a) := by
  intro f hf
  cases hf; exact ⟨_, rfl, rfl⟩
theorem taskExit : Statement (.taskExit) := by
  intro f hf
  cases hf; exact ⟨_, rfl, rfl⟩
theorem taskYield : Statement (.taskYield) := by
  intro f hf
  cases hf; exact ⟨_, rfl, rfl⟩
theorem taskWid (d : Reg) (k : BitVec 3) : Statement (.taskWid d k) := by
  intro f hf
  cases hf; exact ⟨_, rfl, rfl⟩
theorem taskSelf (d : Reg) (sel : BitVec 2) : Statement (.taskSelf d sel) := by
  intro f hf
  cases hf; exact ⟨_, rfl, rfl⟩
theorem coSuspend (d : Reg) (a : Reg) (b : Reg) : Statement (.coSuspend d a b) := by
  intro f hf
  cases hf; exact ⟨_, rfl, rfl⟩
theorem coResume (d : Reg) (a : Reg) (b : Reg) : Statement (.coResume d a b) := by
  intro f hf
  cases hf; exact ⟨_, rfl, rfl⟩
theorem coSeal (a : Reg) : Statement (.coSeal a) := by
  intro f hf
  cases hf; exact ⟨_, rfl, rfl⟩
theorem coDiscard (a : Reg) : Statement (.coDiscard a) := by
  intro f hf
  cases hf; exact ⟨_, rfl, rfl⟩
theorem coStat (d : Reg) (a : Reg) (sel : Bool) : Statement (.coStat d a sel) := by
  intro f hf
  cases sel <;> cases hf <;> exact ⟨_, rfl, rfl⟩
theorem rotOpen (d : Reg) (a : Reg) (b : Reg) (c : Reg) : Statement (.rotOpen d a b c) := by
  intro f hf
  cases hf; exact ⟨_, rfl, rfl⟩
theorem rotPut (a : Reg) (b : Reg) : Statement (.rotPut a b) := by
  intro f hf
  cases hf; exact ⟨_, rfl, rfl⟩
theorem rotTake (d : Reg) (a : Reg) (c : Reg) : Statement (.rotTake d a c) := by
  intro f hf
  cases hf; exact ⟨_, rfl, rfl⟩
theorem rotDone (a : Reg) (b : Reg) : Statement (.rotDone a b) := by
  intro f hf
  cases hf; exact ⟨_, rfl, rfl⟩
theorem rotClose (a : Reg) : Statement (.rotClose a) := by
  intro f hf
  cases hf; exact ⟨_, rfl, rfl⟩
theorem ctrStart (a : Reg) (n : BitVec 3) : Statement (.ctrStart a n) := by
  intro f hf
  cases hf; exact ⟨_, rfl, rfl⟩
theorem ctrStop (d : Reg) (a : Reg) (n : BitVec 3) : Statement (.ctrStop d a n) := by
  intro f hf
  cases hf; exact ⟨_, rfl, rfl⟩
theorem ctrRd (d : Reg) (n : BitVec 3) (sel : BitVec 2) : Statement (.ctrRd d n sel) := by
  intro f hf
  cases hf; exact ⟨_, rfl, rfl⟩
theorem sample (a : Reg) : Statement (.sample a) := by
  intro f hf
  cases hf; exact ⟨_, rfl, rfl⟩
theorem mark (a : Reg) (imm : BitVec 16) : Statement (.mark a imm) := by
  intro f hf
  cases hf; exact ⟨_, rfl, rfl⟩
theorem moduleReset (b : BringUp) : Statement (.moduleReset b) := by
  intro f hf
  cases hf
theorem hostPortTraining (rate : BitVec 8) (width : BitVec 8) (cxl : Bool) : Statement (.hostPortTraining rate width cxl) := by
  intro f hf
  cases hf
theorem stageImage (img : Image) : Statement (.stageImage img) := by
  intro f hf
  cases hf
theorem moduleResetCommand (b : BringUp) : Statement (.moduleResetCommand b) := by
  intro f hf
  cases hf
theorem registerWrite (off : Nat) (size : Nat) (val : BitVec 64) : Statement (.registerWrite off size val) := by
  intro f hf
  cases hf
theorem bar0InvalidAccess (off : Nat) (size : Nat) (write : Bool) : Statement (.bar0InvalidAccess off size write) := by
  intro f hf
  cases hf
theorem doorbellPost (dom : Nat) (vec : Nat) : Statement (.doorbellPost dom vec) := by
  intro f hf
  cases hf
theorem bar2Read (pa : Nat) (read : HostRead) : Statement (.bar2Read pa read) := by
  intro f hf
  cases hf
theorem bar2Write (pa : Nat) (write : HostWrite) : Statement (.bar2Write pa write) := by
  intro f hf
  cases hf
theorem hostSnoop (line : Nat) (kind : Snoop) : Statement (.hostSnoop line kind) := by
  intro f hf
  cases hf
theorem flagunionClear (cluster : Nat) (mask : BitVec 64) : Statement (.flagunionClear cluster mask) := by
  intro f hf
  cases hf
theorem eccError (pa : Nat) (corrected : Option Nat) (by_ : Consumer) : Statement (.eccError pa corrected by_) := by
  intro f hf
  cases hf
theorem blockFlit (port : Nat) (flit : Flit) : Statement (.blockFlit port flit) := by
  intro f hf
  cases hf
theorem slotGrant (port : Nat) (flit : Flit) : Statement (.slotGrant port flit) := by
  intro f hf
  cases hf
theorem forwardAck (port : Nat) (flit : Flit) : Statement (.forwardAck port flit) := by
  intro f hf
  cases hf
theorem openFlit (port : Nat) (flit : Flit) : Statement (.openFlit port flit) := by
  intro f hf
  cases hf
theorem breakFlit (port : Nat) (flit : Flit) : Statement (.breakFlit port flit) := by
  intro f hf
  cases hf
theorem retryRequest (port : Nat) (flit : Flit) : Statement (.retryRequest port flit) := by
  intro f hf
  cases hf
theorem flitCrcFailure (port : Nat) (flit : Flit) : Statement (.flitCrcFailure port flit) := by
  intro f hf
  cases hf
theorem firmwareEventSet (cluster : Nat) (q : Nat) (mask : BitVec 64) (set : Bool) : Statement (.firmwareEventSet cluster q mask set) := by
  intro f hf
  cases hf
theorem powerGating (unit : Nat) (on : Bool) : Statement (.powerGating unit on) := by
  intro f hf
  cases hf
theorem presentDrawRefresh (w : BitVec 32) : Statement (.presentDrawRefresh w) := by
  intro f hf
  cases hf
theorem readFailureLog : Statement (.readFailureLog) := by
  intro f hf
  cases hf
theorem commitImage : Statement (.commitImage) := by
  intro f hf
  cases hf
theorem setPolicy : Statement (.setPolicy) := by
  intro f hf
  cases hf
theorem fenceUnit : Statement (.fenceUnit) := by
  intro f hf
  cases hf
theorem readTraceRegister : Statement (.readTraceRegister) := by
  intro f hf
  cases hf
theorem writeTraceRegister : Statement (.writeTraceRegister) := by
  intro f hf
  cases hf
theorem claimLaunch : Statement (.claimLaunch) := by
  intro f hf
  cases hf
theorem releaseClaim : Statement (.releaseClaim) := by
  intro f hf
  cases hf
theorem haltGroup : Statement (.haltGroup) := by
  intro f hf
  cases hf
theorem resumeOrStep : Statement (.resumeOrStep) := by
  intro f hf
  cases hf
theorem readState : Statement (.readState) := by
  intro f hf
  cases hf
theorem writeState : Statement (.writeState) := by
  intro f hf
  cases hf
theorem setWatchpoint : Statement (.setWatchpoint) := by
  intro f hf
  cases hf
theorem reverseStep : Statement (.reverseStep) := by
  intro f hf
  cases hf
theorem stopAtTickCommand : Statement (.stopAtTickCommand) := by
  intro f hf
  cases hf
theorem readRegistrationEntry : Statement (.readRegistrationEntry) := by
  intro f hf
  cases hf
theorem readModuleCounter : Statement (.readModuleCounter) := by
  intro f hf
  cases hf
theorem readScratchpadWord : Statement (.readScratchpadWord) := by
  intro f hf
  cases hf
theorem writeScratchpadWord : Statement (.writeScratchpadWord) := by
  intro f hf
  cases hf
theorem readDebugEvent : Statement (.readDebugEvent) := by
  intro f hf
  cases hf
theorem recordAccept : Statement (.recordAccept) := by
  intro f hf
  cases hf
theorem hubCycle : Statement (.hubCycle) := by
  intro f hf
  cases hf
theorem headReservation : Statement (.headReservation) := by
  intro f hf
  cases hf
theorem quantumExpiry : Statement (.quantumExpiry) := by
  intro f hf
  cases hf
theorem hubWatchdog : Statement (.hubWatchdog) := by
  intro f hf
  cases hf
theorem gangRetirementReport : Statement (.gangRetirementReport) := by
  intro f hf
  cases hf
theorem completionSet : Statement (.completionSet) := by
  intro f hf
  cases hf
theorem launchFailure : Statement (.launchFailure) := by
  intro f hf
  cases hf
theorem evWaitRepresent : Statement (.evWaitRepresent) := by
  intro f hf
  cases hf
theorem stealReq : Statement (.stealReq) := by
  intro f hf
  cases hf
theorem stealOffer : Statement (.stealOffer) := by
  intro f hf
  cases hf
theorem stealAck : Statement (.stealAck) := by
  intro f hf
  cases hf
theorem stealNak : Statement (.stealNak) := by
  intro f hf
  cases hf
theorem stealConfirm : Statement (.stealConfirm) := by
  intro f hf
  cases hf
theorem stealPlaced : Statement (.stealPlaced) := by
  intro f hf
  cases hf
theorem stealLate : Statement (.stealLate) := by
  intro f hf
  cases hf
theorem stealDeadline : Statement (.stealDeadline) := by
  intro f hf
  cases hf
theorem hubReset : Statement (.hubReset) := by
  intro f hf
  cases hf
theorem incarnationAnnouncement : Statement (.incarnationAnnouncement) := by
  intro f hf
  cases hf
theorem victimDeathNotice : Statement (.victimDeathNotice) := by
  intro f hf
  cases hf
theorem agreedTick : Statement (.agreedTick) := by
  intro f hf
  cases hf
theorem saveBodyWrite : Statement (.saveBodyWrite) := by
  intro f hf
  cases hf
theorem maquette : Statement (.maquette) := by
  intro f hf
  cases hf
theorem homeLoadRequest : Statement (.homeLoadRequest) := by
  intro f hf
  cases hf
theorem forwardedLoad : Statement (.forwardedLoad) := by
  intro f hf
  cases hf
theorem loadReply : Statement (.loadReply) := by
  intro f hf
  cases hf
theorem homeRegistration : Statement (.homeRegistration) := by
  intro f hf
  cases hf
theorem revoke : Statement (.revoke) := by
  intro f hf
  cases hf
theorem forcedWriteBackAtOwner : Statement (.forcedWriteBackAtOwner) := by
  intro f hf
  cases hf
theorem ownerDataArrival : Statement (.ownerDataArrival) := by
  intro f hf
  cases hf
theorem registrationAck : Statement (.registrationAck) := by
  intro f hf
  cases hf
theorem mergeData : Statement (.mergeData) := by
  intro f hf
  cases hf
theorem homeAmo : Statement (.homeAmo) := by
  intro f hf
  cases hf
theorem untrackedStoreAtHome : Statement (.untrackedStoreAtHome) := by
  intro f hf
  cases hf
theorem farAccess : Statement (.farAccess) := by
  intro f hf
  cases hf
theorem journalAck : Statement (.journalAck) := by
  intro f hf
  cases hf
theorem storeRefusal : Statement (.storeRefusal) := by
  intro f hf
  cases hf
theorem asyncTrapEntry : Statement (.asyncTrapEntry) := by
  intro f hf
  cases hf
theorem coreWatchdogExpiry : Statement (.coreWatchdogExpiry) := by
  intro f hf
  cases hf
theorem coreDeathDeclaration : Statement (.coreDeathDeclaration) := by
  intro f hf
  cases hf
theorem tlbShootdownRequest : Statement (.tlbShootdownRequest) := by
  intro f hf
  cases hf
theorem tlbShootdownAck : Statement (.tlbShootdownAck) := by
  intro f hf
  cases hf
theorem waiterReevaluation : Statement (.waiterReevaluation) := by
  intro f hf
  cases hf
theorem waitQueueRetry : Statement (.waitQueueRetry) := by
  intro f hf
  cases hf
theorem actSwapBoundary : Statement (.actSwapBoundary) := by
  intro f hf
  cases hf
theorem flagunionSet : Statement (.flagunionSet) := by
  intro f hf
  cases hf
theorem gangOpStart : Statement (.gangOpStart) := by
  intro f hf
  cases hf
theorem matrixRetire : Statement (.matrixRetire) := by
  intro f hf
  cases hf
theorem jobAccept : Statement (.jobAccept) := by
  intro f hf
  cases hf
theorem jobStart : Statement (.jobStart) := by
  intro f hf
  cases hf
theorem engineUnit : Statement (.engineUnit) := by
  intro f hf
  cases hf
theorem reduceSetComplete : Statement (.reduceSetComplete) := by
  intro f hf
  cases hf
theorem jobComplete : Statement (.jobComplete) := by
  intro f hf
  cases hf
theorem jobFail : Statement (.jobFail) := by
  intro f hf
  cases hf
theorem replyDeposit : Statement (.replyDeposit) := by
  intro f hf
  cases hf
theorem mailboxDeposit : Statement (.mailboxDeposit) := by
  intro f hf
  cases hf
theorem barWaitPoll : Statement (.barWaitPoll) := by
  intro f hf
  cases hf
theorem samplingPulse : Statement (.samplingPulse) := by
  intro f hf
  cases hf
theorem stopAtTick : Statement (.stopAtTick) := by
  intro f hf
  cases hf
theorem thermalTrip : Statement (.thermalTrip) := by
  intro f hf
  cases hf
theorem powerThrottle : Statement (.powerThrottle) := by
  intro f hf
  cases hf
theorem portDown : Statement (.portDown) := by
  intro f hf
  cases hf
theorem forwardStart : Statement (.forwardStart) := by
  intro f hf
  cases hf
theorem putCopyComplete : Statement (.putCopyComplete) := by
  intro f hf
  cases hf
theorem ringTeardown : Statement (.ringTeardown) := by
  intro f hf
  cases hf
theorem portRetraining : Statement (.portRetraining) := by
  intro f hf
  cases hf
theorem releaseHeldThread : Statement (.releaseHeldThread) := by
  intro f hf
  cases hf
theorem powerLoss : Statement (.powerLoss) := by
  intro f hf
  cases hf
theorem writeBackAck : Statement (.writeBackAck) := by
  intro f hf
  cases hf
theorem amoReply : Statement (.amoReply) := by
  intro f hf
  cases hf

end Sys2Proof.Laws.MapRow
end

