-- ==== Sys2Proof/Laws/State.lean ====
section
/-! SUPPORT. What every update of the state leaves in every field: one lemma per field per update. -/

namespace Sys2Proof.Machine

/-! ## Units of the state -/

@[simp] theorem State.setCore_a1 (s : State) (c : Nat) (k : Core) : (s.setCore c k).a1 = s.a1 := rfl
@[simp] theorem State.setCore_cores (s : State) (c : Nat) (k : Core) : (s.setCore c k).cores = set s.cores c k := rfl
@[simp] theorem State.setCore_clusters (s : State) (c : Nat) (k : Core) : (s.setCore c k).clusters = s.clusters := rfl
@[simp] theorem State.setCore_hubs (s : State) (c : Nat) (k : Core) : (s.setCore c k).hubs = s.hubs := rfl
@[simp] theorem State.setCore_dieWalk (s : State) (c : Nat) (k : Core) : (s.setCore c k).dieWalk = s.dieWalk := rfl
@[simp] theorem State.setCore_slices (s : State) (c : Nat) (k : Core) : (s.setCore c k).slices = s.slices := rfl
@[simp] theorem State.setCore_vpool (s : State) (c : Nat) (k : Core) : (s.setCore c k).vpool = s.vpool := rfl
@[simp] theorem State.setCore_gangs (s : State) (c : Nat) (k : Core) : (s.setCore c k).gangs = s.gangs := rfl
@[simp] theorem State.setCore_nextGang (s : State) (c : Nat) (k : Core) : (s.setCore c k).nextGang = s.nextGang := rfl
@[simp] theorem State.setCore_net (s : State) (c : Nat) (k : Core) : (s.setCore c k).net = s.net := rfl
@[simp] theorem State.setCore_spill (s : State) (c : Nat) (k : Core) : (s.setCore c k).spill = s.spill := rfl
@[simp] theorem State.setCore_jobs (s : State) (c : Nat) (k : Core) : (s.setCore c k).jobs = s.jobs := rfl
@[simp] theorem State.setCore_reach (s : State) (c : Nat) (k : Core) : (s.setCore c k).reach = s.reach := rfl
@[simp] theorem State.setCore_nextJob (s : State) (c : Nat) (k : Core) : (s.setCore c k).nextJob = s.nextJob := rfl
@[simp] theorem State.setCore_mem (s : State) (c : Nat) (k : Core) : (s.setCore c k).mem = s.mem := rfl
@[simp] theorem State.setCore_hostMem (s : State) (c : Nat) (k : Core) : (s.setCore c k).hostMem = s.hostMem := rfl
@[simp] theorem State.setCore_domains (s : State) (c : Nat) (k : Core) : (s.setCore c k).domains = s.domains := rfl
@[simp] theorem State.setCore_localMap (s : State) (c : Nat) (k : Core) : (s.setCore c k).localMap = s.localMap := rfl
@[simp] theorem State.setCore_quantum (s : State) (c : Nat) (k : Core) : (s.setCore c k).quantum = s.quantum := rfl
@[simp] theorem State.setCore_watchdog (s : State) (c : Nat) (k : Core) : (s.setCore c k).watchdog = s.watchdog := rfl
@[simp] theorem State.setCore_rings (s : State) (c : Nat) (k : Core) : (s.setCore c k).rings = s.rings := rfl
@[simp] theorem State.setCore_ports (s : State) (c : Nat) (k : Core) : (s.setCore c k).ports = s.ports := rfl
@[simp] theorem State.setCore_host (s : State) (c : Nat) (k : Core) : (s.setCore c k).host = s.host := rfl
@[simp] theorem State.setCore_mgmt (s : State) (c : Nat) (k : Core) : (s.setCore c k).mgmt = s.mgmt := rfl
@[simp] theorem State.setCore_trace (s : State) (c : Nat) (k : Core) : (s.setCore c k).trace = s.trace := rfl
@[simp] theorem State.setCore_sup (s : State) (c : Nat) (k : Core) : (s.setCore c k).sup = s.sup := rfl
@[simp] theorem State.setCore_maquettes (s : State) (c : Nat) (k : Core) : (s.setCore c k).maquettes = s.maquettes := rfl
@[simp] theorem State.setCore_redo (s : State) (c : Nat) (k : Core) : (s.setCore c k).redo = s.redo := rfl
@[simp] theorem State.setCore_live (s : State) (c : Nat) (k : Core) : (s.setCore c k).live = s.live := rfl
@[simp] theorem State.setCore_stopped (s : State) (c : Nat) (k : Core) : (s.setCore c k).stopped = s.stopped := rfl
@[simp] theorem State.setCore_stopAt (s : State) (c : Nat) (k : Core) : (s.setCore c k).stopAt = s.stopAt := rfl
@[simp] theorem State.setCore_cycle (s : State) (c : Nat) (k : Core) : (s.setCore c k).cycle = s.cycle := rfl
@[simp] theorem State.setCore_seqCtr (s : State) (c : Nat) (k : Core) : (s.setCore c k).seqCtr = s.seqCtr := rfl
@[simp] theorem State.setCore_cur (s : State) (c : Nat) (k : Core) : (s.setCore c k).cur = s.cur := rfl
@[simp] theorem State.setCore_selA (s : State) (c : Nat) (k : Core) : (s.setCore c k).selA = s.selA := rfl
@[simp] theorem State.setCore_selB (s : State) (c : Nat) (k : Core) : (s.setCore c k).selB = s.selB := rfl
@[simp] theorem State.setCore_agenda (s : State) (c : Nat) (k : Core) : (s.setCore c k).agenda = s.agenda := rfl
@[simp] theorem State.setCore_due (s : State) (c : Nat) (k : Core) : (s.setCore c k).due = s.due := rfl
@[simp] theorem State.setCore_pulsed (s : State) (c : Nat) (k : Core) : (s.setCore c k).pulsed = s.pulsed := rfl
@[simp] theorem State.setCore_stepNo (s : State) (c : Nat) (k : Core) : (s.setCore c k).stepNo = s.stepNo := rfl
@[simp] theorem State.setCore_freeCtr (s : State) (c : Nat) (k : Core) : (s.setCore c k).freeCtr = s.freeCtr := rfl

@[simp] theorem State.setCluster_a1 (s : State) (c : Nat) (k : Cluster) : (s.setCluster c k).a1 = s.a1 := rfl
@[simp] theorem State.setCluster_cores (s : State) (c : Nat) (k : Cluster) : (s.setCluster c k).cores = s.cores := rfl
@[simp] theorem State.setCluster_clusters (s : State) (c : Nat) (k : Cluster) : (s.setCluster c k).clusters = set s.clusters c k := rfl
@[simp] theorem State.setCluster_hubs (s : State) (c : Nat) (k : Cluster) : (s.setCluster c k).hubs = s.hubs := rfl
@[simp] theorem State.setCluster_dieWalk (s : State) (c : Nat) (k : Cluster) : (s.setCluster c k).dieWalk = s.dieWalk := rfl
@[simp] theorem State.setCluster_slices (s : State) (c : Nat) (k : Cluster) : (s.setCluster c k).slices = s.slices := rfl
@[simp] theorem State.setCluster_vpool (s : State) (c : Nat) (k : Cluster) : (s.setCluster c k).vpool = s.vpool := rfl
@[simp] theorem State.setCluster_gangs (s : State) (c : Nat) (k : Cluster) : (s.setCluster c k).gangs = s.gangs := rfl
@[simp] theorem State.setCluster_nextGang (s : State) (c : Nat) (k : Cluster) : (s.setCluster c k).nextGang = s.nextGang := rfl
@[simp] theorem State.setCluster_net (s : State) (c : Nat) (k : Cluster) : (s.setCluster c k).net = s.net := rfl
@[simp] theorem State.setCluster_spill (s : State) (c : Nat) (k : Cluster) : (s.setCluster c k).spill = s.spill := rfl
@[simp] theorem State.setCluster_jobs (s : State) (c : Nat) (k : Cluster) : (s.setCluster c k).jobs = s.jobs := rfl
@[simp] theorem State.setCluster_reach (s : State) (c : Nat) (k : Cluster) : (s.setCluster c k).reach = s.reach := rfl
@[simp] theorem State.setCluster_nextJob (s : State) (c : Nat) (k : Cluster) : (s.setCluster c k).nextJob = s.nextJob := rfl
@[simp] theorem State.setCluster_mem (s : State) (c : Nat) (k : Cluster) : (s.setCluster c k).mem = s.mem := rfl
@[simp] theorem State.setCluster_hostMem (s : State) (c : Nat) (k : Cluster) : (s.setCluster c k).hostMem = s.hostMem := rfl
@[simp] theorem State.setCluster_domains (s : State) (c : Nat) (k : Cluster) : (s.setCluster c k).domains = s.domains := rfl
@[simp] theorem State.setCluster_localMap (s : State) (c : Nat) (k : Cluster) : (s.setCluster c k).localMap = s.localMap := rfl
@[simp] theorem State.setCluster_quantum (s : State) (c : Nat) (k : Cluster) : (s.setCluster c k).quantum = s.quantum := rfl
@[simp] theorem State.setCluster_watchdog (s : State) (c : Nat) (k : Cluster) : (s.setCluster c k).watchdog = s.watchdog := rfl
@[simp] theorem State.setCluster_rings (s : State) (c : Nat) (k : Cluster) : (s.setCluster c k).rings = s.rings := rfl
@[simp] theorem State.setCluster_ports (s : State) (c : Nat) (k : Cluster) : (s.setCluster c k).ports = s.ports := rfl
@[simp] theorem State.setCluster_host (s : State) (c : Nat) (k : Cluster) : (s.setCluster c k).host = s.host := rfl
@[simp] theorem State.setCluster_mgmt (s : State) (c : Nat) (k : Cluster) : (s.setCluster c k).mgmt = s.mgmt := rfl
@[simp] theorem State.setCluster_trace (s : State) (c : Nat) (k : Cluster) : (s.setCluster c k).trace = s.trace := rfl
@[simp] theorem State.setCluster_sup (s : State) (c : Nat) (k : Cluster) : (s.setCluster c k).sup = s.sup := rfl
@[simp] theorem State.setCluster_maquettes (s : State) (c : Nat) (k : Cluster) : (s.setCluster c k).maquettes = s.maquettes := rfl
@[simp] theorem State.setCluster_redo (s : State) (c : Nat) (k : Cluster) : (s.setCluster c k).redo = s.redo := rfl
@[simp] theorem State.setCluster_live (s : State) (c : Nat) (k : Cluster) : (s.setCluster c k).live = s.live := rfl
@[simp] theorem State.setCluster_stopped (s : State) (c : Nat) (k : Cluster) : (s.setCluster c k).stopped = s.stopped := rfl
@[simp] theorem State.setCluster_stopAt (s : State) (c : Nat) (k : Cluster) : (s.setCluster c k).stopAt = s.stopAt := rfl
@[simp] theorem State.setCluster_cycle (s : State) (c : Nat) (k : Cluster) : (s.setCluster c k).cycle = s.cycle := rfl
@[simp] theorem State.setCluster_seqCtr (s : State) (c : Nat) (k : Cluster) : (s.setCluster c k).seqCtr = s.seqCtr := rfl
@[simp] theorem State.setCluster_cur (s : State) (c : Nat) (k : Cluster) : (s.setCluster c k).cur = s.cur := rfl
@[simp] theorem State.setCluster_selA (s : State) (c : Nat) (k : Cluster) : (s.setCluster c k).selA = s.selA := rfl
@[simp] theorem State.setCluster_selB (s : State) (c : Nat) (k : Cluster) : (s.setCluster c k).selB = s.selB := rfl
@[simp] theorem State.setCluster_agenda (s : State) (c : Nat) (k : Cluster) : (s.setCluster c k).agenda = s.agenda := rfl
@[simp] theorem State.setCluster_due (s : State) (c : Nat) (k : Cluster) : (s.setCluster c k).due = s.due := rfl
@[simp] theorem State.setCluster_pulsed (s : State) (c : Nat) (k : Cluster) : (s.setCluster c k).pulsed = s.pulsed := rfl
@[simp] theorem State.setCluster_stepNo (s : State) (c : Nat) (k : Cluster) : (s.setCluster c k).stepNo = s.stepNo := rfl
@[simp] theorem State.setCluster_freeCtr (s : State) (c : Nat) (k : Cluster) : (s.setCluster c k).freeCtr = s.freeCtr := rfl

@[simp] theorem State.setHub_a1 (s : State) (d : Nat) (h : Hub) : (s.setHub d h).a1 = s.a1 := rfl
@[simp] theorem State.setHub_cores (s : State) (d : Nat) (h : Hub) : (s.setHub d h).cores = s.cores := rfl
@[simp] theorem State.setHub_clusters (s : State) (d : Nat) (h : Hub) : (s.setHub d h).clusters = s.clusters := rfl
@[simp] theorem State.setHub_hubs (s : State) (d : Nat) (h : Hub) : (s.setHub d h).hubs = set s.hubs d h := rfl
@[simp] theorem State.setHub_dieWalk (s : State) (d : Nat) (h : Hub) : (s.setHub d h).dieWalk = s.dieWalk := rfl
@[simp] theorem State.setHub_slices (s : State) (d : Nat) (h : Hub) : (s.setHub d h).slices = s.slices := rfl
@[simp] theorem State.setHub_vpool (s : State) (d : Nat) (h : Hub) : (s.setHub d h).vpool = s.vpool := rfl
@[simp] theorem State.setHub_gangs (s : State) (d : Nat) (h : Hub) : (s.setHub d h).gangs = s.gangs := rfl
@[simp] theorem State.setHub_nextGang (s : State) (d : Nat) (h : Hub) : (s.setHub d h).nextGang = s.nextGang := rfl
@[simp] theorem State.setHub_net (s : State) (d : Nat) (h : Hub) : (s.setHub d h).net = s.net := rfl
@[simp] theorem State.setHub_spill (s : State) (d : Nat) (h : Hub) : (s.setHub d h).spill = s.spill := rfl
@[simp] theorem State.setHub_jobs (s : State) (d : Nat) (h : Hub) : (s.setHub d h).jobs = s.jobs := rfl
@[simp] theorem State.setHub_reach (s : State) (d : Nat) (h : Hub) : (s.setHub d h).reach = s.reach := rfl
@[simp] theorem State.setHub_nextJob (s : State) (d : Nat) (h : Hub) : (s.setHub d h).nextJob = s.nextJob := rfl
@[simp] theorem State.setHub_mem (s : State) (d : Nat) (h : Hub) : (s.setHub d h).mem = s.mem := rfl
@[simp] theorem State.setHub_hostMem (s : State) (d : Nat) (h : Hub) : (s.setHub d h).hostMem = s.hostMem := rfl
@[simp] theorem State.setHub_domains (s : State) (d : Nat) (h : Hub) : (s.setHub d h).domains = s.domains := rfl
@[simp] theorem State.setHub_localMap (s : State) (d : Nat) (h : Hub) : (s.setHub d h).localMap = s.localMap := rfl
@[simp] theorem State.setHub_quantum (s : State) (d : Nat) (h : Hub) : (s.setHub d h).quantum = s.quantum := rfl
@[simp] theorem State.setHub_watchdog (s : State) (d : Nat) (h : Hub) : (s.setHub d h).watchdog = s.watchdog := rfl
@[simp] theorem State.setHub_rings (s : State) (d : Nat) (h : Hub) : (s.setHub d h).rings = s.rings := rfl
@[simp] theorem State.setHub_ports (s : State) (d : Nat) (h : Hub) : (s.setHub d h).ports = s.ports := rfl
@[simp] theorem State.setHub_host (s : State) (d : Nat) (h : Hub) : (s.setHub d h).host = s.host := rfl
@[simp] theorem State.setHub_mgmt (s : State) (d : Nat) (h : Hub) : (s.setHub d h).mgmt = s.mgmt := rfl
@[simp] theorem State.setHub_trace (s : State) (d : Nat) (h : Hub) : (s.setHub d h).trace = s.trace := rfl
@[simp] theorem State.setHub_sup (s : State) (d : Nat) (h : Hub) : (s.setHub d h).sup = s.sup := rfl
@[simp] theorem State.setHub_maquettes (s : State) (d : Nat) (h : Hub) : (s.setHub d h).maquettes = s.maquettes := rfl
@[simp] theorem State.setHub_redo (s : State) (d : Nat) (h : Hub) : (s.setHub d h).redo = s.redo := rfl
@[simp] theorem State.setHub_live (s : State) (d : Nat) (h : Hub) : (s.setHub d h).live = s.live := rfl
@[simp] theorem State.setHub_stopped (s : State) (d : Nat) (h : Hub) : (s.setHub d h).stopped = s.stopped := rfl
@[simp] theorem State.setHub_stopAt (s : State) (d : Nat) (h : Hub) : (s.setHub d h).stopAt = s.stopAt := rfl
@[simp] theorem State.setHub_cycle (s : State) (d : Nat) (h : Hub) : (s.setHub d h).cycle = s.cycle := rfl
@[simp] theorem State.setHub_seqCtr (s : State) (d : Nat) (h : Hub) : (s.setHub d h).seqCtr = s.seqCtr := rfl
@[simp] theorem State.setHub_cur (s : State) (d : Nat) (h : Hub) : (s.setHub d h).cur = s.cur := rfl
@[simp] theorem State.setHub_selA (s : State) (d : Nat) (h : Hub) : (s.setHub d h).selA = s.selA := rfl
@[simp] theorem State.setHub_selB (s : State) (d : Nat) (h : Hub) : (s.setHub d h).selB = s.selB := rfl
@[simp] theorem State.setHub_agenda (s : State) (d : Nat) (h : Hub) : (s.setHub d h).agenda = s.agenda := rfl
@[simp] theorem State.setHub_due (s : State) (d : Nat) (h : Hub) : (s.setHub d h).due = s.due := rfl
@[simp] theorem State.setHub_pulsed (s : State) (d : Nat) (h : Hub) : (s.setHub d h).pulsed = s.pulsed := rfl
@[simp] theorem State.setHub_stepNo (s : State) (d : Nat) (h : Hub) : (s.setHub d h).stepNo = s.stepNo := rfl
@[simp] theorem State.setHub_freeCtr (s : State) (d : Nat) (h : Hub) : (s.setHub d h).freeCtr = s.freeCtr := rfl

@[simp] theorem State.setSlice_a1 (s : State) (k : Nat) (v : Slice) : (s.setSlice k v).a1 = s.a1 := rfl
@[simp] theorem State.setSlice_cores (s : State) (k : Nat) (v : Slice) : (s.setSlice k v).cores = s.cores := rfl
@[simp] theorem State.setSlice_clusters (s : State) (k : Nat) (v : Slice) : (s.setSlice k v).clusters = s.clusters := rfl
@[simp] theorem State.setSlice_hubs (s : State) (k : Nat) (v : Slice) : (s.setSlice k v).hubs = s.hubs := rfl
@[simp] theorem State.setSlice_dieWalk (s : State) (k : Nat) (v : Slice) : (s.setSlice k v).dieWalk = s.dieWalk := rfl
@[simp] theorem State.setSlice_slices (s : State) (k : Nat) (v : Slice) : (s.setSlice k v).slices = set s.slices k v := rfl
@[simp] theorem State.setSlice_vpool (s : State) (k : Nat) (v : Slice) : (s.setSlice k v).vpool = s.vpool := rfl
@[simp] theorem State.setSlice_gangs (s : State) (k : Nat) (v : Slice) : (s.setSlice k v).gangs = s.gangs := rfl
@[simp] theorem State.setSlice_nextGang (s : State) (k : Nat) (v : Slice) : (s.setSlice k v).nextGang = s.nextGang := rfl
@[simp] theorem State.setSlice_net (s : State) (k : Nat) (v : Slice) : (s.setSlice k v).net = s.net := rfl
@[simp] theorem State.setSlice_spill (s : State) (k : Nat) (v : Slice) : (s.setSlice k v).spill = s.spill := rfl
@[simp] theorem State.setSlice_jobs (s : State) (k : Nat) (v : Slice) : (s.setSlice k v).jobs = s.jobs := rfl
@[simp] theorem State.setSlice_reach (s : State) (k : Nat) (v : Slice) : (s.setSlice k v).reach = s.reach := rfl
@[simp] theorem State.setSlice_nextJob (s : State) (k : Nat) (v : Slice) : (s.setSlice k v).nextJob = s.nextJob := rfl
@[simp] theorem State.setSlice_mem (s : State) (k : Nat) (v : Slice) : (s.setSlice k v).mem = s.mem := rfl
@[simp] theorem State.setSlice_hostMem (s : State) (k : Nat) (v : Slice) : (s.setSlice k v).hostMem = s.hostMem := rfl
@[simp] theorem State.setSlice_domains (s : State) (k : Nat) (v : Slice) : (s.setSlice k v).domains = s.domains := rfl
@[simp] theorem State.setSlice_localMap (s : State) (k : Nat) (v : Slice) : (s.setSlice k v).localMap = s.localMap := rfl
@[simp] theorem State.setSlice_quantum (s : State) (k : Nat) (v : Slice) : (s.setSlice k v).quantum = s.quantum := rfl
@[simp] theorem State.setSlice_watchdog (s : State) (k : Nat) (v : Slice) : (s.setSlice k v).watchdog = s.watchdog := rfl
@[simp] theorem State.setSlice_rings (s : State) (k : Nat) (v : Slice) : (s.setSlice k v).rings = s.rings := rfl
@[simp] theorem State.setSlice_ports (s : State) (k : Nat) (v : Slice) : (s.setSlice k v).ports = s.ports := rfl
@[simp] theorem State.setSlice_host (s : State) (k : Nat) (v : Slice) : (s.setSlice k v).host = s.host := rfl
@[simp] theorem State.setSlice_mgmt (s : State) (k : Nat) (v : Slice) : (s.setSlice k v).mgmt = s.mgmt := rfl
@[simp] theorem State.setSlice_trace (s : State) (k : Nat) (v : Slice) : (s.setSlice k v).trace = s.trace := rfl
@[simp] theorem State.setSlice_sup (s : State) (k : Nat) (v : Slice) : (s.setSlice k v).sup = s.sup := rfl
@[simp] theorem State.setSlice_maquettes (s : State) (k : Nat) (v : Slice) : (s.setSlice k v).maquettes = s.maquettes := rfl
@[simp] theorem State.setSlice_redo (s : State) (k : Nat) (v : Slice) : (s.setSlice k v).redo = s.redo := rfl
@[simp] theorem State.setSlice_live (s : State) (k : Nat) (v : Slice) : (s.setSlice k v).live = s.live := rfl
@[simp] theorem State.setSlice_stopped (s : State) (k : Nat) (v : Slice) : (s.setSlice k v).stopped = s.stopped := rfl
@[simp] theorem State.setSlice_stopAt (s : State) (k : Nat) (v : Slice) : (s.setSlice k v).stopAt = s.stopAt := rfl
@[simp] theorem State.setSlice_cycle (s : State) (k : Nat) (v : Slice) : (s.setSlice k v).cycle = s.cycle := rfl
@[simp] theorem State.setSlice_seqCtr (s : State) (k : Nat) (v : Slice) : (s.setSlice k v).seqCtr = s.seqCtr := rfl
@[simp] theorem State.setSlice_cur (s : State) (k : Nat) (v : Slice) : (s.setSlice k v).cur = s.cur := rfl
@[simp] theorem State.setSlice_selA (s : State) (k : Nat) (v : Slice) : (s.setSlice k v).selA = s.selA := rfl
@[simp] theorem State.setSlice_selB (s : State) (k : Nat) (v : Slice) : (s.setSlice k v).selB = s.selB := rfl
@[simp] theorem State.setSlice_agenda (s : State) (k : Nat) (v : Slice) : (s.setSlice k v).agenda = s.agenda := rfl
@[simp] theorem State.setSlice_due (s : State) (k : Nat) (v : Slice) : (s.setSlice k v).due = s.due := rfl
@[simp] theorem State.setSlice_pulsed (s : State) (k : Nat) (v : Slice) : (s.setSlice k v).pulsed = s.pulsed := rfl
@[simp] theorem State.setSlice_stepNo (s : State) (k : Nat) (v : Slice) : (s.setSlice k v).stepNo = s.stepNo := rfl
@[simp] theorem State.setSlice_freeCtr (s : State) (k : Nat) (v : Slice) : (s.setSlice k v).freeCtr = s.freeCtr := rfl

@[simp] theorem State.setRing_a1 (s : State) (r : Nat) (v : RotRing) : (s.setRing r v).a1 = s.a1 := rfl
@[simp] theorem State.setRing_cores (s : State) (r : Nat) (v : RotRing) : (s.setRing r v).cores = s.cores := rfl
@[simp] theorem State.setRing_clusters (s : State) (r : Nat) (v : RotRing) : (s.setRing r v).clusters = s.clusters := rfl
@[simp] theorem State.setRing_hubs (s : State) (r : Nat) (v : RotRing) : (s.setRing r v).hubs = s.hubs := rfl
@[simp] theorem State.setRing_dieWalk (s : State) (r : Nat) (v : RotRing) : (s.setRing r v).dieWalk = s.dieWalk := rfl
@[simp] theorem State.setRing_slices (s : State) (r : Nat) (v : RotRing) : (s.setRing r v).slices = s.slices := rfl
@[simp] theorem State.setRing_vpool (s : State) (r : Nat) (v : RotRing) : (s.setRing r v).vpool = s.vpool := rfl
@[simp] theorem State.setRing_gangs (s : State) (r : Nat) (v : RotRing) : (s.setRing r v).gangs = s.gangs := rfl
@[simp] theorem State.setRing_nextGang (s : State) (r : Nat) (v : RotRing) : (s.setRing r v).nextGang = s.nextGang := rfl
@[simp] theorem State.setRing_net (s : State) (r : Nat) (v : RotRing) : (s.setRing r v).net = s.net := rfl
@[simp] theorem State.setRing_spill (s : State) (r : Nat) (v : RotRing) : (s.setRing r v).spill = s.spill := rfl
@[simp] theorem State.setRing_jobs (s : State) (r : Nat) (v : RotRing) : (s.setRing r v).jobs = s.jobs := rfl
@[simp] theorem State.setRing_reach (s : State) (r : Nat) (v : RotRing) : (s.setRing r v).reach = s.reach := rfl
@[simp] theorem State.setRing_nextJob (s : State) (r : Nat) (v : RotRing) : (s.setRing r v).nextJob = s.nextJob := rfl
@[simp] theorem State.setRing_mem (s : State) (r : Nat) (v : RotRing) : (s.setRing r v).mem = s.mem := rfl
@[simp] theorem State.setRing_hostMem (s : State) (r : Nat) (v : RotRing) : (s.setRing r v).hostMem = s.hostMem := rfl
@[simp] theorem State.setRing_domains (s : State) (r : Nat) (v : RotRing) : (s.setRing r v).domains = s.domains := rfl
@[simp] theorem State.setRing_localMap (s : State) (r : Nat) (v : RotRing) : (s.setRing r v).localMap = s.localMap := rfl
@[simp] theorem State.setRing_quantum (s : State) (r : Nat) (v : RotRing) : (s.setRing r v).quantum = s.quantum := rfl
@[simp] theorem State.setRing_watchdog (s : State) (r : Nat) (v : RotRing) : (s.setRing r v).watchdog = s.watchdog := rfl
@[simp] theorem State.setRing_rings (s : State) (r : Nat) (v : RotRing) : (s.setRing r v).rings = vset s.rings r v := rfl
@[simp] theorem State.setRing_ports (s : State) (r : Nat) (v : RotRing) : (s.setRing r v).ports = s.ports := rfl
@[simp] theorem State.setRing_host (s : State) (r : Nat) (v : RotRing) : (s.setRing r v).host = s.host := rfl
@[simp] theorem State.setRing_mgmt (s : State) (r : Nat) (v : RotRing) : (s.setRing r v).mgmt = s.mgmt := rfl
@[simp] theorem State.setRing_trace (s : State) (r : Nat) (v : RotRing) : (s.setRing r v).trace = s.trace := rfl
@[simp] theorem State.setRing_sup (s : State) (r : Nat) (v : RotRing) : (s.setRing r v).sup = s.sup := rfl
@[simp] theorem State.setRing_maquettes (s : State) (r : Nat) (v : RotRing) : (s.setRing r v).maquettes = s.maquettes := rfl
@[simp] theorem State.setRing_redo (s : State) (r : Nat) (v : RotRing) : (s.setRing r v).redo = s.redo := rfl
@[simp] theorem State.setRing_live (s : State) (r : Nat) (v : RotRing) : (s.setRing r v).live = s.live := rfl
@[simp] theorem State.setRing_stopped (s : State) (r : Nat) (v : RotRing) : (s.setRing r v).stopped = s.stopped := rfl
@[simp] theorem State.setRing_stopAt (s : State) (r : Nat) (v : RotRing) : (s.setRing r v).stopAt = s.stopAt := rfl
@[simp] theorem State.setRing_cycle (s : State) (r : Nat) (v : RotRing) : (s.setRing r v).cycle = s.cycle := rfl
@[simp] theorem State.setRing_seqCtr (s : State) (r : Nat) (v : RotRing) : (s.setRing r v).seqCtr = s.seqCtr := rfl
@[simp] theorem State.setRing_cur (s : State) (r : Nat) (v : RotRing) : (s.setRing r v).cur = s.cur := rfl
@[simp] theorem State.setRing_selA (s : State) (r : Nat) (v : RotRing) : (s.setRing r v).selA = s.selA := rfl
@[simp] theorem State.setRing_selB (s : State) (r : Nat) (v : RotRing) : (s.setRing r v).selB = s.selB := rfl
@[simp] theorem State.setRing_agenda (s : State) (r : Nat) (v : RotRing) : (s.setRing r v).agenda = s.agenda := rfl
@[simp] theorem State.setRing_due (s : State) (r : Nat) (v : RotRing) : (s.setRing r v).due = s.due := rfl
@[simp] theorem State.setRing_pulsed (s : State) (r : Nat) (v : RotRing) : (s.setRing r v).pulsed = s.pulsed := rfl
@[simp] theorem State.setRing_stepNo (s : State) (r : Nat) (v : RotRing) : (s.setRing r v).stepNo = s.stepNo := rfl
@[simp] theorem State.setRing_freeCtr (s : State) (r : Nat) (v : RotRing) : (s.setRing r v).freeCtr = s.freeCtr := rfl

@[simp] theorem State.setPort_a1 (s : State) (p : Nat) (v : Port) : (s.setPort p v).a1 = s.a1 := rfl
@[simp] theorem State.setPort_cores (s : State) (p : Nat) (v : Port) : (s.setPort p v).cores = s.cores := rfl
@[simp] theorem State.setPort_clusters (s : State) (p : Nat) (v : Port) : (s.setPort p v).clusters = s.clusters := rfl
@[simp] theorem State.setPort_hubs (s : State) (p : Nat) (v : Port) : (s.setPort p v).hubs = s.hubs := rfl
@[simp] theorem State.setPort_dieWalk (s : State) (p : Nat) (v : Port) : (s.setPort p v).dieWalk = s.dieWalk := rfl
@[simp] theorem State.setPort_slices (s : State) (p : Nat) (v : Port) : (s.setPort p v).slices = s.slices := rfl
@[simp] theorem State.setPort_vpool (s : State) (p : Nat) (v : Port) : (s.setPort p v).vpool = s.vpool := rfl
@[simp] theorem State.setPort_gangs (s : State) (p : Nat) (v : Port) : (s.setPort p v).gangs = s.gangs := rfl
@[simp] theorem State.setPort_nextGang (s : State) (p : Nat) (v : Port) : (s.setPort p v).nextGang = s.nextGang := rfl
@[simp] theorem State.setPort_net (s : State) (p : Nat) (v : Port) : (s.setPort p v).net = s.net := rfl
@[simp] theorem State.setPort_spill (s : State) (p : Nat) (v : Port) : (s.setPort p v).spill = s.spill := rfl
@[simp] theorem State.setPort_jobs (s : State) (p : Nat) (v : Port) : (s.setPort p v).jobs = s.jobs := rfl
@[simp] theorem State.setPort_reach (s : State) (p : Nat) (v : Port) : (s.setPort p v).reach = s.reach := rfl
@[simp] theorem State.setPort_nextJob (s : State) (p : Nat) (v : Port) : (s.setPort p v).nextJob = s.nextJob := rfl
@[simp] theorem State.setPort_mem (s : State) (p : Nat) (v : Port) : (s.setPort p v).mem = s.mem := rfl
@[simp] theorem State.setPort_hostMem (s : State) (p : Nat) (v : Port) : (s.setPort p v).hostMem = s.hostMem := rfl
@[simp] theorem State.setPort_domains (s : State) (p : Nat) (v : Port) : (s.setPort p v).domains = s.domains := rfl
@[simp] theorem State.setPort_localMap (s : State) (p : Nat) (v : Port) : (s.setPort p v).localMap = s.localMap := rfl
@[simp] theorem State.setPort_quantum (s : State) (p : Nat) (v : Port) : (s.setPort p v).quantum = s.quantum := rfl
@[simp] theorem State.setPort_watchdog (s : State) (p : Nat) (v : Port) : (s.setPort p v).watchdog = s.watchdog := rfl
@[simp] theorem State.setPort_rings (s : State) (p : Nat) (v : Port) : (s.setPort p v).rings = s.rings := rfl
@[simp] theorem State.setPort_ports (s : State) (p : Nat) (v : Port) : (s.setPort p v).ports = vset s.ports p v := rfl
@[simp] theorem State.setPort_host (s : State) (p : Nat) (v : Port) : (s.setPort p v).host = s.host := rfl
@[simp] theorem State.setPort_mgmt (s : State) (p : Nat) (v : Port) : (s.setPort p v).mgmt = s.mgmt := rfl
@[simp] theorem State.setPort_trace (s : State) (p : Nat) (v : Port) : (s.setPort p v).trace = s.trace := rfl
@[simp] theorem State.setPort_sup (s : State) (p : Nat) (v : Port) : (s.setPort p v).sup = s.sup := rfl
@[simp] theorem State.setPort_maquettes (s : State) (p : Nat) (v : Port) : (s.setPort p v).maquettes = s.maquettes := rfl
@[simp] theorem State.setPort_redo (s : State) (p : Nat) (v : Port) : (s.setPort p v).redo = s.redo := rfl
@[simp] theorem State.setPort_live (s : State) (p : Nat) (v : Port) : (s.setPort p v).live = s.live := rfl
@[simp] theorem State.setPort_stopped (s : State) (p : Nat) (v : Port) : (s.setPort p v).stopped = s.stopped := rfl
@[simp] theorem State.setPort_stopAt (s : State) (p : Nat) (v : Port) : (s.setPort p v).stopAt = s.stopAt := rfl
@[simp] theorem State.setPort_cycle (s : State) (p : Nat) (v : Port) : (s.setPort p v).cycle = s.cycle := rfl
@[simp] theorem State.setPort_seqCtr (s : State) (p : Nat) (v : Port) : (s.setPort p v).seqCtr = s.seqCtr := rfl
@[simp] theorem State.setPort_cur (s : State) (p : Nat) (v : Port) : (s.setPort p v).cur = s.cur := rfl
@[simp] theorem State.setPort_selA (s : State) (p : Nat) (v : Port) : (s.setPort p v).selA = s.selA := rfl
@[simp] theorem State.setPort_selB (s : State) (p : Nat) (v : Port) : (s.setPort p v).selB = s.selB := rfl
@[simp] theorem State.setPort_agenda (s : State) (p : Nat) (v : Port) : (s.setPort p v).agenda = s.agenda := rfl
@[simp] theorem State.setPort_due (s : State) (p : Nat) (v : Port) : (s.setPort p v).due = s.due := rfl
@[simp] theorem State.setPort_pulsed (s : State) (p : Nat) (v : Port) : (s.setPort p v).pulsed = s.pulsed := rfl
@[simp] theorem State.setPort_stepNo (s : State) (p : Nat) (v : Port) : (s.setPort p v).stepNo = s.stepNo := rfl
@[simp] theorem State.setPort_freeCtr (s : State) (p : Nat) (v : Port) : (s.setPort p v).freeCtr = s.freeCtr := rfl

@[simp] theorem State.setGroup_a1 (s : State) (c : Nat) (g : Group) : (s.setGroup c g).a1 = s.a1 := rfl
@[simp] theorem State.setGroup_cores (s : State) (c : Nat) (g : Group) : (s.setGroup c g).cores = set s.cores c { s.core c with group := some g } := rfl
@[simp] theorem State.setGroup_clusters (s : State) (c : Nat) (g : Group) : (s.setGroup c g).clusters = s.clusters := rfl
@[simp] theorem State.setGroup_hubs (s : State) (c : Nat) (g : Group) : (s.setGroup c g).hubs = s.hubs := rfl
@[simp] theorem State.setGroup_dieWalk (s : State) (c : Nat) (g : Group) : (s.setGroup c g).dieWalk = s.dieWalk := rfl
@[simp] theorem State.setGroup_slices (s : State) (c : Nat) (g : Group) : (s.setGroup c g).slices = s.slices := rfl
@[simp] theorem State.setGroup_vpool (s : State) (c : Nat) (g : Group) : (s.setGroup c g).vpool = s.vpool := rfl
@[simp] theorem State.setGroup_gangs (s : State) (c : Nat) (g : Group) : (s.setGroup c g).gangs = s.gangs := rfl
@[simp] theorem State.setGroup_nextGang (s : State) (c : Nat) (g : Group) : (s.setGroup c g).nextGang = s.nextGang := rfl
@[simp] theorem State.setGroup_net (s : State) (c : Nat) (g : Group) : (s.setGroup c g).net = s.net := rfl
@[simp] theorem State.setGroup_spill (s : State) (c : Nat) (g : Group) : (s.setGroup c g).spill = s.spill := rfl
@[simp] theorem State.setGroup_jobs (s : State) (c : Nat) (g : Group) : (s.setGroup c g).jobs = s.jobs := rfl
@[simp] theorem State.setGroup_reach (s : State) (c : Nat) (g : Group) : (s.setGroup c g).reach = s.reach := rfl
@[simp] theorem State.setGroup_nextJob (s : State) (c : Nat) (g : Group) : (s.setGroup c g).nextJob = s.nextJob := rfl
@[simp] theorem State.setGroup_mem (s : State) (c : Nat) (g : Group) : (s.setGroup c g).mem = s.mem := rfl
@[simp] theorem State.setGroup_hostMem (s : State) (c : Nat) (g : Group) : (s.setGroup c g).hostMem = s.hostMem := rfl
@[simp] theorem State.setGroup_domains (s : State) (c : Nat) (g : Group) : (s.setGroup c g).domains = s.domains := rfl
@[simp] theorem State.setGroup_localMap (s : State) (c : Nat) (g : Group) : (s.setGroup c g).localMap = s.localMap := rfl
@[simp] theorem State.setGroup_quantum (s : State) (c : Nat) (g : Group) : (s.setGroup c g).quantum = s.quantum := rfl
@[simp] theorem State.setGroup_watchdog (s : State) (c : Nat) (g : Group) : (s.setGroup c g).watchdog = s.watchdog := rfl
@[simp] theorem State.setGroup_rings (s : State) (c : Nat) (g : Group) : (s.setGroup c g).rings = s.rings := rfl
@[simp] theorem State.setGroup_ports (s : State) (c : Nat) (g : Group) : (s.setGroup c g).ports = s.ports := rfl
@[simp] theorem State.setGroup_host (s : State) (c : Nat) (g : Group) : (s.setGroup c g).host = s.host := rfl
@[simp] theorem State.setGroup_mgmt (s : State) (c : Nat) (g : Group) : (s.setGroup c g).mgmt = s.mgmt := rfl
@[simp] theorem State.setGroup_trace (s : State) (c : Nat) (g : Group) : (s.setGroup c g).trace = s.trace := rfl
@[simp] theorem State.setGroup_sup (s : State) (c : Nat) (g : Group) : (s.setGroup c g).sup = s.sup := rfl
@[simp] theorem State.setGroup_maquettes (s : State) (c : Nat) (g : Group) : (s.setGroup c g).maquettes = s.maquettes := rfl
@[simp] theorem State.setGroup_redo (s : State) (c : Nat) (g : Group) : (s.setGroup c g).redo = s.redo := rfl
@[simp] theorem State.setGroup_live (s : State) (c : Nat) (g : Group) : (s.setGroup c g).live = s.live := rfl
@[simp] theorem State.setGroup_stopped (s : State) (c : Nat) (g : Group) : (s.setGroup c g).stopped = s.stopped := rfl
@[simp] theorem State.setGroup_stopAt (s : State) (c : Nat) (g : Group) : (s.setGroup c g).stopAt = s.stopAt := rfl
@[simp] theorem State.setGroup_cycle (s : State) (c : Nat) (g : Group) : (s.setGroup c g).cycle = s.cycle := rfl
@[simp] theorem State.setGroup_seqCtr (s : State) (c : Nat) (g : Group) : (s.setGroup c g).seqCtr = s.seqCtr := rfl
@[simp] theorem State.setGroup_cur (s : State) (c : Nat) (g : Group) : (s.setGroup c g).cur = s.cur := rfl
@[simp] theorem State.setGroup_selA (s : State) (c : Nat) (g : Group) : (s.setGroup c g).selA = s.selA := rfl
@[simp] theorem State.setGroup_selB (s : State) (c : Nat) (g : Group) : (s.setGroup c g).selB = s.selB := rfl
@[simp] theorem State.setGroup_agenda (s : State) (c : Nat) (g : Group) : (s.setGroup c g).agenda = s.agenda := rfl
@[simp] theorem State.setGroup_due (s : State) (c : Nat) (g : Group) : (s.setGroup c g).due = s.due := rfl
@[simp] theorem State.setGroup_pulsed (s : State) (c : Nat) (g : Group) : (s.setGroup c g).pulsed = s.pulsed := rfl
@[simp] theorem State.setGroup_stepNo (s : State) (c : Nat) (g : Group) : (s.setGroup c g).stepNo = s.stepNo := rfl
@[simp] theorem State.setGroup_freeCtr (s : State) (c : Nat) (g : Group) : (s.setGroup c g).freeCtr = s.freeCtr := rfl

@[simp] theorem State.setGang_a1 (s : State) (id : Nat) (k : Gang) : (s.setGang id k).a1 = s.a1 := rfl
@[simp] theorem State.setGang_cores (s : State) (id : Nat) (k : Gang) : (s.setGang id k).cores = s.cores := rfl
@[simp] theorem State.setGang_clusters (s : State) (id : Nat) (k : Gang) : (s.setGang id k).clusters = s.clusters := rfl
@[simp] theorem State.setGang_hubs (s : State) (id : Nat) (k : Gang) : (s.setGang id k).hubs = s.hubs := rfl
@[simp] theorem State.setGang_dieWalk (s : State) (id : Nat) (k : Gang) : (s.setGang id k).dieWalk = s.dieWalk := rfl
@[simp] theorem State.setGang_slices (s : State) (id : Nat) (k : Gang) : (s.setGang id k).slices = s.slices := rfl
@[simp] theorem State.setGang_vpool (s : State) (id : Nat) (k : Gang) : (s.setGang id k).vpool = s.vpool := rfl
@[simp] theorem State.setGang_gangs (s : State) (id : Nat) (k : Gang) : (s.setGang id k).gangs = set s.gangs id k := rfl
@[simp] theorem State.setGang_nextGang (s : State) (id : Nat) (k : Gang) : (s.setGang id k).nextGang = s.nextGang := rfl
@[simp] theorem State.setGang_net (s : State) (id : Nat) (k : Gang) : (s.setGang id k).net = s.net := rfl
@[simp] theorem State.setGang_spill (s : State) (id : Nat) (k : Gang) : (s.setGang id k).spill = s.spill := rfl
@[simp] theorem State.setGang_jobs (s : State) (id : Nat) (k : Gang) : (s.setGang id k).jobs = s.jobs := rfl
@[simp] theorem State.setGang_reach (s : State) (id : Nat) (k : Gang) : (s.setGang id k).reach = s.reach := rfl
@[simp] theorem State.setGang_nextJob (s : State) (id : Nat) (k : Gang) : (s.setGang id k).nextJob = s.nextJob := rfl
@[simp] theorem State.setGang_mem (s : State) (id : Nat) (k : Gang) : (s.setGang id k).mem = s.mem := rfl
@[simp] theorem State.setGang_hostMem (s : State) (id : Nat) (k : Gang) : (s.setGang id k).hostMem = s.hostMem := rfl
@[simp] theorem State.setGang_domains (s : State) (id : Nat) (k : Gang) : (s.setGang id k).domains = s.domains := rfl
@[simp] theorem State.setGang_localMap (s : State) (id : Nat) (k : Gang) : (s.setGang id k).localMap = s.localMap := rfl
@[simp] theorem State.setGang_quantum (s : State) (id : Nat) (k : Gang) : (s.setGang id k).quantum = s.quantum := rfl
@[simp] theorem State.setGang_watchdog (s : State) (id : Nat) (k : Gang) : (s.setGang id k).watchdog = s.watchdog := rfl
@[simp] theorem State.setGang_rings (s : State) (id : Nat) (k : Gang) : (s.setGang id k).rings = s.rings := rfl
@[simp] theorem State.setGang_ports (s : State) (id : Nat) (k : Gang) : (s.setGang id k).ports = s.ports := rfl
@[simp] theorem State.setGang_host (s : State) (id : Nat) (k : Gang) : (s.setGang id k).host = s.host := rfl
@[simp] theorem State.setGang_mgmt (s : State) (id : Nat) (k : Gang) : (s.setGang id k).mgmt = s.mgmt := rfl
@[simp] theorem State.setGang_trace (s : State) (id : Nat) (k : Gang) : (s.setGang id k).trace = s.trace := rfl
@[simp] theorem State.setGang_sup (s : State) (id : Nat) (k : Gang) : (s.setGang id k).sup = s.sup := rfl
@[simp] theorem State.setGang_maquettes (s : State) (id : Nat) (k : Gang) : (s.setGang id k).maquettes = s.maquettes := rfl
@[simp] theorem State.setGang_redo (s : State) (id : Nat) (k : Gang) : (s.setGang id k).redo = s.redo := rfl
@[simp] theorem State.setGang_live (s : State) (id : Nat) (k : Gang) : (s.setGang id k).live = s.live := rfl
@[simp] theorem State.setGang_stopped (s : State) (id : Nat) (k : Gang) : (s.setGang id k).stopped = s.stopped := rfl
@[simp] theorem State.setGang_stopAt (s : State) (id : Nat) (k : Gang) : (s.setGang id k).stopAt = s.stopAt := rfl
@[simp] theorem State.setGang_cycle (s : State) (id : Nat) (k : Gang) : (s.setGang id k).cycle = s.cycle := rfl
@[simp] theorem State.setGang_seqCtr (s : State) (id : Nat) (k : Gang) : (s.setGang id k).seqCtr = s.seqCtr := rfl
@[simp] theorem State.setGang_cur (s : State) (id : Nat) (k : Gang) : (s.setGang id k).cur = s.cur := rfl
@[simp] theorem State.setGang_selA (s : State) (id : Nat) (k : Gang) : (s.setGang id k).selA = s.selA := rfl
@[simp] theorem State.setGang_selB (s : State) (id : Nat) (k : Gang) : (s.setGang id k).selB = s.selB := rfl
@[simp] theorem State.setGang_agenda (s : State) (id : Nat) (k : Gang) : (s.setGang id k).agenda = s.agenda := rfl
@[simp] theorem State.setGang_due (s : State) (id : Nat) (k : Gang) : (s.setGang id k).due = s.due := rfl
@[simp] theorem State.setGang_pulsed (s : State) (id : Nat) (k : Gang) : (s.setGang id k).pulsed = s.pulsed := rfl
@[simp] theorem State.setGang_stepNo (s : State) (id : Nat) (k : Gang) : (s.setGang id k).stepNo = s.stepNo := rfl
@[simp] theorem State.setGang_freeCtr (s : State) (id : Nat) (k : Gang) : (s.setGang id k).freeCtr = s.freeCtr := rfl

@[simp] theorem State.setJob_a1 (s : State) (id : Nat) (j : Job) : (s.setJob id j).a1 = s.a1 := rfl
@[simp] theorem State.setJob_cores (s : State) (id : Nat) (j : Job) : (s.setJob id j).cores = s.cores := rfl
@[simp] theorem State.setJob_clusters (s : State) (id : Nat) (j : Job) : (s.setJob id j).clusters = s.clusters := rfl
@[simp] theorem State.setJob_hubs (s : State) (id : Nat) (j : Job) : (s.setJob id j).hubs = s.hubs := rfl
@[simp] theorem State.setJob_dieWalk (s : State) (id : Nat) (j : Job) : (s.setJob id j).dieWalk = s.dieWalk := rfl
@[simp] theorem State.setJob_slices (s : State) (id : Nat) (j : Job) : (s.setJob id j).slices = s.slices := rfl
@[simp] theorem State.setJob_vpool (s : State) (id : Nat) (j : Job) : (s.setJob id j).vpool = s.vpool := rfl
@[simp] theorem State.setJob_gangs (s : State) (id : Nat) (j : Job) : (s.setJob id j).gangs = s.gangs := rfl
@[simp] theorem State.setJob_nextGang (s : State) (id : Nat) (j : Job) : (s.setJob id j).nextGang = s.nextGang := rfl
@[simp] theorem State.setJob_net (s : State) (id : Nat) (j : Job) : (s.setJob id j).net = s.net := rfl
@[simp] theorem State.setJob_spill (s : State) (id : Nat) (j : Job) : (s.setJob id j).spill = s.spill := rfl
@[simp] theorem State.setJob_jobs (s : State) (id : Nat) (j : Job) : (s.setJob id j).jobs = set s.jobs id j := rfl
@[simp] theorem State.setJob_reach (s : State) (id : Nat) (j : Job) : (s.setJob id j).reach = s.reach := rfl
@[simp] theorem State.setJob_nextJob (s : State) (id : Nat) (j : Job) : (s.setJob id j).nextJob = s.nextJob := rfl
@[simp] theorem State.setJob_mem (s : State) (id : Nat) (j : Job) : (s.setJob id j).mem = s.mem := rfl
@[simp] theorem State.setJob_hostMem (s : State) (id : Nat) (j : Job) : (s.setJob id j).hostMem = s.hostMem := rfl
@[simp] theorem State.setJob_domains (s : State) (id : Nat) (j : Job) : (s.setJob id j).domains = s.domains := rfl
@[simp] theorem State.setJob_localMap (s : State) (id : Nat) (j : Job) : (s.setJob id j).localMap = s.localMap := rfl
@[simp] theorem State.setJob_quantum (s : State) (id : Nat) (j : Job) : (s.setJob id j).quantum = s.quantum := rfl
@[simp] theorem State.setJob_watchdog (s : State) (id : Nat) (j : Job) : (s.setJob id j).watchdog = s.watchdog := rfl
@[simp] theorem State.setJob_rings (s : State) (id : Nat) (j : Job) : (s.setJob id j).rings = s.rings := rfl
@[simp] theorem State.setJob_ports (s : State) (id : Nat) (j : Job) : (s.setJob id j).ports = s.ports := rfl
@[simp] theorem State.setJob_host (s : State) (id : Nat) (j : Job) : (s.setJob id j).host = s.host := rfl
@[simp] theorem State.setJob_mgmt (s : State) (id : Nat) (j : Job) : (s.setJob id j).mgmt = s.mgmt := rfl
@[simp] theorem State.setJob_trace (s : State) (id : Nat) (j : Job) : (s.setJob id j).trace = s.trace := rfl
@[simp] theorem State.setJob_sup (s : State) (id : Nat) (j : Job) : (s.setJob id j).sup = s.sup := rfl
@[simp] theorem State.setJob_maquettes (s : State) (id : Nat) (j : Job) : (s.setJob id j).maquettes = s.maquettes := rfl
@[simp] theorem State.setJob_redo (s : State) (id : Nat) (j : Job) : (s.setJob id j).redo = s.redo := rfl
@[simp] theorem State.setJob_live (s : State) (id : Nat) (j : Job) : (s.setJob id j).live = s.live := rfl
@[simp] theorem State.setJob_stopped (s : State) (id : Nat) (j : Job) : (s.setJob id j).stopped = s.stopped := rfl
@[simp] theorem State.setJob_stopAt (s : State) (id : Nat) (j : Job) : (s.setJob id j).stopAt = s.stopAt := rfl
@[simp] theorem State.setJob_cycle (s : State) (id : Nat) (j : Job) : (s.setJob id j).cycle = s.cycle := rfl
@[simp] theorem State.setJob_seqCtr (s : State) (id : Nat) (j : Job) : (s.setJob id j).seqCtr = s.seqCtr := rfl
@[simp] theorem State.setJob_cur (s : State) (id : Nat) (j : Job) : (s.setJob id j).cur = s.cur := rfl
@[simp] theorem State.setJob_selA (s : State) (id : Nat) (j : Job) : (s.setJob id j).selA = s.selA := rfl
@[simp] theorem State.setJob_selB (s : State) (id : Nat) (j : Job) : (s.setJob id j).selB = s.selB := rfl
@[simp] theorem State.setJob_agenda (s : State) (id : Nat) (j : Job) : (s.setJob id j).agenda = s.agenda := rfl
@[simp] theorem State.setJob_due (s : State) (id : Nat) (j : Job) : (s.setJob id j).due = s.due := rfl
@[simp] theorem State.setJob_pulsed (s : State) (id : Nat) (j : Job) : (s.setJob id j).pulsed = s.pulsed := rfl
@[simp] theorem State.setJob_stepNo (s : State) (id : Nat) (j : Job) : (s.setJob id j).stepNo = s.stepNo := rfl
@[simp] theorem State.setJob_freeCtr (s : State) (id : Nat) (j : Job) : (s.setJob id j).freeCtr = s.freeCtr := rfl

@[simp] theorem State.setBell_a1 (s : State) (d : Nat) (b : Doorbell) : (s.setBell d b).a1 = s.a1 := rfl
@[simp] theorem State.setBell_cores (s : State) (d : Nat) (b : Doorbell) : (s.setBell d b).cores = s.cores := rfl
@[simp] theorem State.setBell_clusters (s : State) (d : Nat) (b : Doorbell) : (s.setBell d b).clusters = s.clusters := rfl
@[simp] theorem State.setBell_hubs (s : State) (d : Nat) (b : Doorbell) : (s.setBell d b).hubs = s.hubs := rfl
@[simp] theorem State.setBell_dieWalk (s : State) (d : Nat) (b : Doorbell) : (s.setBell d b).dieWalk = s.dieWalk := rfl
@[simp] theorem State.setBell_slices (s : State) (d : Nat) (b : Doorbell) : (s.setBell d b).slices = s.slices := rfl
@[simp] theorem State.setBell_vpool (s : State) (d : Nat) (b : Doorbell) : (s.setBell d b).vpool = s.vpool := rfl
@[simp] theorem State.setBell_gangs (s : State) (d : Nat) (b : Doorbell) : (s.setBell d b).gangs = s.gangs := rfl
@[simp] theorem State.setBell_nextGang (s : State) (d : Nat) (b : Doorbell) : (s.setBell d b).nextGang = s.nextGang := rfl
@[simp] theorem State.setBell_net (s : State) (d : Nat) (b : Doorbell) : (s.setBell d b).net = s.net := rfl
@[simp] theorem State.setBell_spill (s : State) (d : Nat) (b : Doorbell) : (s.setBell d b).spill = s.spill := rfl
@[simp] theorem State.setBell_jobs (s : State) (d : Nat) (b : Doorbell) : (s.setBell d b).jobs = s.jobs := rfl
@[simp] theorem State.setBell_reach (s : State) (d : Nat) (b : Doorbell) : (s.setBell d b).reach = s.reach := rfl
@[simp] theorem State.setBell_nextJob (s : State) (d : Nat) (b : Doorbell) : (s.setBell d b).nextJob = s.nextJob := rfl
@[simp] theorem State.setBell_mem (s : State) (d : Nat) (b : Doorbell) : (s.setBell d b).mem = s.mem := rfl
@[simp] theorem State.setBell_hostMem (s : State) (d : Nat) (b : Doorbell) : (s.setBell d b).hostMem = s.hostMem := rfl
@[simp] theorem State.setBell_domains (s : State) (d : Nat) (b : Doorbell) : (s.setBell d b).domains = s.domains := rfl
@[simp] theorem State.setBell_localMap (s : State) (d : Nat) (b : Doorbell) : (s.setBell d b).localMap = s.localMap := rfl
@[simp] theorem State.setBell_quantum (s : State) (d : Nat) (b : Doorbell) : (s.setBell d b).quantum = s.quantum := rfl
@[simp] theorem State.setBell_watchdog (s : State) (d : Nat) (b : Doorbell) : (s.setBell d b).watchdog = s.watchdog := rfl
@[simp] theorem State.setBell_rings (s : State) (d : Nat) (b : Doorbell) : (s.setBell d b).rings = s.rings := rfl
@[simp] theorem State.setBell_ports (s : State) (d : Nat) (b : Doorbell) : (s.setBell d b).ports = s.ports := rfl
@[simp] theorem State.setBell_host (s : State) (d : Nat) (b : Doorbell) : (s.setBell d b).host = { s.host with bells := vset s.host.bells d b } := rfl
@[simp] theorem State.setBell_mgmt (s : State) (d : Nat) (b : Doorbell) : (s.setBell d b).mgmt = s.mgmt := rfl
@[simp] theorem State.setBell_trace (s : State) (d : Nat) (b : Doorbell) : (s.setBell d b).trace = s.trace := rfl
@[simp] theorem State.setBell_sup (s : State) (d : Nat) (b : Doorbell) : (s.setBell d b).sup = s.sup := rfl
@[simp] theorem State.setBell_maquettes (s : State) (d : Nat) (b : Doorbell) : (s.setBell d b).maquettes = s.maquettes := rfl
@[simp] theorem State.setBell_redo (s : State) (d : Nat) (b : Doorbell) : (s.setBell d b).redo = s.redo := rfl
@[simp] theorem State.setBell_live (s : State) (d : Nat) (b : Doorbell) : (s.setBell d b).live = s.live := rfl
@[simp] theorem State.setBell_stopped (s : State) (d : Nat) (b : Doorbell) : (s.setBell d b).stopped = s.stopped := rfl
@[simp] theorem State.setBell_stopAt (s : State) (d : Nat) (b : Doorbell) : (s.setBell d b).stopAt = s.stopAt := rfl
@[simp] theorem State.setBell_cycle (s : State) (d : Nat) (b : Doorbell) : (s.setBell d b).cycle = s.cycle := rfl
@[simp] theorem State.setBell_seqCtr (s : State) (d : Nat) (b : Doorbell) : (s.setBell d b).seqCtr = s.seqCtr := rfl
@[simp] theorem State.setBell_cur (s : State) (d : Nat) (b : Doorbell) : (s.setBell d b).cur = s.cur := rfl
@[simp] theorem State.setBell_selA (s : State) (d : Nat) (b : Doorbell) : (s.setBell d b).selA = s.selA := rfl
@[simp] theorem State.setBell_selB (s : State) (d : Nat) (b : Doorbell) : (s.setBell d b).selB = s.selB := rfl
@[simp] theorem State.setBell_agenda (s : State) (d : Nat) (b : Doorbell) : (s.setBell d b).agenda = s.agenda := rfl
@[simp] theorem State.setBell_due (s : State) (d : Nat) (b : Doorbell) : (s.setBell d b).due = s.due := rfl
@[simp] theorem State.setBell_pulsed (s : State) (d : Nat) (b : Doorbell) : (s.setBell d b).pulsed = s.pulsed := rfl
@[simp] theorem State.setBell_stepNo (s : State) (d : Nat) (b : Doorbell) : (s.setBell d b).stepNo = s.stepNo := rfl
@[simp] theorem State.setBell_freeCtr (s : State) (d : Nat) (b : Doorbell) : (s.setBell d b).freeCtr = s.freeCtr := rfl

@[simp] theorem State.setMarg_a1 (s : State) (k : Nat) (v : W64) : (s.setMarg k v).a1 = s.a1 := rfl
@[simp] theorem State.setMarg_cores (s : State) (k : Nat) (v : W64) : (s.setMarg k v).cores = s.cores := rfl
@[simp] theorem State.setMarg_clusters (s : State) (k : Nat) (v : W64) : (s.setMarg k v).clusters = s.clusters := rfl
@[simp] theorem State.setMarg_hubs (s : State) (k : Nat) (v : W64) : (s.setMarg k v).hubs = s.hubs := rfl
@[simp] theorem State.setMarg_dieWalk (s : State) (k : Nat) (v : W64) : (s.setMarg k v).dieWalk = s.dieWalk := rfl
@[simp] theorem State.setMarg_slices (s : State) (k : Nat) (v : W64) : (s.setMarg k v).slices = s.slices := rfl
@[simp] theorem State.setMarg_vpool (s : State) (k : Nat) (v : W64) : (s.setMarg k v).vpool = s.vpool := rfl
@[simp] theorem State.setMarg_gangs (s : State) (k : Nat) (v : W64) : (s.setMarg k v).gangs = s.gangs := rfl
@[simp] theorem State.setMarg_nextGang (s : State) (k : Nat) (v : W64) : (s.setMarg k v).nextGang = s.nextGang := rfl
@[simp] theorem State.setMarg_net (s : State) (k : Nat) (v : W64) : (s.setMarg k v).net = s.net := rfl
@[simp] theorem State.setMarg_spill (s : State) (k : Nat) (v : W64) : (s.setMarg k v).spill = s.spill := rfl
@[simp] theorem State.setMarg_jobs (s : State) (k : Nat) (v : W64) : (s.setMarg k v).jobs = s.jobs := rfl
@[simp] theorem State.setMarg_reach (s : State) (k : Nat) (v : W64) : (s.setMarg k v).reach = s.reach := rfl
@[simp] theorem State.setMarg_nextJob (s : State) (k : Nat) (v : W64) : (s.setMarg k v).nextJob = s.nextJob := rfl
@[simp] theorem State.setMarg_mem (s : State) (k : Nat) (v : W64) : (s.setMarg k v).mem = s.mem := rfl
@[simp] theorem State.setMarg_hostMem (s : State) (k : Nat) (v : W64) : (s.setMarg k v).hostMem = s.hostMem := rfl
@[simp] theorem State.setMarg_domains (s : State) (k : Nat) (v : W64) : (s.setMarg k v).domains = s.domains := rfl
@[simp] theorem State.setMarg_localMap (s : State) (k : Nat) (v : W64) : (s.setMarg k v).localMap = s.localMap := rfl
@[simp] theorem State.setMarg_quantum (s : State) (k : Nat) (v : W64) : (s.setMarg k v).quantum = s.quantum := rfl
@[simp] theorem State.setMarg_watchdog (s : State) (k : Nat) (v : W64) : (s.setMarg k v).watchdog = s.watchdog := rfl
@[simp] theorem State.setMarg_rings (s : State) (k : Nat) (v : W64) : (s.setMarg k v).rings = s.rings := rfl
@[simp] theorem State.setMarg_ports (s : State) (k : Nat) (v : W64) : (s.setMarg k v).ports = s.ports := rfl
@[simp] theorem State.setMarg_host (s : State) (k : Nat) (v : W64) : (s.setMarg k v).host = s.host := rfl
@[simp] theorem State.setMarg_mgmt (s : State) (k : Nat) (v : W64) : (s.setMarg k v).mgmt = { s.mgmt with margs := vset s.mgmt.margs k v } := rfl
@[simp] theorem State.setMarg_trace (s : State) (k : Nat) (v : W64) : (s.setMarg k v).trace = s.trace := rfl
@[simp] theorem State.setMarg_sup (s : State) (k : Nat) (v : W64) : (s.setMarg k v).sup = s.sup := rfl
@[simp] theorem State.setMarg_maquettes (s : State) (k : Nat) (v : W64) : (s.setMarg k v).maquettes = s.maquettes := rfl
@[simp] theorem State.setMarg_redo (s : State) (k : Nat) (v : W64) : (s.setMarg k v).redo = s.redo := rfl
@[simp] theorem State.setMarg_live (s : State) (k : Nat) (v : W64) : (s.setMarg k v).live = s.live := rfl
@[simp] theorem State.setMarg_stopped (s : State) (k : Nat) (v : W64) : (s.setMarg k v).stopped = s.stopped := rfl
@[simp] theorem State.setMarg_stopAt (s : State) (k : Nat) (v : W64) : (s.setMarg k v).stopAt = s.stopAt := rfl
@[simp] theorem State.setMarg_cycle (s : State) (k : Nat) (v : W64) : (s.setMarg k v).cycle = s.cycle := rfl
@[simp] theorem State.setMarg_seqCtr (s : State) (k : Nat) (v : W64) : (s.setMarg k v).seqCtr = s.seqCtr := rfl
@[simp] theorem State.setMarg_cur (s : State) (k : Nat) (v : W64) : (s.setMarg k v).cur = s.cur := rfl
@[simp] theorem State.setMarg_selA (s : State) (k : Nat) (v : W64) : (s.setMarg k v).selA = s.selA := rfl
@[simp] theorem State.setMarg_selB (s : State) (k : Nat) (v : W64) : (s.setMarg k v).selB = s.selB := rfl
@[simp] theorem State.setMarg_agenda (s : State) (k : Nat) (v : W64) : (s.setMarg k v).agenda = s.agenda := rfl
@[simp] theorem State.setMarg_due (s : State) (k : Nat) (v : W64) : (s.setMarg k v).due = s.due := rfl
@[simp] theorem State.setMarg_pulsed (s : State) (k : Nat) (v : W64) : (s.setMarg k v).pulsed = s.pulsed := rfl
@[simp] theorem State.setMarg_stepNo (s : State) (k : Nat) (v : W64) : (s.setMarg k v).stepNo = s.stepNo := rfl
@[simp] theorem State.setMarg_freeCtr (s : State) (k : Nat) (v : W64) : (s.setMarg k v).freeCtr = s.freeCtr := rfl

@[simp] theorem State.send_a1 (s : State) (m : Msg) : (s.send m).a1 = s.a1 := rfl
@[simp] theorem State.send_cores (s : State) (m : Msg) : (s.send m).cores = s.cores := rfl
@[simp] theorem State.send_clusters (s : State) (m : Msg) : (s.send m).clusters = s.clusters := rfl
@[simp] theorem State.send_hubs (s : State) (m : Msg) : (s.send m).hubs = s.hubs := rfl
@[simp] theorem State.send_dieWalk (s : State) (m : Msg) : (s.send m).dieWalk = s.dieWalk := rfl
@[simp] theorem State.send_slices (s : State) (m : Msg) : (s.send m).slices = s.slices := rfl
@[simp] theorem State.send_vpool (s : State) (m : Msg) : (s.send m).vpool = s.vpool := rfl
@[simp] theorem State.send_gangs (s : State) (m : Msg) : (s.send m).gangs = s.gangs := rfl
@[simp] theorem State.send_nextGang (s : State) (m : Msg) : (s.send m).nextGang = s.nextGang := rfl
@[simp] theorem State.send_net (s : State) (m : Msg) : (s.send m).net = s.net ++ [m] := rfl
@[simp] theorem State.send_spill (s : State) (m : Msg) : (s.send m).spill = s.spill := rfl
@[simp] theorem State.send_jobs (s : State) (m : Msg) : (s.send m).jobs = s.jobs := rfl
@[simp] theorem State.send_reach (s : State) (m : Msg) : (s.send m).reach = s.reach := rfl
@[simp] theorem State.send_nextJob (s : State) (m : Msg) : (s.send m).nextJob = s.nextJob := rfl
@[simp] theorem State.send_mem (s : State) (m : Msg) : (s.send m).mem = s.mem := rfl
@[simp] theorem State.send_hostMem (s : State) (m : Msg) : (s.send m).hostMem = s.hostMem := rfl
@[simp] theorem State.send_domains (s : State) (m : Msg) : (s.send m).domains = s.domains := rfl
@[simp] theorem State.send_localMap (s : State) (m : Msg) : (s.send m).localMap = s.localMap := rfl
@[simp] theorem State.send_quantum (s : State) (m : Msg) : (s.send m).quantum = s.quantum := rfl
@[simp] theorem State.send_watchdog (s : State) (m : Msg) : (s.send m).watchdog = s.watchdog := rfl
@[simp] theorem State.send_rings (s : State) (m : Msg) : (s.send m).rings = s.rings := rfl
@[simp] theorem State.send_ports (s : State) (m : Msg) : (s.send m).ports = s.ports := rfl
@[simp] theorem State.send_host (s : State) (m : Msg) : (s.send m).host = s.host := rfl
@[simp] theorem State.send_mgmt (s : State) (m : Msg) : (s.send m).mgmt = s.mgmt := rfl
@[simp] theorem State.send_trace (s : State) (m : Msg) : (s.send m).trace = s.trace := rfl
@[simp] theorem State.send_sup (s : State) (m : Msg) : (s.send m).sup = s.sup := rfl
@[simp] theorem State.send_maquettes (s : State) (m : Msg) : (s.send m).maquettes = s.maquettes := rfl
@[simp] theorem State.send_redo (s : State) (m : Msg) : (s.send m).redo = s.redo := rfl
@[simp] theorem State.send_live (s : State) (m : Msg) : (s.send m).live = s.live := rfl
@[simp] theorem State.send_stopped (s : State) (m : Msg) : (s.send m).stopped = s.stopped := rfl
@[simp] theorem State.send_stopAt (s : State) (m : Msg) : (s.send m).stopAt = s.stopAt := rfl
@[simp] theorem State.send_cycle (s : State) (m : Msg) : (s.send m).cycle = s.cycle := rfl
@[simp] theorem State.send_seqCtr (s : State) (m : Msg) : (s.send m).seqCtr = s.seqCtr := rfl
@[simp] theorem State.send_cur (s : State) (m : Msg) : (s.send m).cur = s.cur := rfl
@[simp] theorem State.send_selA (s : State) (m : Msg) : (s.send m).selA = s.selA := rfl
@[simp] theorem State.send_selB (s : State) (m : Msg) : (s.send m).selB = s.selB := rfl
@[simp] theorem State.send_agenda (s : State) (m : Msg) : (s.send m).agenda = s.agenda := rfl
@[simp] theorem State.send_due (s : State) (m : Msg) : (s.send m).due = s.due := rfl
@[simp] theorem State.send_pulsed (s : State) (m : Msg) : (s.send m).pulsed = s.pulsed := rfl
@[simp] theorem State.send_stepNo (s : State) (m : Msg) : (s.send m).stepNo = s.stepNo := rfl
@[simp] theorem State.send_freeCtr (s : State) (m : Msg) : (s.send m).freeCtr = s.freeCtr := rfl

@[simp] theorem State.now_a1 (s : State) (t : Turn) : (s.now t).a1 = s.a1 := rfl
@[simp] theorem State.now_cores (s : State) (t : Turn) : (s.now t).cores = s.cores := rfl
@[simp] theorem State.now_clusters (s : State) (t : Turn) : (s.now t).clusters = s.clusters := rfl
@[simp] theorem State.now_hubs (s : State) (t : Turn) : (s.now t).hubs = s.hubs := rfl
@[simp] theorem State.now_dieWalk (s : State) (t : Turn) : (s.now t).dieWalk = s.dieWalk := rfl
@[simp] theorem State.now_slices (s : State) (t : Turn) : (s.now t).slices = s.slices := rfl
@[simp] theorem State.now_vpool (s : State) (t : Turn) : (s.now t).vpool = s.vpool := rfl
@[simp] theorem State.now_gangs (s : State) (t : Turn) : (s.now t).gangs = s.gangs := rfl
@[simp] theorem State.now_nextGang (s : State) (t : Turn) : (s.now t).nextGang = s.nextGang := rfl
@[simp] theorem State.now_net (s : State) (t : Turn) : (s.now t).net = s.net := rfl
@[simp] theorem State.now_spill (s : State) (t : Turn) : (s.now t).spill = s.spill := rfl
@[simp] theorem State.now_jobs (s : State) (t : Turn) : (s.now t).jobs = s.jobs := rfl
@[simp] theorem State.now_reach (s : State) (t : Turn) : (s.now t).reach = s.reach := rfl
@[simp] theorem State.now_nextJob (s : State) (t : Turn) : (s.now t).nextJob = s.nextJob := rfl
@[simp] theorem State.now_mem (s : State) (t : Turn) : (s.now t).mem = s.mem := rfl
@[simp] theorem State.now_hostMem (s : State) (t : Turn) : (s.now t).hostMem = s.hostMem := rfl
@[simp] theorem State.now_domains (s : State) (t : Turn) : (s.now t).domains = s.domains := rfl
@[simp] theorem State.now_localMap (s : State) (t : Turn) : (s.now t).localMap = s.localMap := rfl
@[simp] theorem State.now_quantum (s : State) (t : Turn) : (s.now t).quantum = s.quantum := rfl
@[simp] theorem State.now_watchdog (s : State) (t : Turn) : (s.now t).watchdog = s.watchdog := rfl
@[simp] theorem State.now_rings (s : State) (t : Turn) : (s.now t).rings = s.rings := rfl
@[simp] theorem State.now_ports (s : State) (t : Turn) : (s.now t).ports = s.ports := rfl
@[simp] theorem State.now_host (s : State) (t : Turn) : (s.now t).host = s.host := rfl
@[simp] theorem State.now_mgmt (s : State) (t : Turn) : (s.now t).mgmt = s.mgmt := rfl
@[simp] theorem State.now_trace (s : State) (t : Turn) : (s.now t).trace = s.trace := rfl
@[simp] theorem State.now_sup (s : State) (t : Turn) : (s.now t).sup = s.sup := rfl
@[simp] theorem State.now_maquettes (s : State) (t : Turn) : (s.now t).maquettes = s.maquettes := rfl
@[simp] theorem State.now_redo (s : State) (t : Turn) : (s.now t).redo = s.redo := rfl
@[simp] theorem State.now_live (s : State) (t : Turn) : (s.now t).live = s.live := rfl
@[simp] theorem State.now_stopped (s : State) (t : Turn) : (s.now t).stopped = s.stopped := rfl
@[simp] theorem State.now_stopAt (s : State) (t : Turn) : (s.now t).stopAt = s.stopAt := rfl
@[simp] theorem State.now_cycle (s : State) (t : Turn) : (s.now t).cycle = s.cycle := rfl
@[simp] theorem State.now_seqCtr (s : State) (t : Turn) : (s.now t).seqCtr = s.seqCtr := rfl
@[simp] theorem State.now_cur (s : State) (t : Turn) : (s.now t).cur = s.cur := rfl
@[simp] theorem State.now_selA (s : State) (t : Turn) : (s.now t).selA = s.selA := rfl
@[simp] theorem State.now_selB (s : State) (t : Turn) : (s.now t).selB = s.selB := rfl
@[simp] theorem State.now_agenda (s : State) (t : Turn) : (s.now t).agenda = s.agenda := rfl
@[simp] theorem State.now_due (s : State) (t : Turn) : (s.now t).due = t :: s.due := rfl
@[simp] theorem State.now_pulsed (s : State) (t : Turn) : (s.now t).pulsed = s.pulsed := rfl
@[simp] theorem State.now_stepNo (s : State) (t : Turn) : (s.now t).stepNo = s.stepNo := rfl
@[simp] theorem State.now_freeCtr (s : State) (t : Turn) : (s.now t).freeCtr = s.freeCtr := rfl

@[simp] theorem State.actAs_a1 (s : State) (w : Who) : (s.actAs w).a1 = s.a1 := rfl
@[simp] theorem State.actAs_cores (s : State) (w : Who) : (s.actAs w).cores = s.cores := rfl
@[simp] theorem State.actAs_clusters (s : State) (w : Who) : (s.actAs w).clusters = s.clusters := rfl
@[simp] theorem State.actAs_hubs (s : State) (w : Who) : (s.actAs w).hubs = s.hubs := rfl
@[simp] theorem State.actAs_dieWalk (s : State) (w : Who) : (s.actAs w).dieWalk = s.dieWalk := rfl
@[simp] theorem State.actAs_slices (s : State) (w : Who) : (s.actAs w).slices = s.slices := rfl
@[simp] theorem State.actAs_vpool (s : State) (w : Who) : (s.actAs w).vpool = s.vpool := rfl
@[simp] theorem State.actAs_gangs (s : State) (w : Who) : (s.actAs w).gangs = s.gangs := rfl
@[simp] theorem State.actAs_nextGang (s : State) (w : Who) : (s.actAs w).nextGang = s.nextGang := rfl
@[simp] theorem State.actAs_net (s : State) (w : Who) : (s.actAs w).net = s.net := rfl
@[simp] theorem State.actAs_spill (s : State) (w : Who) : (s.actAs w).spill = s.spill := rfl
@[simp] theorem State.actAs_jobs (s : State) (w : Who) : (s.actAs w).jobs = s.jobs := rfl
@[simp] theorem State.actAs_reach (s : State) (w : Who) : (s.actAs w).reach = s.reach := rfl
@[simp] theorem State.actAs_nextJob (s : State) (w : Who) : (s.actAs w).nextJob = s.nextJob := rfl
@[simp] theorem State.actAs_mem (s : State) (w : Who) : (s.actAs w).mem = s.mem := rfl
@[simp] theorem State.actAs_hostMem (s : State) (w : Who) : (s.actAs w).hostMem = s.hostMem := rfl
@[simp] theorem State.actAs_domains (s : State) (w : Who) : (s.actAs w).domains = s.domains := rfl
@[simp] theorem State.actAs_localMap (s : State) (w : Who) : (s.actAs w).localMap = s.localMap := rfl
@[simp] theorem State.actAs_quantum (s : State) (w : Who) : (s.actAs w).quantum = s.quantum := rfl
@[simp] theorem State.actAs_watchdog (s : State) (w : Who) : (s.actAs w).watchdog = s.watchdog := rfl
@[simp] theorem State.actAs_rings (s : State) (w : Who) : (s.actAs w).rings = s.rings := rfl
@[simp] theorem State.actAs_ports (s : State) (w : Who) : (s.actAs w).ports = s.ports := rfl
@[simp] theorem State.actAs_host (s : State) (w : Who) : (s.actAs w).host = s.host := rfl
@[simp] theorem State.actAs_mgmt (s : State) (w : Who) : (s.actAs w).mgmt = s.mgmt := rfl
@[simp] theorem State.actAs_trace (s : State) (w : Who) : (s.actAs w).trace = s.trace := rfl
@[simp] theorem State.actAs_sup (s : State) (w : Who) : (s.actAs w).sup = s.sup := rfl
@[simp] theorem State.actAs_maquettes (s : State) (w : Who) : (s.actAs w).maquettes = s.maquettes := rfl
@[simp] theorem State.actAs_redo (s : State) (w : Who) : (s.actAs w).redo = s.redo := rfl
@[simp] theorem State.actAs_live (s : State) (w : Who) : (s.actAs w).live = s.live := rfl
@[simp] theorem State.actAs_stopped (s : State) (w : Who) : (s.actAs w).stopped = s.stopped := rfl
@[simp] theorem State.actAs_stopAt (s : State) (w : Who) : (s.actAs w).stopAt = s.stopAt := rfl
@[simp] theorem State.actAs_cycle (s : State) (w : Who) : (s.actAs w).cycle = s.cycle := rfl
@[simp] theorem State.actAs_seqCtr (s : State) (w : Who) : (s.actAs w).seqCtr = s.seqCtr := rfl
@[simp] theorem State.actAs_cur (s : State) (w : Who) : (s.actAs w).cur = w := rfl
@[simp] theorem State.actAs_selA (s : State) (w : Who) : (s.actAs w).selA = s.selA := rfl
@[simp] theorem State.actAs_selB (s : State) (w : Who) : (s.actAs w).selB = s.selB := rfl
@[simp] theorem State.actAs_agenda (s : State) (w : Who) : (s.actAs w).agenda = s.agenda := rfl
@[simp] theorem State.actAs_due (s : State) (w : Who) : (s.actAs w).due = s.due := rfl
@[simp] theorem State.actAs_pulsed (s : State) (w : Who) : (s.actAs w).pulsed = s.pulsed := rfl
@[simp] theorem State.actAs_stepNo (s : State) (w : Who) : (s.actAs w).stepNo = s.stepNo := rfl
@[simp] theorem State.actAs_freeCtr (s : State) (w : Who) : (s.actAs w).freeCtr = s.freeCtr := rfl

@[simp] theorem State.select_a1 (s : State) (a b : Nat) : (s.select a b).a1 = s.a1 := rfl
@[simp] theorem State.select_cores (s : State) (a b : Nat) : (s.select a b).cores = s.cores := rfl
@[simp] theorem State.select_clusters (s : State) (a b : Nat) : (s.select a b).clusters = s.clusters := rfl
@[simp] theorem State.select_hubs (s : State) (a b : Nat) : (s.select a b).hubs = s.hubs := rfl
@[simp] theorem State.select_dieWalk (s : State) (a b : Nat) : (s.select a b).dieWalk = s.dieWalk := rfl
@[simp] theorem State.select_slices (s : State) (a b : Nat) : (s.select a b).slices = s.slices := rfl
@[simp] theorem State.select_vpool (s : State) (a b : Nat) : (s.select a b).vpool = s.vpool := rfl
@[simp] theorem State.select_gangs (s : State) (a b : Nat) : (s.select a b).gangs = s.gangs := rfl
@[simp] theorem State.select_nextGang (s : State) (a b : Nat) : (s.select a b).nextGang = s.nextGang := rfl
@[simp] theorem State.select_net (s : State) (a b : Nat) : (s.select a b).net = s.net := rfl
@[simp] theorem State.select_spill (s : State) (a b : Nat) : (s.select a b).spill = s.spill := rfl
@[simp] theorem State.select_jobs (s : State) (a b : Nat) : (s.select a b).jobs = s.jobs := rfl
@[simp] theorem State.select_reach (s : State) (a b : Nat) : (s.select a b).reach = s.reach := rfl
@[simp] theorem State.select_nextJob (s : State) (a b : Nat) : (s.select a b).nextJob = s.nextJob := rfl
@[simp] theorem State.select_mem (s : State) (a b : Nat) : (s.select a b).mem = s.mem := rfl
@[simp] theorem State.select_hostMem (s : State) (a b : Nat) : (s.select a b).hostMem = s.hostMem := rfl
@[simp] theorem State.select_domains (s : State) (a b : Nat) : (s.select a b).domains = s.domains := rfl
@[simp] theorem State.select_localMap (s : State) (a b : Nat) : (s.select a b).localMap = s.localMap := rfl
@[simp] theorem State.select_quantum (s : State) (a b : Nat) : (s.select a b).quantum = s.quantum := rfl
@[simp] theorem State.select_watchdog (s : State) (a b : Nat) : (s.select a b).watchdog = s.watchdog := rfl
@[simp] theorem State.select_rings (s : State) (a b : Nat) : (s.select a b).rings = s.rings := rfl
@[simp] theorem State.select_ports (s : State) (a b : Nat) : (s.select a b).ports = s.ports := rfl
@[simp] theorem State.select_host (s : State) (a b : Nat) : (s.select a b).host = s.host := rfl
@[simp] theorem State.select_mgmt (s : State) (a b : Nat) : (s.select a b).mgmt = s.mgmt := rfl
@[simp] theorem State.select_trace (s : State) (a b : Nat) : (s.select a b).trace = s.trace := rfl
@[simp] theorem State.select_sup (s : State) (a b : Nat) : (s.select a b).sup = s.sup := rfl
@[simp] theorem State.select_maquettes (s : State) (a b : Nat) : (s.select a b).maquettes = s.maquettes := rfl
@[simp] theorem State.select_redo (s : State) (a b : Nat) : (s.select a b).redo = s.redo := rfl
@[simp] theorem State.select_live (s : State) (a b : Nat) : (s.select a b).live = s.live := rfl
@[simp] theorem State.select_stopped (s : State) (a b : Nat) : (s.select a b).stopped = s.stopped := rfl
@[simp] theorem State.select_stopAt (s : State) (a b : Nat) : (s.select a b).stopAt = s.stopAt := rfl
@[simp] theorem State.select_cycle (s : State) (a b : Nat) : (s.select a b).cycle = s.cycle := rfl
@[simp] theorem State.select_seqCtr (s : State) (a b : Nat) : (s.select a b).seqCtr = s.seqCtr := rfl
@[simp] theorem State.select_cur (s : State) (a b : Nat) : (s.select a b).cur = s.cur := rfl
@[simp] theorem State.select_selA (s : State) (a b : Nat) : (s.select a b).selA = a := rfl
@[simp] theorem State.select_selB (s : State) (a b : Nat) : (s.select a b).selB = b := rfl
@[simp] theorem State.select_agenda (s : State) (a b : Nat) : (s.select a b).agenda = s.agenda := rfl
@[simp] theorem State.select_due (s : State) (a b : Nat) : (s.select a b).due = s.due := rfl
@[simp] theorem State.select_pulsed (s : State) (a b : Nat) : (s.select a b).pulsed = s.pulsed := rfl
@[simp] theorem State.select_stepNo (s : State) (a b : Nat) : (s.select a b).stepNo = s.stepNo := rfl
@[simp] theorem State.select_freeCtr (s : State) (a b : Nat) : (s.select a b).freeCtr = s.freeCtr := rfl

theorem State.core_setCore (s : State) (c j : Nat) (k : Core) : (s.setCore c k).core j = if j = c then k else s.core j := by
  unfold State.core State.setCore; rw [find_set]; split <;> rfl
theorem State.cluster_setCluster (s : State) (c j : Nat) (k : Cluster) :
    (s.setCluster c k).cluster j = if j = c then k else s.cluster j := by
  unfold State.cluster State.setCluster; rw [find_set]; split <;> rfl
theorem State.hub_setHub (s : State) (d j : Nat) (h : Hub) : (s.setHub d h).hub j = if j = d then h else s.hub j := by
  unfold State.hub State.setHub; rw [find_set]; split <;> rfl
theorem State.slice_setSlice (s : State) (k j : Nat) (v : Slice) : (s.setSlice k v).slice j = if j = k then v else s.slice j := by
  unfold State.slice State.setSlice; rw [find_set]; split <;> rfl
theorem State.ring_setRing (s : State) (r j : Nat) (v : RotRing) :
    (s.setRing r v).ring j = if j = r ∧ r < 12 then v else s.ring j := vget_vset _ _ _ _ _
theorem State.port_setPort (s : State) (p j : Nat) (v : Port) :
    (s.setPort p v).port j = if j = p ∧ p < 24 then v else s.port j := vget_vset _ _ _ _ _

@[simp] theorem State.core_setCore_same (s : State) (c : Nat) (k : Core) : (s.setCore c k).core c = k := by simp [State.core_setCore]
@[simp] theorem State.cluster_setCluster_same (s : State) (c : Nat) (k : Cluster) : (s.setCluster c k).cluster c = k := by
  simp [State.cluster_setCluster]
@[simp] theorem State.hub_setHub_same (s : State) (d : Nat) (h : Hub) : (s.setHub d h).hub d = h := by simp [State.hub_setHub]
@[simp] theorem State.slice_setSlice_same (s : State) (k : Nat) (v : Slice) : (s.setSlice k v).slice k = v := by simp [State.slice_setSlice]
theorem State.core_setCore_other (s : State) {c j : Nat} (k : Core) (h : j ≠ c) : (s.setCore c k).core j = s.core j := by
  simp [State.core_setCore, h]

@[simp] theorem State.group_setGroup_same (s : State) (c : Nat) (g : Group) : (s.setGroup c g).group c = some g := by
  simp [State.group, State.setGroup]
theorem State.group_setGroup_other (s : State) {c j : Nat} (g : Group) (h : j ≠ c) : (s.setGroup c g).group j = s.group j := by
  simp [State.group, State.setGroup, State.core_setCore, h]

/-! ## Reading a unit after an update of another kind -/

@[simp] theorem State.setCore_cluster_of (s : State) (c : Nat) (k : Core) (j : Nat) : (s.setCore c k).cluster j = s.cluster j := rfl
@[simp] theorem State.setCore_hub_of (s : State) (c : Nat) (k : Core) (j : Nat) : (s.setCore c k).hub j = s.hub j := rfl
@[simp] theorem State.setCore_slice_of (s : State) (c : Nat) (k : Core) (j : Nat) : (s.setCore c k).slice j = s.slice j := rfl
@[simp] theorem State.setCore_ring_of (s : State) (c : Nat) (k : Core) (j : Nat) : (s.setCore c k).ring j = s.ring j := rfl
@[simp] theorem State.setCore_port_of (s : State) (c : Nat) (k : Core) (j : Nat) : (s.setCore c k).port j = s.port j := rfl

@[simp] theorem State.setCluster_core_of (s : State) (c : Nat) (k : Cluster) (j : Nat) : (s.setCluster c k).core j = s.core j := rfl
@[simp] theorem State.setCluster_group_of (s : State) (c : Nat) (k : Cluster) (j : Nat) : (s.setCluster c k).group j = s.group j := rfl
@[simp] theorem State.setCluster_agent_of (s : State) (c : Nat) (k : Cluster) (w : Who) : (s.setCluster c k).agent w = s.agent w := rfl
@[simp] theorem State.setCluster_hub_of (s : State) (c : Nat) (k : Cluster) (j : Nat) : (s.setCluster c k).hub j = s.hub j := rfl
@[simp] theorem State.setCluster_slice_of (s : State) (c : Nat) (k : Cluster) (j : Nat) : (s.setCluster c k).slice j = s.slice j := rfl
@[simp] theorem State.setCluster_ring_of (s : State) (c : Nat) (k : Cluster) (j : Nat) : (s.setCluster c k).ring j = s.ring j := rfl
@[simp] theorem State.setCluster_port_of (s : State) (c : Nat) (k : Cluster) (j : Nat) : (s.setCluster c k).port j = s.port j := rfl

@[simp] theorem State.setHub_core_of (s : State) (d : Nat) (h : Hub) (j : Nat) : (s.setHub d h).core j = s.core j := rfl
@[simp] theorem State.setHub_group_of (s : State) (d : Nat) (h : Hub) (j : Nat) : (s.setHub d h).group j = s.group j := rfl
@[simp] theorem State.setHub_agent_of (s : State) (d : Nat) (h : Hub) (w : Who) : (s.setHub d h).agent w = s.agent w := rfl
@[simp] theorem State.setHub_cluster_of (s : State) (d : Nat) (h : Hub) (j : Nat) : (s.setHub d h).cluster j = s.cluster j := rfl
@[simp] theorem State.setHub_slice_of (s : State) (d : Nat) (h : Hub) (j : Nat) : (s.setHub d h).slice j = s.slice j := rfl
@[simp] theorem State.setHub_ring_of (s : State) (d : Nat) (h : Hub) (j : Nat) : (s.setHub d h).ring j = s.ring j := rfl
@[simp] theorem State.setHub_port_of (s : State) (d : Nat) (h : Hub) (j : Nat) : (s.setHub d h).port j = s.port j := rfl

@[simp] theorem State.setSlice_core_of (s : State) (k : Nat) (v : Slice) (j : Nat) : (s.setSlice k v).core j = s.core j := rfl
@[simp] theorem State.setSlice_group_of (s : State) (k : Nat) (v : Slice) (j : Nat) : (s.setSlice k v).group j = s.group j := rfl
@[simp] theorem State.setSlice_agent_of (s : State) (k : Nat) (v : Slice) (w : Who) : (s.setSlice k v).agent w = s.agent w := rfl
@[simp] theorem State.setSlice_cluster_of (s : State) (k : Nat) (v : Slice) (j : Nat) : (s.setSlice k v).cluster j = s.cluster j := rfl
@[simp] theorem State.setSlice_hub_of (s : State) (k : Nat) (v : Slice) (j : Nat) : (s.setSlice k v).hub j = s.hub j := rfl
@[simp] theorem State.setSlice_ring_of (s : State) (k : Nat) (v : Slice) (j : Nat) : (s.setSlice k v).ring j = s.ring j := rfl
@[simp] theorem State.setSlice_port_of (s : State) (k : Nat) (v : Slice) (j : Nat) : (s.setSlice k v).port j = s.port j := rfl

@[simp] theorem State.setRing_core_of (s : State) (r : Nat) (v : RotRing) (j : Nat) : (s.setRing r v).core j = s.core j := rfl
@[simp] theorem State.setRing_group_of (s : State) (r : Nat) (v : RotRing) (j : Nat) : (s.setRing r v).group j = s.group j := rfl
@[simp] theorem State.setRing_agent_of (s : State) (r : Nat) (v : RotRing) (w : Who) : (s.setRing r v).agent w = s.agent w := rfl
@[simp] theorem State.setRing_cluster_of (s : State) (r : Nat) (v : RotRing) (j : Nat) : (s.setRing r v).cluster j = s.cluster j := rfl
@[simp] theorem State.setRing_hub_of (s : State) (r : Nat) (v : RotRing) (j : Nat) : (s.setRing r v).hub j = s.hub j := rfl
@[simp] theorem State.setRing_slice_of (s : State) (r : Nat) (v : RotRing) (j : Nat) : (s.setRing r v).slice j = s.slice j := rfl
@[simp] theorem State.setRing_port_of (s : State) (r : Nat) (v : RotRing) (j : Nat) : (s.setRing r v).port j = s.port j := rfl

@[simp] theorem State.setPort_core_of (s : State) (p : Nat) (v : Port) (j : Nat) : (s.setPort p v).core j = s.core j := rfl
@[simp] theorem State.setPort_group_of (s : State) (p : Nat) (v : Port) (j : Nat) : (s.setPort p v).group j = s.group j := rfl
@[simp] theorem State.setPort_agent_of (s : State) (p : Nat) (v : Port) (w : Who) : (s.setPort p v).agent w = s.agent w := rfl
@[simp] theorem State.setPort_cluster_of (s : State) (p : Nat) (v : Port) (j : Nat) : (s.setPort p v).cluster j = s.cluster j := rfl
@[simp] theorem State.setPort_hub_of (s : State) (p : Nat) (v : Port) (j : Nat) : (s.setPort p v).hub j = s.hub j := rfl
@[simp] theorem State.setPort_slice_of (s : State) (p : Nat) (v : Port) (j : Nat) : (s.setPort p v).slice j = s.slice j := rfl
@[simp] theorem State.setPort_ring_of (s : State) (p : Nat) (v : Port) (j : Nat) : (s.setPort p v).ring j = s.ring j := rfl

@[simp] theorem State.setGroup_cluster_of (s : State) (c : Nat) (g : Group) (j : Nat) : (s.setGroup c g).cluster j = s.cluster j := rfl
@[simp] theorem State.setGroup_hub_of (s : State) (c : Nat) (g : Group) (j : Nat) : (s.setGroup c g).hub j = s.hub j := rfl
@[simp] theorem State.setGroup_slice_of (s : State) (c : Nat) (g : Group) (j : Nat) : (s.setGroup c g).slice j = s.slice j := rfl
@[simp] theorem State.setGroup_ring_of (s : State) (c : Nat) (g : Group) (j : Nat) : (s.setGroup c g).ring j = s.ring j := rfl
@[simp] theorem State.setGroup_port_of (s : State) (c : Nat) (g : Group) (j : Nat) : (s.setGroup c g).port j = s.port j := rfl

@[simp] theorem State.setGang_core_of (s : State) (id : Nat) (k : Gang) (j : Nat) : (s.setGang id k).core j = s.core j := rfl
@[simp] theorem State.setGang_group_of (s : State) (id : Nat) (k : Gang) (j : Nat) : (s.setGang id k).group j = s.group j := rfl
@[simp] theorem State.setGang_agent_of (s : State) (id : Nat) (k : Gang) (w : Who) : (s.setGang id k).agent w = s.agent w := rfl
@[simp] theorem State.setGang_cluster_of (s : State) (id : Nat) (k : Gang) (j : Nat) : (s.setGang id k).cluster j = s.cluster j := rfl
@[simp] theorem State.setGang_hub_of (s : State) (id : Nat) (k : Gang) (j : Nat) : (s.setGang id k).hub j = s.hub j := rfl
@[simp] theorem State.setGang_slice_of (s : State) (id : Nat) (k : Gang) (j : Nat) : (s.setGang id k).slice j = s.slice j := rfl
@[simp] theorem State.setGang_ring_of (s : State) (id : Nat) (k : Gang) (j : Nat) : (s.setGang id k).ring j = s.ring j := rfl
@[simp] theorem State.setGang_port_of (s : State) (id : Nat) (k : Gang) (j : Nat) : (s.setGang id k).port j = s.port j := rfl

@[simp] theorem State.setJob_core_of (s : State) (id : Nat) (j : Job) (i : Nat) : (s.setJob id j).core i = s.core i := rfl
@[simp] theorem State.setJob_group_of (s : State) (id : Nat) (j : Job) (i : Nat) : (s.setJob id j).group i = s.group i := rfl
@[simp] theorem State.setJob_agent_of (s : State) (id : Nat) (j : Job) (w : Who) : (s.setJob id j).agent w = s.agent w := rfl
@[simp] theorem State.setJob_cluster_of (s : State) (id : Nat) (j : Job) (i : Nat) : (s.setJob id j).cluster i = s.cluster i := rfl
@[simp] theorem State.setJob_hub_of (s : State) (id : Nat) (j : Job) (i : Nat) : (s.setJob id j).hub i = s.hub i := rfl
@[simp] theorem State.setJob_slice_of (s : State) (id : Nat) (j : Job) (i : Nat) : (s.setJob id j).slice i = s.slice i := rfl
@[simp] theorem State.setJob_ring_of (s : State) (id : Nat) (j : Job) (i : Nat) : (s.setJob id j).ring i = s.ring i := rfl
@[simp] theorem State.setJob_port_of (s : State) (id : Nat) (j : Job) (i : Nat) : (s.setJob id j).port i = s.port i := rfl

@[simp] theorem State.setBell_core_of (s : State) (d : Nat) (b : Doorbell) (j : Nat) : (s.setBell d b).core j = s.core j := rfl
@[simp] theorem State.setBell_group_of (s : State) (d : Nat) (b : Doorbell) (j : Nat) : (s.setBell d b).group j = s.group j := rfl
@[simp] theorem State.setBell_agent_of (s : State) (d : Nat) (b : Doorbell) (w : Who) : (s.setBell d b).agent w = s.agent w := rfl
@[simp] theorem State.setBell_cluster_of (s : State) (d : Nat) (b : Doorbell) (j : Nat) : (s.setBell d b).cluster j = s.cluster j := rfl
@[simp] theorem State.setBell_hub_of (s : State) (d : Nat) (b : Doorbell) (j : Nat) : (s.setBell d b).hub j = s.hub j := rfl
@[simp] theorem State.setBell_slice_of (s : State) (d : Nat) (b : Doorbell) (j : Nat) : (s.setBell d b).slice j = s.slice j := rfl
@[simp] theorem State.setBell_ring_of (s : State) (d : Nat) (b : Doorbell) (j : Nat) : (s.setBell d b).ring j = s.ring j := rfl
@[simp] theorem State.setBell_port_of (s : State) (d : Nat) (b : Doorbell) (j : Nat) : (s.setBell d b).port j = s.port j := rfl

@[simp] theorem State.setMarg_core_of (s : State) (k : Nat) (v : W64) (j : Nat) : (s.setMarg k v).core j = s.core j := rfl
@[simp] theorem State.setMarg_group_of (s : State) (k : Nat) (v : W64) (j : Nat) : (s.setMarg k v).group j = s.group j := rfl
@[simp] theorem State.setMarg_agent_of (s : State) (k : Nat) (v : W64) (w : Who) : (s.setMarg k v).agent w = s.agent w := rfl
@[simp] theorem State.setMarg_cluster_of (s : State) (k : Nat) (v : W64) (j : Nat) : (s.setMarg k v).cluster j = s.cluster j := rfl
@[simp] theorem State.setMarg_hub_of (s : State) (k : Nat) (v : W64) (j : Nat) : (s.setMarg k v).hub j = s.hub j := rfl
@[simp] theorem State.setMarg_slice_of (s : State) (k : Nat) (v : W64) (j : Nat) : (s.setMarg k v).slice j = s.slice j := rfl
@[simp] theorem State.setMarg_ring_of (s : State) (k : Nat) (v : W64) (j : Nat) : (s.setMarg k v).ring j = s.ring j := rfl
@[simp] theorem State.setMarg_port_of (s : State) (k : Nat) (v : W64) (j : Nat) : (s.setMarg k v).port j = s.port j := rfl

@[simp] theorem State.send_core_of (s : State) (m : Msg) (j : Nat) : (s.send m).core j = s.core j := rfl
@[simp] theorem State.send_group_of (s : State) (m : Msg) (j : Nat) : (s.send m).group j = s.group j := rfl
@[simp] theorem State.send_agent_of (s : State) (m : Msg) (w : Who) : (s.send m).agent w = s.agent w := rfl
@[simp] theorem State.send_cluster_of (s : State) (m : Msg) (j : Nat) : (s.send m).cluster j = s.cluster j := rfl
@[simp] theorem State.send_hub_of (s : State) (m : Msg) (j : Nat) : (s.send m).hub j = s.hub j := rfl
@[simp] theorem State.send_slice_of (s : State) (m : Msg) (j : Nat) : (s.send m).slice j = s.slice j := rfl
@[simp] theorem State.send_ring_of (s : State) (m : Msg) (j : Nat) : (s.send m).ring j = s.ring j := rfl
@[simp] theorem State.send_port_of (s : State) (m : Msg) (j : Nat) : (s.send m).port j = s.port j := rfl

@[simp] theorem State.now_core_of (s : State) (t : Turn) (j : Nat) : (s.now t).core j = s.core j := rfl
@[simp] theorem State.now_group_of (s : State) (t : Turn) (j : Nat) : (s.now t).group j = s.group j := rfl
@[simp] theorem State.now_agent_of (s : State) (t : Turn) (w : Who) : (s.now t).agent w = s.agent w := rfl
@[simp] theorem State.now_cluster_of (s : State) (t : Turn) (j : Nat) : (s.now t).cluster j = s.cluster j := rfl
@[simp] theorem State.now_hub_of (s : State) (t : Turn) (j : Nat) : (s.now t).hub j = s.hub j := rfl
@[simp] theorem State.now_slice_of (s : State) (t : Turn) (j : Nat) : (s.now t).slice j = s.slice j := rfl
@[simp] theorem State.now_ring_of (s : State) (t : Turn) (j : Nat) : (s.now t).ring j = s.ring j := rfl
@[simp] theorem State.now_port_of (s : State) (t : Turn) (j : Nat) : (s.now t).port j = s.port j := rfl

@[simp] theorem State.actAs_core_of (s : State) (w : Who) (j : Nat) : (s.actAs w).core j = s.core j := rfl
@[simp] theorem State.actAs_group_of (s : State) (w : Who) (j : Nat) : (s.actAs w).group j = s.group j := rfl
@[simp] theorem State.actAs_agent_of (s : State) (w : Who) (i : Who) : (s.actAs w).agent i = s.agent i := rfl
@[simp] theorem State.actAs_cluster_of (s : State) (w : Who) (j : Nat) : (s.actAs w).cluster j = s.cluster j := rfl
@[simp] theorem State.actAs_hub_of (s : State) (w : Who) (j : Nat) : (s.actAs w).hub j = s.hub j := rfl
@[simp] theorem State.actAs_slice_of (s : State) (w : Who) (j : Nat) : (s.actAs w).slice j = s.slice j := rfl
@[simp] theorem State.actAs_ring_of (s : State) (w : Who) (j : Nat) : (s.actAs w).ring j = s.ring j := rfl
@[simp] theorem State.actAs_port_of (s : State) (w : Who) (j : Nat) : (s.actAs w).port j = s.port j := rfl

@[simp] theorem State.select_core_of (s : State) (a b : Nat) (j : Nat) : (s.select a b).core j = s.core j := rfl
@[simp] theorem State.select_group_of (s : State) (a b : Nat) (j : Nat) : (s.select a b).group j = s.group j := rfl
@[simp] theorem State.select_agent_of (s : State) (a b : Nat) (w : Who) : (s.select a b).agent w = s.agent w := rfl
@[simp] theorem State.select_cluster_of (s : State) (a b : Nat) (j : Nat) : (s.select a b).cluster j = s.cluster j := rfl
@[simp] theorem State.select_hub_of (s : State) (a b : Nat) (j : Nat) : (s.select a b).hub j = s.hub j := rfl
@[simp] theorem State.select_slice_of (s : State) (a b : Nat) (j : Nat) : (s.select a b).slice j = s.slice j := rfl
@[simp] theorem State.select_ring_of (s : State) (a b : Nat) (j : Nat) : (s.select a b).ring j = s.ring j := rfl
@[simp] theorem State.select_port_of (s : State) (a b : Nat) (j : Nat) : (s.select a b).port j = s.port j := rfl

/-! ## Threads -/

@[simp] theorem Thread.advance_pc (th : Thread) (len : Nat) : (th.advance len).pc = th.pc + w64 len := rfl
@[simp] theorem Thread.advance_x (th : Thread) (len : Nat) : (th.advance len).x = th.x := rfl
@[simp] theorem Thread.advance_xlive (th : Thread) (len : Nat) : (th.advance len).xlive = th.xlive := rfl
@[simp] theorem Thread.advance_v (th : Thread) (len : Nat) : (th.advance len).v = th.v := rfl
@[simp] theorem Thread.advance_p (th : Thread) (len : Nat) : (th.advance len).p = th.p := rfl
@[simp] theorem Thread.advance_pstride (th : Thread) (len : Nat) : (th.advance len).pstride = th.pstride := rfl
@[simp] theorem Thread.advance_flags (th : Thread) (len : Nat) : (th.advance len).flags = th.flags := rfl
@[simp] theorem Thread.advance_rmode (th : Thread) (len : Nat) : (th.advance len).rmode = th.rmode := rfl
@[simp] theorem Thread.advance_amax (th : Thread) (len : Nat) : (th.advance len).amax = th.amax := rfl
@[simp] theorem Thread.advance_srkey (th : Thread) (len : Nat) : (th.advance len).srkey = th.srkey := rfl
@[simp] theorem Thread.advance_srctr (th : Thread) (len : Nat) : (th.advance len).srctr = th.srctr := rfl
@[simp] theorem Thread.advance_cvmask (th : Thread) (len : Nat) : (th.advance len).cvmask = th.cvmask := rfl
@[simp] theorem Thread.advance_vcvmask (th : Thread) (len : Nat) : (th.advance len).vcvmask = th.vcvmask := rfl
@[simp] theorem Thread.advance_wid (th : Thread) (len : Nat) : (th.advance len).wid = th.wid := rfl
@[simp] theorem Thread.advance_widlay (th : Thread) (len : Nat) : (th.advance len).widlay = th.widlay := rfl
@[simp] theorem Thread.advance_tcause (th : Thread) (len : Nat) : (th.advance len).tcause = th.tcause := rfl
@[simp] theorem Thread.advance_tval (th : Thread) (len : Nat) : (th.advance len).tval = th.tval := rfl
@[simp] theorem Thread.advance_tepc (th : Thread) (len : Nat) : (th.advance len).tepc = th.tepc := rfl
@[simp] theorem Thread.advance_kernel (th : Thread) (len : Nat) : (th.advance len).kernel = th.kernel := rfl
@[simp] theorem Thread.advance_status (th : Thread) (len : Nat) : (th.advance len).status = th.status := rfl
@[simp] theorem Thread.advance_wait (th : Thread) (len : Nat) : (th.advance len).wait = .none := rfl
@[simp] theorem Thread.advance_issued (th : Thread) (len : Nat) : (th.advance len).issued = th.issued := rfl
@[simp] theorem Thread.advance_prog (th : Thread) (len : Nat) : (th.advance len).prog = Prog.idle := rfl
@[simp] theorem Thread.advance_pend (th : Thread) (len : Nat) : (th.advance len).pend = th.pend := rfl
@[simp] theorem Thread.advance_ctrs (th : Thread) (len : Nat) : (th.advance len).ctrs = th.ctrs := rfl
@[simp] theorem Thread.advance_loopTgt (th : Thread) (len : Nat) : (th.advance len).loopTgt = th.loopTgt := rfl
@[simp] theorem Thread.advance_retired (th : Thread) (len : Nat) : (th.advance len).retired = th.retired + 1 := rfl
@[simp] theorem Thread.advance_stepsLeft (th : Thread) (len : Nat) : (th.advance len).stepsLeft = lessOne th.stepsLeft := rfl

@[simp] theorem Thread.jumpTo_pc (th : Thread) (t : W64) : (th.jumpTo t).pc = t := rfl
@[simp] theorem Thread.jumpTo_x (th : Thread) (t : W64) : (th.jumpTo t).x = th.x := rfl
@[simp] theorem Thread.jumpTo_xlive (th : Thread) (t : W64) : (th.jumpTo t).xlive = th.xlive := rfl
@[simp] theorem Thread.jumpTo_v (th : Thread) (t : W64) : (th.jumpTo t).v = th.v := rfl
@[simp] theorem Thread.jumpTo_p (th : Thread) (t : W64) : (th.jumpTo t).p = th.p := rfl
@[simp] theorem Thread.jumpTo_pstride (th : Thread) (t : W64) : (th.jumpTo t).pstride = th.pstride := rfl
@[simp] theorem Thread.jumpTo_flags (th : Thread) (t : W64) : (th.jumpTo t).flags = th.flags := rfl
@[simp] theorem Thread.jumpTo_rmode (th : Thread) (t : W64) : (th.jumpTo t).rmode = th.rmode := rfl
@[simp] theorem Thread.jumpTo_amax (th : Thread) (t : W64) : (th.jumpTo t).amax = th.amax := rfl
@[simp] theorem Thread.jumpTo_srkey (th : Thread) (t : W64) : (th.jumpTo t).srkey = th.srkey := rfl
@[simp] theorem Thread.jumpTo_srctr (th : Thread) (t : W64) : (th.jumpTo t).srctr = th.srctr := rfl
@[simp] theorem Thread.jumpTo_cvmask (th : Thread) (t : W64) : (th.jumpTo t).cvmask = th.cvmask := rfl
@[simp] theorem Thread.jumpTo_vcvmask (th : Thread) (t : W64) : (th.jumpTo t).vcvmask = th.vcvmask := rfl
@[simp] theorem Thread.jumpTo_wid (th : Thread) (t : W64) : (th.jumpTo t).wid = th.wid := rfl
@[simp] theorem Thread.jumpTo_widlay (th : Thread) (t : W64) : (th.jumpTo t).widlay = th.widlay := rfl
@[simp] theorem Thread.jumpTo_tcause (th : Thread) (t : W64) : (th.jumpTo t).tcause = th.tcause := rfl
@[simp] theorem Thread.jumpTo_tval (th : Thread) (t : W64) : (th.jumpTo t).tval = th.tval := rfl
@[simp] theorem Thread.jumpTo_tepc (th : Thread) (t : W64) : (th.jumpTo t).tepc = th.tepc := rfl
@[simp] theorem Thread.jumpTo_kernel (th : Thread) (t : W64) : (th.jumpTo t).kernel = th.kernel := rfl
@[simp] theorem Thread.jumpTo_status (th : Thread) (t : W64) : (th.jumpTo t).status = th.status := rfl
@[simp] theorem Thread.jumpTo_wait (th : Thread) (t : W64) : (th.jumpTo t).wait = .none := rfl
@[simp] theorem Thread.jumpTo_issued (th : Thread) (t : W64) : (th.jumpTo t).issued = th.issued := rfl
@[simp] theorem Thread.jumpTo_prog (th : Thread) (t : W64) : (th.jumpTo t).prog = Prog.idle := rfl
@[simp] theorem Thread.jumpTo_pend (th : Thread) (t : W64) : (th.jumpTo t).pend = th.pend := rfl
@[simp] theorem Thread.jumpTo_ctrs (th : Thread) (t : W64) : (th.jumpTo t).ctrs = th.ctrs := rfl
@[simp] theorem Thread.jumpTo_loopTgt (th : Thread) (t : W64) : (th.jumpTo t).loopTgt = th.loopTgt := rfl
@[simp] theorem Thread.jumpTo_retired (th : Thread) (t : W64) : (th.jumpTo t).retired = th.retired + 1 := rfl
@[simp] theorem Thread.jumpTo_stepsLeft (th : Thread) (t : W64) : (th.jumpTo t).stepsLeft = lessOne th.stepsLeft := rfl

@[simp] theorem Thread.wv_pc (th : Thread) (r : Reg) (data : W256) (tag : BitVec 4) (side : W64) : (th.wv r data tag side).pc = th.pc := rfl
@[simp] theorem Thread.wv_x (th : Thread) (r : Reg) (data : W256) (tag : BitVec 4) (side : W64) : (th.wv r data tag side).x = th.x := rfl
@[simp] theorem Thread.wv_xlive (th : Thread) (r : Reg) (data : W256) (tag : BitVec 4) (side : W64) : (th.wv r data tag side).xlive = th.xlive := rfl
@[simp] theorem Thread.wv_p (th : Thread) (r : Reg) (data : W256) (tag : BitVec 4) (side : W64) : (th.wv r data tag side).p = th.p := rfl
@[simp] theorem Thread.wv_pstride (th : Thread) (r : Reg) (data : W256) (tag : BitVec 4) (side : W64) : (th.wv r data tag side).pstride = th.pstride := rfl
@[simp] theorem Thread.wv_flags (th : Thread) (r : Reg) (data : W256) (tag : BitVec 4) (side : W64) : (th.wv r data tag side).flags = th.flags := rfl
@[simp] theorem Thread.wv_rmode (th : Thread) (r : Reg) (data : W256) (tag : BitVec 4) (side : W64) : (th.wv r data tag side).rmode = th.rmode := rfl
@[simp] theorem Thread.wv_amax (th : Thread) (r : Reg) (data : W256) (tag : BitVec 4) (side : W64) : (th.wv r data tag side).amax = th.amax := rfl
@[simp] theorem Thread.wv_srkey (th : Thread) (r : Reg) (data : W256) (tag : BitVec 4) (side : W64) : (th.wv r data tag side).srkey = th.srkey := rfl
@[simp] theorem Thread.wv_srctr (th : Thread) (r : Reg) (data : W256) (tag : BitVec 4) (side : W64) : (th.wv r data tag side).srctr = th.srctr := rfl
@[simp] theorem Thread.wv_cvmask (th : Thread) (r : Reg) (data : W256) (tag : BitVec 4) (side : W64) : (th.wv r data tag side).cvmask = th.cvmask := rfl
@[simp] theorem Thread.wv_vcvmask (th : Thread) (r : Reg) (data : W256) (tag : BitVec 4) (side : W64) : (th.wv r data tag side).vcvmask = th.vcvmask := rfl
@[simp] theorem Thread.wv_wid (th : Thread) (r : Reg) (data : W256) (tag : BitVec 4) (side : W64) : (th.wv r data tag side).wid = th.wid := rfl
@[simp] theorem Thread.wv_widlay (th : Thread) (r : Reg) (data : W256) (tag : BitVec 4) (side : W64) : (th.wv r data tag side).widlay = th.widlay := rfl
@[simp] theorem Thread.wv_tcause (th : Thread) (r : Reg) (data : W256) (tag : BitVec 4) (side : W64) : (th.wv r data tag side).tcause = th.tcause := rfl
@[simp] theorem Thread.wv_tval (th : Thread) (r : Reg) (data : W256) (tag : BitVec 4) (side : W64) : (th.wv r data tag side).tval = th.tval := rfl
@[simp] theorem Thread.wv_tepc (th : Thread) (r : Reg) (data : W256) (tag : BitVec 4) (side : W64) : (th.wv r data tag side).tepc = th.tepc := rfl
@[simp] theorem Thread.wv_kernel (th : Thread) (r : Reg) (data : W256) (tag : BitVec 4) (side : W64) : (th.wv r data tag side).kernel = th.kernel := rfl
@[simp] theorem Thread.wv_status (th : Thread) (r : Reg) (data : W256) (tag : BitVec 4) (side : W64) : (th.wv r data tag side).status = th.status := rfl
@[simp] theorem Thread.wv_wait (th : Thread) (r : Reg) (data : W256) (tag : BitVec 4) (side : W64) : (th.wv r data tag side).wait = th.wait := rfl
@[simp] theorem Thread.wv_issued (th : Thread) (r : Reg) (data : W256) (tag : BitVec 4) (side : W64) : (th.wv r data tag side).issued = th.issued := rfl
@[simp] theorem Thread.wv_prog (th : Thread) (r : Reg) (data : W256) (tag : BitVec 4) (side : W64) : (th.wv r data tag side).prog = th.prog := rfl
@[simp] theorem Thread.wv_pend (th : Thread) (r : Reg) (data : W256) (tag : BitVec 4) (side : W64) : (th.wv r data tag side).pend = th.pend := rfl
@[simp] theorem Thread.wv_ctrs (th : Thread) (r : Reg) (data : W256) (tag : BitVec 4) (side : W64) : (th.wv r data tag side).ctrs = th.ctrs := rfl
@[simp] theorem Thread.wv_loopTgt (th : Thread) (r : Reg) (data : W256) (tag : BitVec 4) (side : W64) : (th.wv r data tag side).loopTgt = th.loopTgt := rfl
@[simp] theorem Thread.wv_retired (th : Thread) (r : Reg) (data : W256) (tag : BitVec 4) (side : W64) : (th.wv r data tag side).retired = th.retired := rfl
@[simp] theorem Thread.wv_stepsLeft (th : Thread) (r : Reg) (data : W256) (tag : BitVec 4) (side : W64) : (th.wv r data tag side).stepsLeft = th.stepsLeft := rfl

@[simp] theorem Thread.raiseFlags_pc (th : Thread) (f : Flg) : (th.raiseFlags f).pc = th.pc := rfl
@[simp] theorem Thread.raiseFlags_x (th : Thread) (f : Flg) : (th.raiseFlags f).x = th.x := rfl
@[simp] theorem Thread.raiseFlags_xlive (th : Thread) (f : Flg) : (th.raiseFlags f).xlive = th.xlive := rfl
@[simp] theorem Thread.raiseFlags_v (th : Thread) (f : Flg) : (th.raiseFlags f).v = th.v := rfl
@[simp] theorem Thread.raiseFlags_p (th : Thread) (f : Flg) : (th.raiseFlags f).p = th.p := rfl
@[simp] theorem Thread.raiseFlags_pstride (th : Thread) (f : Flg) : (th.raiseFlags f).pstride = th.pstride := rfl
@[simp] theorem Thread.raiseFlags_flags (th : Thread) (f : Flg) : (th.raiseFlags f).flags = th.flags ||| f.setWidth 64 := rfl
@[simp] theorem Thread.raiseFlags_rmode (th : Thread) (f : Flg) : (th.raiseFlags f).rmode = th.rmode := rfl
@[simp] theorem Thread.raiseFlags_amax (th : Thread) (f : Flg) : (th.raiseFlags f).amax = th.amax := rfl
@[simp] theorem Thread.raiseFlags_srkey (th : Thread) (f : Flg) : (th.raiseFlags f).srkey = th.srkey := rfl
@[simp] theorem Thread.raiseFlags_srctr (th : Thread) (f : Flg) : (th.raiseFlags f).srctr = th.srctr := rfl
@[simp] theorem Thread.raiseFlags_cvmask (th : Thread) (f : Flg) : (th.raiseFlags f).cvmask = th.cvmask := rfl
@[simp] theorem Thread.raiseFlags_vcvmask (th : Thread) (f : Flg) : (th.raiseFlags f).vcvmask = th.vcvmask := rfl
@[simp] theorem Thread.raiseFlags_wid (th : Thread) (f : Flg) : (th.raiseFlags f).wid = th.wid := rfl
@[simp] theorem Thread.raiseFlags_widlay (th : Thread) (f : Flg) : (th.raiseFlags f).widlay = th.widlay := rfl
@[simp] theorem Thread.raiseFlags_tcause (th : Thread) (f : Flg) : (th.raiseFlags f).tcause = th.tcause := rfl
@[simp] theorem Thread.raiseFlags_tval (th : Thread) (f : Flg) : (th.raiseFlags f).tval = th.tval := rfl
@[simp] theorem Thread.raiseFlags_tepc (th : Thread) (f : Flg) : (th.raiseFlags f).tepc = th.tepc := rfl
@[simp] theorem Thread.raiseFlags_kernel (th : Thread) (f : Flg) : (th.raiseFlags f).kernel = th.kernel := rfl
@[simp] theorem Thread.raiseFlags_status (th : Thread) (f : Flg) : (th.raiseFlags f).status = th.status := rfl
@[simp] theorem Thread.raiseFlags_wait (th : Thread) (f : Flg) : (th.raiseFlags f).wait = th.wait := rfl
@[simp] theorem Thread.raiseFlags_issued (th : Thread) (f : Flg) : (th.raiseFlags f).issued = th.issued := rfl
@[simp] theorem Thread.raiseFlags_prog (th : Thread) (f : Flg) : (th.raiseFlags f).prog = th.prog := rfl
@[simp] theorem Thread.raiseFlags_pend (th : Thread) (f : Flg) : (th.raiseFlags f).pend = th.pend := rfl
@[simp] theorem Thread.raiseFlags_ctrs (th : Thread) (f : Flg) : (th.raiseFlags f).ctrs = th.ctrs := rfl
@[simp] theorem Thread.raiseFlags_loopTgt (th : Thread) (f : Flg) : (th.raiseFlags f).loopTgt = th.loopTgt := rfl
@[simp] theorem Thread.raiseFlags_retired (th : Thread) (f : Flg) : (th.raiseFlags f).retired = th.retired := rfl
@[simp] theorem Thread.raiseFlags_stepsLeft (th : Thread) (f : Flg) : (th.raiseFlags f).stepsLeft = th.stepsLeft := rfl

@[simp] theorem Thread.wx_pc (th : Thread) (r : Reg) (v : W64) : (th.wx r v).pc = th.pc := by
  unfold Thread.wx; split <;> rfl
@[simp] theorem Thread.wx_v (th : Thread) (r : Reg) (v : W64) : (th.wx r v).v = th.v := by
  unfold Thread.wx; split <;> rfl
@[simp] theorem Thread.wx_p (th : Thread) (r : Reg) (v : W64) : (th.wx r v).p = th.p := by
  unfold Thread.wx; split <;> rfl
@[simp] theorem Thread.wx_pstride (th : Thread) (r : Reg) (v : W64) : (th.wx r v).pstride = th.pstride := by
  unfold Thread.wx; split <;> rfl
@[simp] theorem Thread.wx_flags (th : Thread) (r : Reg) (v : W64) : (th.wx r v).flags = th.flags := by
  unfold Thread.wx; split <;> rfl
@[simp] theorem Thread.wx_rmode (th : Thread) (r : Reg) (v : W64) : (th.wx r v).rmode = th.rmode := by
  unfold Thread.wx; split <;> rfl
@[simp] theorem Thread.wx_amax (th : Thread) (r : Reg) (v : W64) : (th.wx r v).amax = th.amax := by
  unfold Thread.wx; split <;> rfl
@[simp] theorem Thread.wx_srkey (th : Thread) (r : Reg) (v : W64) : (th.wx r v).srkey = th.srkey := by
  unfold Thread.wx; split <;> rfl
@[simp] theorem Thread.wx_srctr (th : Thread) (r : Reg) (v : W64) : (th.wx r v).srctr = th.srctr := by
  unfold Thread.wx; split <;> rfl
@[simp] theorem Thread.wx_cvmask (th : Thread) (r : Reg) (v : W64) : (th.wx r v).cvmask = th.cvmask := by
  unfold Thread.wx; split <;> rfl
@[simp] theorem Thread.wx_vcvmask (th : Thread) (r : Reg) (v : W64) : (th.wx r v).vcvmask = th.vcvmask := by
  unfold Thread.wx; split <;> rfl
@[simp] theorem Thread.wx_wid (th : Thread) (r : Reg) (v : W64) : (th.wx r v).wid = th.wid := by
  unfold Thread.wx; split <;> rfl
@[simp] theorem Thread.wx_widlay (th : Thread) (r : Reg) (v : W64) : (th.wx r v).widlay = th.widlay := by
  unfold Thread.wx; split <;> rfl
@[simp] theorem Thread.wx_tcause (th : Thread) (r : Reg) (v : W64) : (th.wx r v).tcause = th.tcause := by
  unfold Thread.wx; split <;> rfl
@[simp] theorem Thread.wx_tval (th : Thread) (r : Reg) (v : W64) : (th.wx r v).tval = th.tval := by
  unfold Thread.wx; split <;> rfl
@[simp] theorem Thread.wx_tepc (th : Thread) (r : Reg) (v : W64) : (th.wx r v).tepc = th.tepc := by
  unfold Thread.wx; split <;> rfl
@[simp] theorem Thread.wx_kernel (th : Thread) (r : Reg) (v : W64) : (th.wx r v).kernel = th.kernel := by
  unfold Thread.wx; split <;> rfl
@[simp] theorem Thread.wx_status (th : Thread) (r : Reg) (v : W64) : (th.wx r v).status = th.status := by
  unfold Thread.wx; split <;> rfl
@[simp] theorem Thread.wx_wait (th : Thread) (r : Reg) (v : W64) : (th.wx r v).wait = th.wait := by
  unfold Thread.wx; split <;> rfl
@[simp] theorem Thread.wx_issued (th : Thread) (r : Reg) (v : W64) : (th.wx r v).issued = th.issued := by
  unfold Thread.wx; split <;> rfl
@[simp] theorem Thread.wx_prog (th : Thread) (r : Reg) (v : W64) : (th.wx r v).prog = th.prog := by
  unfold Thread.wx; split <;> rfl
@[simp] theorem Thread.wx_pend (th : Thread) (r : Reg) (v : W64) : (th.wx r v).pend = th.pend := by
  unfold Thread.wx; split <;> rfl
@[simp] theorem Thread.wx_ctrs (th : Thread) (r : Reg) (v : W64) : (th.wx r v).ctrs = th.ctrs := by
  unfold Thread.wx; split <;> rfl
@[simp] theorem Thread.wx_loopTgt (th : Thread) (r : Reg) (v : W64) : (th.wx r v).loopTgt = th.loopTgt := by
  unfold Thread.wx; split <;> rfl
@[simp] theorem Thread.wx_retired (th : Thread) (r : Reg) (v : W64) : (th.wx r v).retired = th.retired := by
  unfold Thread.wx; split <;> rfl
@[simp] theorem Thread.wx_stepsLeft (th : Thread) (r : Reg) (v : W64) : (th.wx r v).stepsLeft = th.stepsLeft := by
  unfold Thread.wx; split <;> rfl

@[simp] theorem Thread.count_pc (th : Thread) (ev : Nat) : (th.count ev).pc = th.pc := rfl
@[simp] theorem Thread.count_x (th : Thread) (ev : Nat) : (th.count ev).x = th.x := rfl
@[simp] theorem Thread.count_xlive (th : Thread) (ev : Nat) : (th.count ev).xlive = th.xlive := rfl
@[simp] theorem Thread.count_v (th : Thread) (ev : Nat) : (th.count ev).v = th.v := rfl
@[simp] theorem Thread.count_p (th : Thread) (ev : Nat) : (th.count ev).p = th.p := rfl
@[simp] theorem Thread.count_pstride (th : Thread) (ev : Nat) : (th.count ev).pstride = th.pstride := rfl
@[simp] theorem Thread.count_flags (th : Thread) (ev : Nat) : (th.count ev).flags = th.flags := rfl
@[simp] theorem Thread.count_rmode (th : Thread) (ev : Nat) : (th.count ev).rmode = th.rmode := rfl
@[simp] theorem Thread.count_amax (th : Thread) (ev : Nat) : (th.count ev).amax = th.amax := rfl
@[simp] theorem Thread.count_srkey (th : Thread) (ev : Nat) : (th.count ev).srkey = th.srkey := rfl
@[simp] theorem Thread.count_srctr (th : Thread) (ev : Nat) : (th.count ev).srctr = th.srctr := rfl
@[simp] theorem Thread.count_cvmask (th : Thread) (ev : Nat) : (th.count ev).cvmask = th.cvmask := rfl
@[simp] theorem Thread.count_vcvmask (th : Thread) (ev : Nat) : (th.count ev).vcvmask = th.vcvmask := rfl
@[simp] theorem Thread.count_wid (th : Thread) (ev : Nat) : (th.count ev).wid = th.wid := rfl
@[simp] theorem Thread.count_widlay (th : Thread) (ev : Nat) : (th.count ev).widlay = th.widlay := rfl
@[simp] theorem Thread.count_tcause (th : Thread) (ev : Nat) : (th.count ev).tcause = th.tcause := rfl
@[simp] theorem Thread.count_tval (th : Thread) (ev : Nat) : (th.count ev).tval = th.tval := rfl
@[simp] theorem Thread.count_tepc (th : Thread) (ev : Nat) : (th.count ev).tepc = th.tepc := rfl
@[simp] theorem Thread.count_kernel (th : Thread) (ev : Nat) : (th.count ev).kernel = th.kernel := rfl
@[simp] theorem Thread.count_status (th : Thread) (ev : Nat) : (th.count ev).status = th.status := rfl
@[simp] theorem Thread.count_wait (th : Thread) (ev : Nat) : (th.count ev).wait = th.wait := rfl
@[simp] theorem Thread.count_issued (th : Thread) (ev : Nat) : (th.count ev).issued = th.issued := rfl
@[simp] theorem Thread.count_prog (th : Thread) (ev : Nat) : (th.count ev).prog = th.prog := rfl
@[simp] theorem Thread.count_pend (th : Thread) (ev : Nat) : (th.count ev).pend = th.pend := rfl
@[simp] theorem Thread.count_loopTgt (th : Thread) (ev : Nat) : (th.count ev).loopTgt = th.loopTgt := rfl
@[simp] theorem Thread.count_retired (th : Thread) (ev : Nat) : (th.count ev).retired = th.retired := rfl
@[simp] theorem Thread.count_stepsLeft (th : Thread) (ev : Nat) : (th.count ev).stepsLeft = th.stepsLeft := rfl

@[simp] theorem Thread.countBy_pc (th : Thread) (ev n : Nat) : (th.countBy ev n).pc = th.pc := rfl
@[simp] theorem Thread.countBy_x (th : Thread) (ev n : Nat) : (th.countBy ev n).x = th.x := rfl
@[simp] theorem Thread.countBy_xlive (th : Thread) (ev n : Nat) : (th.countBy ev n).xlive = th.xlive := rfl
@[simp] theorem Thread.countBy_v (th : Thread) (ev n : Nat) : (th.countBy ev n).v = th.v := rfl
@[simp] theorem Thread.countBy_p (th : Thread) (ev n : Nat) : (th.countBy ev n).p = th.p := rfl
@[simp] theorem Thread.countBy_pstride (th : Thread) (ev n : Nat) : (th.countBy ev n).pstride = th.pstride := rfl
@[simp] theorem Thread.countBy_flags (th : Thread) (ev n : Nat) : (th.countBy ev n).flags = th.flags := rfl
@[simp] theorem Thread.countBy_rmode (th : Thread) (ev n : Nat) : (th.countBy ev n).rmode = th.rmode := rfl
@[simp] theorem Thread.countBy_amax (th : Thread) (ev n : Nat) : (th.countBy ev n).amax = th.amax := rfl
@[simp] theorem Thread.countBy_srkey (th : Thread) (ev n : Nat) : (th.countBy ev n).srkey = th.srkey := rfl
@[simp] theorem Thread.countBy_srctr (th : Thread) (ev n : Nat) : (th.countBy ev n).srctr = th.srctr := rfl
@[simp] theorem Thread.countBy_cvmask (th : Thread) (ev n : Nat) : (th.countBy ev n).cvmask = th.cvmask := rfl
@[simp] theorem Thread.countBy_vcvmask (th : Thread) (ev n : Nat) : (th.countBy ev n).vcvmask = th.vcvmask := rfl
@[simp] theorem Thread.countBy_wid (th : Thread) (ev n : Nat) : (th.countBy ev n).wid = th.wid := rfl
@[simp] theorem Thread.countBy_widlay (th : Thread) (ev n : Nat) : (th.countBy ev n).widlay = th.widlay := rfl
@[simp] theorem Thread.countBy_tcause (th : Thread) (ev n : Nat) : (th.countBy ev n).tcause = th.tcause := rfl
@[simp] theorem Thread.countBy_tval (th : Thread) (ev n : Nat) : (th.countBy ev n).tval = th.tval := rfl
@[simp] theorem Thread.countBy_tepc (th : Thread) (ev n : Nat) : (th.countBy ev n).tepc = th.tepc := rfl
@[simp] theorem Thread.countBy_kernel (th : Thread) (ev n : Nat) : (th.countBy ev n).kernel = th.kernel := rfl
@[simp] theorem Thread.countBy_status (th : Thread) (ev n : Nat) : (th.countBy ev n).status = th.status := rfl
@[simp] theorem Thread.countBy_wait (th : Thread) (ev n : Nat) : (th.countBy ev n).wait = th.wait := rfl
@[simp] theorem Thread.countBy_issued (th : Thread) (ev n : Nat) : (th.countBy ev n).issued = th.issued := rfl
@[simp] theorem Thread.countBy_prog (th : Thread) (ev n : Nat) : (th.countBy ev n).prog = th.prog := rfl
@[simp] theorem Thread.countBy_pend (th : Thread) (ev n : Nat) : (th.countBy ev n).pend = th.pend := rfl
@[simp] theorem Thread.countBy_loopTgt (th : Thread) (ev n : Nat) : (th.countBy ev n).loopTgt = th.loopTgt := rfl
@[simp] theorem Thread.countBy_retired (th : Thread) (ev n : Nat) : (th.countBy ev n).retired = th.retired := rfl
@[simp] theorem Thread.countBy_stepsLeft (th : Thread) (ev n : Nat) : (th.countBy ev n).stepsLeft = th.stepsLeft := rfl

@[simp] theorem Thread.countRetired_pc (th : Thread) (q : Prog) : (th.countRetired q).pc = th.pc := by
  unfold Thread.countRetired; simp
@[simp] theorem Thread.countRetired_x (th : Thread) (q : Prog) : (th.countRetired q).x = th.x := by
  unfold Thread.countRetired; simp
@[simp] theorem Thread.countRetired_xlive (th : Thread) (q : Prog) : (th.countRetired q).xlive = th.xlive := by
  unfold Thread.countRetired; simp
@[simp] theorem Thread.countRetired_v (th : Thread) (q : Prog) : (th.countRetired q).v = th.v := by
  unfold Thread.countRetired; simp
@[simp] theorem Thread.countRetired_p (th : Thread) (q : Prog) : (th.countRetired q).p = th.p := by
  unfold Thread.countRetired; simp
@[simp] theorem Thread.countRetired_pstride (th : Thread) (q : Prog) : (th.countRetired q).pstride = th.pstride := by
  unfold Thread.countRetired; simp
@[simp] theorem Thread.countRetired_flags (th : Thread) (q : Prog) : (th.countRetired q).flags = th.flags := by
  unfold Thread.countRetired; simp
@[simp] theorem Thread.countRetired_rmode (th : Thread) (q : Prog) : (th.countRetired q).rmode = th.rmode := by
  unfold Thread.countRetired; simp
@[simp] theorem Thread.countRetired_amax (th : Thread) (q : Prog) : (th.countRetired q).amax = th.amax := by
  unfold Thread.countRetired; simp
@[simp] theorem Thread.countRetired_srkey (th : Thread) (q : Prog) : (th.countRetired q).srkey = th.srkey := by
  unfold Thread.countRetired; simp
@[simp] theorem Thread.countRetired_srctr (th : Thread) (q : Prog) : (th.countRetired q).srctr = th.srctr := by
  unfold Thread.countRetired; simp
@[simp] theorem Thread.countRetired_cvmask (th : Thread) (q : Prog) : (th.countRetired q).cvmask = th.cvmask := by
  unfold Thread.countRetired; simp
@[simp] theorem Thread.countRetired_vcvmask (th : Thread) (q : Prog) : (th.countRetired q).vcvmask = th.vcvmask := by
  unfold Thread.countRetired; simp
@[simp] theorem Thread.countRetired_wid (th : Thread) (q : Prog) : (th.countRetired q).wid = th.wid := by
  unfold Thread.countRetired; simp
@[simp] theorem Thread.countRetired_widlay (th : Thread) (q : Prog) : (th.countRetired q).widlay = th.widlay := by
  unfold Thread.countRetired; simp
@[simp] theorem Thread.countRetired_tcause (th : Thread) (q : Prog) : (th.countRetired q).tcause = th.tcause := by
  unfold Thread.countRetired; simp
@[simp] theorem Thread.countRetired_tval (th : Thread) (q : Prog) : (th.countRetired q).tval = th.tval := by
  unfold Thread.countRetired; simp
@[simp] theorem Thread.countRetired_tepc (th : Thread) (q : Prog) : (th.countRetired q).tepc = th.tepc := by
  unfold Thread.countRetired; simp
@[simp] theorem Thread.countRetired_kernel (th : Thread) (q : Prog) : (th.countRetired q).kernel = th.kernel := by
  unfold Thread.countRetired; simp
@[simp] theorem Thread.countRetired_status (th : Thread) (q : Prog) : (th.countRetired q).status = th.status := by
  unfold Thread.countRetired; simp
@[simp] theorem Thread.countRetired_wait (th : Thread) (q : Prog) : (th.countRetired q).wait = th.wait := by
  unfold Thread.countRetired; simp
@[simp] theorem Thread.countRetired_issued (th : Thread) (q : Prog) : (th.countRetired q).issued = th.issued := by
  unfold Thread.countRetired; simp
@[simp] theorem Thread.countRetired_prog (th : Thread) (q : Prog) : (th.countRetired q).prog = th.prog := by
  unfold Thread.countRetired; simp
@[simp] theorem Thread.countRetired_pend (th : Thread) (q : Prog) : (th.countRetired q).pend = th.pend := by
  unfold Thread.countRetired; simp
@[simp] theorem Thread.countRetired_loopTgt (th : Thread) (q : Prog) : (th.countRetired q).loopTgt = th.loopTgt := by
  unfold Thread.countRetired; simp
@[simp] theorem Thread.countRetired_retired (th : Thread) (q : Prog) : (th.countRetired q).retired = th.retired := by
  unfold Thread.countRetired; simp
@[simp] theorem Thread.countRetired_stepsLeft (th : Thread) (q : Prog) : (th.countRetired q).stepsLeft = th.stepsLeft := by
  unfold Thread.countRetired; simp

@[simp] theorem Thread.advance_rx (th : Thread) (len : Nat) (r : Reg) : (th.advance len).rx r = th.rx r := rfl
@[simp] theorem Thread.advance_liveX (th : Thread) (len : Nat) (r : Reg) : (th.advance len).liveX r = th.liveX r := rfl
@[simp] theorem Thread.advance_rv (th : Thread) (len : Nat) (r : Reg) : (th.advance len).rv r = th.rv r := rfl
@[simp] theorem Thread.jumpTo_rx (th : Thread) (t : W64) (r : Reg) : (th.jumpTo t).rx r = th.rx r := rfl
@[simp] theorem Thread.jumpTo_liveX (th : Thread) (t : W64) (r : Reg) : (th.jumpTo t).liveX r = th.liveX r := rfl
@[simp] theorem Thread.jumpTo_rv (th : Thread) (t : W64) (r : Reg) : (th.jumpTo t).rv r = th.rv r := rfl
@[simp] theorem Thread.count_rx (th : Thread) (ev : Nat) (r : Reg) : (th.count ev).rx r = th.rx r := rfl
@[simp] theorem Thread.count_liveX (th : Thread) (ev : Nat) (r : Reg) : (th.count ev).liveX r = th.liveX r := rfl
@[simp] theorem Thread.count_rv (th : Thread) (ev : Nat) (r : Reg) : (th.count ev).rv r = th.rv r := rfl
@[simp] theorem Thread.countRetired_liveX (th : Thread) (q : Prog) (r : Reg) : (th.countRetired q).liveX r = th.liveX r := by
  unfold Thread.liveX; simp
@[simp] theorem Thread.countRetired_rx (th : Thread) (q : Prog) (r : Reg) : (th.countRetired q).rx r = th.rx r := by
  unfold Thread.rx; simp
@[simp] theorem Thread.countRetired_rv (th : Thread) (q : Prog) (r : Reg) : (th.countRetired q).rv r = th.rv r := by
  unfold Thread.rv; simp
@[simp] theorem Thread.wx_rv (th : Thread) (r : Reg) (v : W64) (q : Reg) : (th.wx r v).rv q = th.rv q := by
  unfold Thread.rv; rw [Thread.wx_v]
@[simp] theorem Thread.wv_rx (th : Thread) (r : Reg) (data : W256) (tag : BitVec 4) (side : W64) (q : Reg) :
    (th.wv r data tag side).rx q = th.rx q := rfl
@[simp] theorem Thread.wv_liveX (th : Thread) (r : Reg) (data : W256) (tag : BitVec 4) (side : W64) (q : Reg) :
    (th.wv r data tag side).liveX q = th.liveX q := rfl

/-! ## Agents of a group -/

@[simp] theorem Group.agent_setAgent_same {g : Group} {i : Issuer} {th : Thread} (h : g.agent i = some th) (u : Thread) :
    (g.setAgent i u).agent i = some u := by
  cases i with
  | thread k =>
    obtain ⟨hk, _⟩ := List.getElem?_eq_some_iff.mp h
    simp [Group.agent, Group.setAgent, getElem?_setAt, hk]
  | loader => rfl
  | storer => rfl
  | departed => cases h

theorem Group.agent_setAgent_other (g : Group) {i j : Issuer} (u : Thread) (h : j ≠ i) : (g.setAgent i u).agent j = g.agent j := by
  cases i <;> cases j <;> simp_all [Group.agent, Group.setAgent, getElem?_setAt]

/-- After an agent of a resident group is replaced it is the new one. -/
theorem State.agent_setAgent_same {s : State} {w : Who} {th : Thread} (h : s.agent w = some th) (u : Thread) :
    (s.setAgent w u).agent w = some u := by
  unfold State.agent at h
  split at h
  · rename_i g hg
    simp [State.agent, State.setAgent, hg, Group.agent_setAgent_same h u]
  · cases h

theorem State.agent_setAgent_other (s : State) {w v : Who} (u : Thread) (h : v ≠ w) : (s.setAgent w u).agent v = s.agent v := by
  unfold State.setAgent
  split
  · rename_i g hg
    by_cases hc : v.core = w.core
    · have hi : v.issuer ≠ w.issuer := fun e => h (by cases v; cases w; simp_all)
      simp [State.agent, hc, hg, Group.agent_setAgent_other g u hi]
    · simp [State.agent, State.group_setGroup_other s _ hc]
  · rfl

@[simp] theorem Group.setAgent_gang (g : Group) (i : Issuer) (th : Thread) : (g.setAgent i th).gang = g.gang := by cases i <;> rfl
@[simp] theorem Group.setAgent_gidx (g : Group) (i : Issuer) (th : Thread) : (g.setAgent i th).gidx = g.gidx := by cases i <;> rfl
@[simp] theorem Group.setAgent_dom (g : Group) (i : Issuer) (th : Thread) : (g.setAgent i th).dom = g.dom := by cases i <;> rfl
@[simp] theorem Group.setAgent_prio (g : Group) (i : Issuer) (th : Thread) : (g.setAgent i th).prio = g.prio := by cases i <;> rfl
@[simp] theorem Group.setAgent_nt (g : Group) (i : Issuer) (th : Thread) : (g.setAgent i th).nt = g.nt := by cases i <;> rfl
@[simp] theorem Group.setAgent_na (g : Group) (i : Issuer) (th : Thread) : (g.setAgent i th).na = g.na := by cases i <;> rfl
@[simp] theorem Group.setAgent_tiles (g : Group) (i : Issuer) (th : Thread) : (g.setAgent i th).tiles = g.tiles := by cases i <;> rfl
@[simp] theorem Group.setAgent_accs (g : Group) (i : Issuer) (th : Thread) : (g.setAgent i th).accs = g.accs := by cases i <;> rfl
@[simp] theorem Group.setAgent_cpValid (g : Group) (i : Issuer) (th : Thread) : (g.setAgent i th).cpValid = g.cpValid := by cases i <;> rfl
@[simp] theorem Group.setAgent_cpJoin (g : Group) (i : Issuer) (th : Thread) : (g.setAgent i th).cpJoin = g.cpJoin := by cases i <;> rfl
@[simp] theorem Group.setAgent_cpNops (g : Group) (i : Issuer) (th : Thread) : (g.setAgent i th).cpNops = g.cpNops := by cases i <;> rfl
@[simp] theorem Group.setAgent_ucode (g : Group) (i : Issuer) (th : Thread) : (g.setAgent i th).ucode = g.ucode := by cases i <;> rfl
@[simp] theorem Group.setAgent_spm (g : Group) (i : Issuer) (th : Thread) : (g.setAgent i th).spm = g.spm := by cases i <;> rfl
@[simp] theorem Group.setAgent_twin (g : Group) (i : Issuer) (th : Thread) : (g.setAgent i th).twin = g.twin := by cases i <;> rfl
@[simp] theorem Group.setAgent_past (g : Group) (i : Issuer) (th : Thread) : (g.setAgent i th).past = g.past := by cases i <;> rfl
@[simp] theorem Group.setAgent_invwin (g : Group) (i : Issuer) (th : Thread) : (g.setAgent i th).invwin = g.invwin := by cases i <;> rfl
@[simp] theorem Group.setAgent_layValid (g : Group) (i : Issuer) (th : Thread) : (g.setAgent i th).layValid = g.layValid := by cases i <;> rfl
@[simp] theorem Group.setAgent_layouts (g : Group) (i : Issuer) (th : Thread) : (g.setAgent i th).layouts = g.layouts := by cases i <;> rfl
@[simp] theorem Group.setAgent_jdone (g : Group) (i : Issuer) (th : Thread) : (g.setAgent i th).jdone = g.jdone := by cases i <;> rfl
@[simp] theorem Group.setAgent_jlast (g : Group) (i : Issuer) (th : Thread) : (g.setAgent i th).jlast = g.jlast := by cases i <;> rfl
@[simp] theorem Group.setAgent_jinfl (g : Group) (i : Issuer) (th : Thread) : (g.setAgent i th).jinfl = g.jinfl := by cases i <;> rfl
@[simp] theorem Group.setAgent_tvec (g : Group) (i : Issuer) (th : Thread) : (g.setAgent i th).tvec = g.tvec := by cases i <;> rfl
@[simp] theorem Group.setAgent_queues (g : Group) (i : Issuer) (th : Thread) : (g.setAgent i th).queues = g.queues := by cases i <;> rfl
@[simp] theorem Group.setAgent_rings (g : Group) (i : Issuer) (th : Thread) : (g.setAgent i th).rings = g.rings := by cases i <;> rfl
@[simp] theorem Group.setAgent_act (g : Group) (i : Issuer) (th : Thread) : (g.setAgent i th).act = g.act := by cases i <;> rfl
@[simp] theorem Group.setAgent_shadow (g : Group) (i : Issuer) (th : Thread) : (g.setAgent i th).shadow = g.shadow := by cases i <;> rfl
@[simp] theorem Group.setAgent_spData (g : Group) (i : Issuer) (th : Thread) : (g.setAgent i th).spData = g.spData := by cases i <;> rfl
@[simp] theorem Group.setAgent_spTags (g : Group) (i : Issuer) (th : Thread) : (g.setAgent i th).spTags = g.spTags := by cases i <;> rfl
@[simp] theorem Group.setAgent_spWritten (g : Group) (i : Issuer) (th : Thread) : (g.setAgent i th).spWritten = g.spWritten := by cases i <;> rfl
@[simp] theorem Group.setAgent_lastRetire (g : Group) (i : Issuer) (th : Thread) : (g.setAgent i th).lastRetire = g.lastRetire := by cases i <;> rfl
@[simp] theorem Group.setAgent_halting (g : Group) (i : Issuer) (th : Thread) : (g.setAgent i th).halting = g.halting := by cases i <;> rfl
@[simp] theorem Group.setAgent_halted (g : Group) (i : Issuer) (th : Thread) : (g.setAgent i th).halted = g.halted := by cases i <;> rfl

end Sys2Proof.Machine
end

