-- ==== Sys2Proof/Tests/Slice0.lean ====
section
/-! SUPPORT. Tests: instruction words decode to what they stand for, ill-formed terms are refused, a few results are those of the spec's
tables, and every statement's hypotheses are met by a small state. -/

namespace Sys2Proof.Tests

set_option Elab.async false

open Sys2Proof Sys2Proof.Machine

/-! ## Small states -/

/-- Thread set 0 of core 0 about to execute, its thread and its group changed. -/
def st (f : Thread → Thread) (h : Group → Group) : State :=
  let s := State.reset.withFetchWord 64 0
  let w : Who := { core := 0, issuer := .thread 0 }
  match s.group 0, s.agent w with
  | some g, some th => s.setGroup 0 (h (g.setAgent w.issuer (f th)))
  | _, _ => s

/-- The thread of such a state. -/
def thr (s : State) : Thread := s.me.getD (Thread.placed 0 0 0 0)

/-- Its group. -/
def grp (s : State) : Group := (s.group 0).getD Group.init

/-- A thread with these values in `x1`, `x2` and so on. -/
def xs (vs : List W64) (th : Thread) : Thread := (vs.foldl (fun (p : Thread × Nat) v => (p.1.wx (BitVec.ofNat 5 p.2) v, p.2 + 1)) (th, 1)).1

/-- The plain state: `x1` to `x4` hold 64, 3, 8 and 1. -/
def s0 : State := st (xs [64, 3, 8, 1]) id

/-- A test of the thread in the state that an instruction leads to. -/
def after (i : Instr) (s : State) (p : State → Thread → Bool) : Bool :=
  match exec i s with
  | .next t => match t.me with
    | some u => p t u
    | none => false
  | _ => false

/-- A register after an instruction. -/
def gives (i : Instr) (s : State) (r : Reg) (v : W64) : Bool := after i s fun _ u => u.rx r == v

/-- The cause that an instruction's trap records, with the handler set up. -/
def trapsAs (i : Instr) (s : State) (c : Cause) (v : W64) : Bool :=
  after i s fun _ u => u.causeCode == c.code && u.tval == v && u.kernel

theorem ready {s : State} {th : Thread} {a b : List Reg} (h : s.me = some th) (hd : th.deadRead a b = none) : Ready s th a b := ⟨h, .inr hd⟩

/-! ## Decoding: words written out from 03 Tables 1 to 6a -/

/-- Does each word decode to its instruction? -/
def reads (l : List (Nat × Instr)) : Bool := l.all fun p => decodeTableWord 128 p.1 == some p.2

theorem test_decode_ialu : reads [
    (0x62088005, .add .w 2 4 6),
    (0x62088105, .sub .w 2 4 6),
    (0x62088205, .and .w 2 4 6),
    (0x62088305, .or .w 2 4 6),
    (0x62088405, .xor .w 2 4 6),
    (0x62088505, .andn .w 2 4 6),
    (0x62088605, .shl .w 2 4 6),
    (0x62088705, .shr .w 2 4 6),
    (0x62088805, .sra .w 2 4 6),
    (0x62088905, .rol .w 2 4 6),
    (0x62088A05, .ror .w 2 4 6),
    (0x62088B05, .min .w 2 4 6),
    (0x62088C05, .max .w 2 4 6),
    (0x62088D05, .minu .w 2 4 6),
    (0x62088E05, .maxu .w 2 4 6),
    (0x62088F05, .slt .w 2 4 6),
    (0x62089005, .sltu .w 2 4 6),
    (0x62089105, .seq .w 2 4 6),
    (0x1062089205, .sel .w 2 4 6 8)] = true := by decide

theorem test_decode_ialui : reads [
    (0xFEDC000002088009, .addi .w 2 4 (.i16 0xFEDC)),
    (0x89ABCDEF000000000208810A, .andi .w 2 4 (.i32 0x89ABCDEF)),
    (0xFEDC000002088209, .ori .w 2 4 (.i16 0xFEDC)),
    (0xFEDC000002088309, .xori .w 2 4 (.i16 0xFEDC)),
    (0x5000002088409, .shli .w 2 4 5),
    (0x5000002088509, .shri .w 2 4 5),
    (0x5000002088609, .srai .w 2 4 5),
    (0x123456789ABCDEF000000000008870B, .li .w 2 (.i64 0x0123456789ABCDEF)),
    (0xFEDC00000008C809, .pcadd 2 (.i16 0xFEDC))] = true := by decide

theorem test_decode_imul : reads [
    (0x6208800D, .mul .w 2 4 6),
    (0x6208810D, .mulh .w 2 4 6),
    (0x6208820D, .mulhu .w 2 4 6),
    (0x6208830D, .mulhsu .w 2 4 6),
    (0x6208840D, .div .w 2 4 6),
    (0x6208850D, .divu .w 2 4 6),
    (0x6208860D, .rem .w 2 4 6),
    (0x6208870D, .remu .w 2 4 6),
    (0x106208880D, .madd .w 2 4 6 8)] = true := by decide

theorem test_decode_bitf : reads [
    (0x2088011, .clz .w 2 4),
    (0x2088111, .ctz .w 2 4),
    (0x2088211, .popc .w 2 4),
    (0x246000002088311, .bfx .w 2 4 6 9),
    (0x246000002088411, .bfxu .w 2 4 6 9),
    (0x246000062088511, .bfi .w 2 4 6 6 9),
    (0x2088611, .bswap .w 2 4),
    (0x2088711, .brev .w 2 4),
    (0x2088811, .sext .w 2 4),
    (0x2088911, .zext .w 2 4)] = true := by decide

theorem test_decode_falu : reads [
    (0x20006208C015, .fadd .f64 .rup 2 4 6),
    (0x20006208C115, .fsub .f64 .rup 2 4 6),
    (0x20006208C215, .fmul .f64 .rup 2 4 6),
    (0x20106208C315, .fma .f64 .rup 2 4 6 8),
    (0x20106208C415, .fnma .f64 .rup 2 4 6 8),
    (0x20006208C515, .fdiv .f64 .rup 2 4 6),
    (0x20000208C615, .fsqrt .f64 .rup 2 4),
    (0x6208C715, .fmin .f64 2 4 6),
    (0x6208C815, .fmax .f64 2 4 6),
    (0x100006208C915, .fsgn .f64 2 4 6 1),
    (0x100006208CA15, .fcmp .f64 2 4 6 1),
    (0x208CB15, .fclass .f64 2 4)] = true := by decide

theorem test_decode_fcvt : reads [
    (0x420000208C019, .fcvt .f64 .rup 2 4 4),
    (0x52000020AC019, .fcvtInt .f64 .rup 2 4 5),
    (0x208C119, .fmv .f64 2 4)] = true := by decide

theorem test_decode_br : reads [
    (0xFEDC00006201401D, .br .geu 4 6 (.i16 0xFEDC)),
    (0xFEDC00000000011D, .jmp (.i16 0xFEDC)),
    (0xFFF000000200021D, .jmpr 4 0xfff0),
    (0x89ABCDEF000000000000031E, .call (.i32 0x89ABCDEF)),
    (0xFFF000000200041D, .callr 4 0xfff0),
    (0x51D, .ret)] = true := by decide

theorem test_decode_ctl : reads [
    (0x3000000080021, .ctlRd 2 3),
    (0x3000002000121, .ctlWr 4 3),
    (0x3000002000221, .ctlSet 4 3),
    (0x3000002000321, .ctlClr 4 3),
    (0x421, .yield),
    (0x80521, .tid 2)] = true := by decide

theorem test_decode_sys : reads [
    (0x26, .nop .l96),
    (0xFFF0000000000125, .trap 0xfff0),
    (0x225, .eret),
    (0x325, .halt),
    (0xFFF0000000000425, .brk 0xfff0),
    (0x62000525, .icinv 4 6),
    (0x2001062000525, .icinvFeed 4 6 8 true)] = true := by decide

theorem test_decode_ld : reads [
    (0xFEDC2B0002088029, .ld .w .acq .mod 5 2 4 (.i16 0xFEDC)),
    (0x89ABCDEF00002F00620A812A, .ldx .w .seq .mod 5 2 4 6 (.i32 0x89ABCDEF))] = true := by decide

theorem test_decode_st : reads [
    (0xFEDC05006200802D, .st .w .rel .mod 4 6 (.i16 0xFEDC)),
    (0x89ABCDEF000007106202812E, .stx .w .seq .mod 4 6 8 (.i32 0x89ABCDEF))] = true := by decide

theorem test_decode_amo : reads [
    (0x70062088031, .amoAdd .w .ar .mod 2 4 6),
    (0x70062088131, .amoAnd .w .ar .mod 2 4 6),
    (0x70062088231, .amoOr .w .ar .mod 2 4 6),
    (0x70062088331, .amoXor .w .ar .mod 2 4 6),
    (0x70062088431, .amoMin .w .ar .mod 2 4 6),
    (0x70062088531, .amoMax .w .ar .mod 2 4 6),
    (0x70062088631, .amoMinu .w .ar .mod 2 4 6),
    (0x70062088731, .amoMaxu .w .ar .mod 2 4 6),
    (0x70062088831, .amoSwap .w .ar .mod 2 4 6),
    (0x71062088931, .amoCas .w .ar .mod 2 4 6 8)] = true := by decide

theorem test_decode_memc : reads [
    (0x70000020035, .fence .seq .mod),
    (0x62000135, .inval 4 6),
    (0x62000235, .wb 4 6),
    (0xFFF0000002000335, .pf 4 0xfff0),
    (0x10062000435, .tlbInv .mod 4 6)] = true := by decide

theorem test_decode_tag : reads [
    (0xFFF0000002080039, .tagLd 2 4 0xfff0),
    (0xFFF0000062000139, .tagSt 4 6 0xfff0),
    (0xFFF0001002080239, .tagLdw 2 4 8 0xfff0),
    (0xA000062000339, .tagFill 4 6 10),
    (0x62000439, .actWr 4 6),
    (0x2020439, .actWrImg 4),
    (0x2080539, .actRd 2 4),
    (0x20A0539, .actRdSh 2 4),
    (0x639, .actSwap)] = true := by decide

theorem test_decode_spm : reads [
    (0x89ABCDEF000000000208003E, .spSet 2 4 (.i32 0x89ABCDEF)),
    (0x208013D, .spRd 2 4)] = true := by decide

theorem test_decode_valu : reads [
    (0x620A8041, .vadd .w true 2 4 6),
    (0x620A8141, .vsub .w true 2 4 6),
    (0x620A8241, .vmul .w true 2 4 6),
    (0x620A8341, .vmulh .w true 2 4 6),
    (0x620A8441, .vmin .w true 2 4 6),
    (0x620A8541, .vmax .w true 2 4 6),
    (0x20A8641, .vabs .w true 2 4),
    (0x20A8741, .vneg .w true 2 4),
    (0x620A8841, .vand .w true 2 4 6),
    (0x620A8941, .vor .w true 2 4 6),
    (0x620A8A41, .vxor .w true 2 4 6),
    (0x620A8B41, .vshl .w true 2 4 6),
    (0x620A8C41, .vshr .w true 2 4 6),
    (0x620A8D41, .vsra .w true 2 4 6),
    (0x620A8E41, .vsadd .w true 2 4 6),
    (0x620A8F41, .vssub .w true 2 4 6)] = true := by decide

theorem test_decode_vfpu : reads [
    (0x2000620AC045, .vfadd .f64 true .rup 2 4 6),
    (0x2000620AC145, .vfsub .f64 true .rup 2 4 6),
    (0x2000620AC245, .vfmul .f64 true .rup 2 4 6),
    (0x2010620AC345, .vfma .f64 true .rup 2 4 6 8),
    (0x2010620AC445, .vfnma .f64 true .rup 2 4 6 8),
    (0x620AC545, .vfmin .f64 true 2 4 6),
    (0x620AC645, .vfmax .f64 true 2 4 6),
    (0x2000620AC745, .vfdiv .f64 true .rup 2 4 6),
    (0x20000620AC845, .vfcmp .f64 true 2 4 6 2)] = true := by decide

theorem test_decode_vcvt : reads [
    (0x200002098049, .vcvt (.v .f32) .rup 2 4 0),
    (0x13002000020AC149, .vcvtBlk .i8b .rup 2 4 0 3 true),
    (0x1000062084249, .vpack .i16 2 4 6 true),
    (0x3000002084349, .vunpack .i16 2 4 true true)] = true := by decide

theorem test_decode_vmem : reads [
    (0x80002B10050A804D, .vld (.m .t6b) .acq .mod 5 2 (.ptr 2 true) 8),
    (0x800005106502814D, .vst (.m .t6b) .rel .mod 6 (.ptr 2 true) 8),
    (0x2B00620B824E, .vldg (.m .f16) .acq .mod 5 2 4 6 true),
    (0x5106203834E, .vsts (.m .f16) .rel .mod 4 6 8 true)] = true := by decide

theorem test_decode_vperm : reads [
    (0x1062088051, .vperm .w 2 4 6 8),
    (0x1062088151, .vsel .w 2 4 6 8),
    (0x1000062088251, .vmerge .w 2 4 6 true),
    (0x5000062080351, .vslide .b 2 4 6 5),
    (0xA00000002088451, .vbcast .w 2 4 10),
    (0x2000002088551, .vext .w 2 4 2),
    (0xA02000002088651, .vins .w 2 4 2 10)] = true := by decide

theorem test_decode_vred : reads [
    (0x200002098055, .vredAdd .f32 .rup 2 4),
    (0x2084155, .vredMax .i16 2 4),
    (0x2084255, .vredMin .i16 2 4)] = true := by decide

theorem test_decode_vspec : reads [
    (0x200002088059, .vexp2V .rup 2 4),
    (0x200002088159, .vrcpV .rup 2 4),
    (0x200002088259, .vrsqrtV .rup 2 4),
    (0x200002088359, .vlog2V .rup 2 4),
    (0x62084459, .crandV .d 2 4 6),
    (0x200002088859, .vexp2S .rup 2 4),
    (0x200002088959, .vrcpS .rup 2 4),
    (0x200002088A59, .vrsqrtS .rup 2 4),
    (0x200002088B59, .vlog2S .rup 2 4),
    (0x62080C59, .crandS 2 4 6)] = true := by decide

theorem test_decode_vseq : reads [
    (0xFFF000000200005D, .vloop 4 0xfff0)] = true := by decide

theorem test_decode_tile : reads [
    (0xFEDC28106208C061, .tld .i8b 5 2 4 6 8 (.i16 0xFEDC)),
    (0xFEDC00106208C161, .tst .i8b 2 4 6 8 (.i16 0xFEDC)),
    (0x8C261, .tzero .i8b 2),
    (0x130020000208C361, .tcvt .i8b .rup 2 4 3 true),
    (0x208C461, .tmov .i8b 2 4)] = true := by decide

theorem test_decode_mma : reads [
    (0x2500006208C065, .mma .i8b 2 4 6 37),
    (0x2500006208C165, .mmaCp .i8b 2 4 6 37),
    (0xA3008200410006000000000267, .cpLd 2 1 0x00A300820041),
    (0x21000001880365, .accRd 2 3 33),
    (0x21000002080465, .accWr 2 4 33),
    (0x80565, .accZero 2),
    (0x80665, .gang 2)] = true := by decide

theorem test_decode_que : reads [
    (0x2080069, .qCnt 2 4),
    (0x2080169, .qPeek 2 4),
    (0x20A0169, .qPeekPop 2 4),
    (0x2000269, .qFlush 4)] = true := by decide

theorem test_decode_hdr : reads [
    (0x200006D, .hdrLay 4),
    (0x600000208016D, .hdrPack 2 4 6),
    (0x60000020A026D, .hdrUnpack true 2 4 6),
    (0x6008036D, .sendQueue 2 6),
    (0x1505006200036D, .sendMailbox .rel .mod 4 6 5),
    (0x4200006200036D, .sendEngine 4 6),
    (0xA03000208046D, .mbxTake .acq .mod 2 4 10),
    (0x8056D, .mbxCnt 2),
    (0x20000020A056D, .mbxCntCfg 2 4 2)] = true := by decide

theorem test_decode_evt : reads [
    (0x102050062000071, .evSet .rel .mod 4 2 true 6),
    (0x102050062000171, .evClr .rel .mod 4 2 true 6),
    (0x102030062080271, .evWait .acq .mod 2 4 2 true 6),
    (0x102030062080371, .evTest .acq .mod 2 4 2 true 6),
    (0x50062000871, .barInit .rel .mod 4 6),
    (0x50002080971, .barArrive .rel .mod 2 4),
    (0x62000A71, .barExpect 4 6),
    (0x30062080B71, .barWait .acq .mod 2 4 6)] = true := by decide

theorem test_decode_task : reads [
    (0x2080075, .taskPost 2 4),
    (0x175, .taskExit),
    (0x275, .taskYield),
    (0x2000000080375, .taskWid 2 2),
    (0x1000000080475, .taskSelf 2 1)] = true := by decide

theorem test_decode_co : reads [
    (0x62080079, .coSuspend 2 4 6),
    (0x62080179, .coResume 2 4 6),
    (0x2000279, .coSeal 4),
    (0x2000379, .coDiscard 4),
    (0x1000002080479, .coStat 2 4 true)] = true := by decide

theorem test_decode_rot : reads [
    (0x106208007D, .rotOpen 2 4 6 8),
    (0x6200017D, .rotPut 4 6),
    (0x100208027D, .rotTake 2 4 8),
    (0x6200037D, .rotDone 4 6),
    (0x200047D, .rotClose 4)] = true := by decide

theorem test_decode_dbg : reads [
    (0x6000002000081, .ctrStart 4 6),
    (0x6000002080181, .ctrStop 2 4 6),
    (0xE000000080281, .ctrRd 2 6 1),
    (0x2000381, .sample 4),
    (0xFFF0000002000481, .mark 4 0xfff0)] = true := by decide

/-! ## Ill-formed terms are refused -/

/-- Are all these terms ill-formed? -/
def bad (l : List Instr) : Bool := l.all fun i => !i.wf

theorem test_wf_scalar : bad [.shli .w 5 6 32, .shri .h 5 6 16, .srai .b 5 6 8, .bfx .d 5 6 0 0, .bfxu .w 5 6 31 2, .bfi .h 5 6 7 16 1, .bswap .b 5 6,
    .fsgn .f32 5 6 7 3, .fcvtInt .f32 .thread 5 6 3, .ctlRd 5 0x007, .ctlRd 5 0x044, .ctlWr 5 0x010, .ctlSet 5 0x02C, .ctlClr 5 0x015] = true := by decide

theorem test_wf_memory : bad [.ld .d .rel .core 0 1 2 (.i16 0), .ld .d .weak .core 0 1 2 (.i16 0), .ldx .w .ar .th 0 1 2 3 (.i16 0), .st .d .acq .core 1 2 (.i16 0),
    .stx .b .weak .sys 1 2 3 (.i16 0), .amoAdd .d .weak .g 1 2 3, .amoAnd .w .weak .g 1 2 3, .amoOr .w .weak .g 1 2 3, .amoXor .w .weak .g 1 2 3,
    .amoMin .w .weak .g 1 2 3, .amoMax .w .weak .g 1 2 3, .amoMinu .w .weak .g 1 2 3, .amoMaxu .w .weak .g 1 2 3, .amoSwap .w .weak .g 1 2 3,
    .amoCas .w .weak .g 1 2 3 4, .fence .weak .th, .tlbInv .th 1 2, .tlbInv .sys 1 2, .spSet 8 1 (.i16 0), .spRd 1 8] = true := by decide

theorem test_wf_vector : bad [.vadd .h true 1 2 4, .vsub .h true 2 1 4, .vmul .h true 2 4 1, .vmulh .b true 1 2 4, .vmin .b true 1 2 4, .vmax .b true 1 2 4,
    .vand .b true 1 2 4, .vor .b true 1 2 4, .vxor .b true 1 2 4, .vshl .b true 1 2 4, .vshr .b true 1 2 4, .vsra .b true 1 2 4, .vsadd .b true 1 2 4,
    .vssub .b true 1 2 4, .vabs .b true 1 2, .vneg .b true 2 1, .vfadd .f32 true .thread 1 2 4, .vfsub .f32 true .thread 1 2 4, .vfmul .f32 true .thread 1 2 4,
    .vfdiv .f32 true .thread 1 2 4, .vfmin .f32 true 1 2 4, .vfmax .f32 true 1 2 4, .vfcmp .f32 true 1 2 4 0, .vfma .f32 true .thread 2 4 6 1,
    .vfnma .f32 true .thread 2 4 6 1, .vcvt (.m .t8b) .thread 1 2 0, .vcvt (.m .t8) .rne 1 2 0, .vcvtBlk .t8 .thread 1 2 0 0 false,
    .vcvtBlk .t8b .rne 1 2 0 0 false, .vcvtBlk .i8b .thread 1 2 0 1 false, .vpack .i64 1 2 3 false, .vunpack .i8 1 2 false false,
    .vslide .w 1 2 3 9, .vbcast .b 1 2 2, .vbcast .w 1 2 12, .vext .d 1 2 4, .vins .d 1 2 4 0, .vins .h 1 2 15 3, .vredAdd .i32 .rne 1 2,
    .vloop 0 (BitVec.ofInt 16 (-8)), .vloop 1 (BitVec.ofInt 16 (-65)), .vloop 1 (BitVec.ofInt 16 (-1)), .vloop 1 8] = true := by decide

theorem test_wf_vector_memory : bad [.vld (.v .i16) .rel .core 0 1 (.reg 2 0) 0, .vld (.v .i16) .weak .th 0 1 (.reg 2 0) 3, .vst (.v .i16) .acq .core 1 (.ptr 0 false) 0,
    .vst (.m .bf16) .weak .th 1 (.ptr 0 false) 3, .vldg (.v .i8) .weak .th 0 1 2 3 false, .vldg (.m .t8) .weak .th 0 1 2 3 false, .vldg (.v .i16) .rel .core 0 1 2 3 false,
    .vsts (.v .i16) .acq .core 1 2 3 false, .vsts (.m .i8) .weak .th 1 2 3 true] = true := by decide

theorem test_wf_matrix : bad [.tld .t8b 0 8 1 2 3 (.i16 0), .tld .f16 0 7 1 2 3 (.i16 0), .tst .t8b 8 1 2 3 (.i16 0), .tzero .f16 8, .tcvt .t8 .rne 1 2 0 false,
    .tcvt .t8b .thread 1 2 1 false, .tcvt .i8 .thread 1 8 0 false, .tmov .f16 1 8, .mma .f16 4 1 2 1, .mma .f16 0 8 2 1, .mma .f16 0 1 2 0, .mmaCp .f16 0 1 2 65,
    .cpLd 0 3 0, .cpLd 0 0 0x10000, .cpLd 1 0 0xC00000, .accRd 1 0 0, .accRd 0 4 0, .accWr 4 0 0, .accWr 0 1 0, .accZero 4] = true := by decide

theorem test_wf_messages : bad [.qCnt 1 8, .qPeek 1 8, .qPeekPop 1 31, .qFlush 8, .sendQueue 8 1, .sendMailbox .acq .core 1 2 1, .sendMailbox .rel .core 1 2 0,
    .sendMailbox .rel .core 1 2 9, .mbxTake .rel .core 1 2 1, .mbxTake .acq .core 1 2 0, .evSet .rel .th 1 0 false 0, .evSet .rel .g 1 0 true 3, .evClr .acq .mod 1 0 false 0,
    .evClr .rel .mod 1 0 false 3, .evWait .rel .mod 1 2 0 false 0, .evTest .weak .mod 1 2 0 false 0, .barInit .acq .core 1 2, .barArrive .seq .core 1 2, .barWait .rel .core 1 2 3,
    .taskWid 1 6, .taskSelf 1 3, .ctrRd 1 0 3] = true := by decide

theorem test_wf_events : bad [.flagunionClear 64 0, .firmwareEventSet 64 0 0 true, .firmwareEventSet 0 4 0 true, .doorbellPost 16 0, .doorbellPost 0 256,
    .blockFlit 24 { hdr := 0, payload := List.replicate 14 0, crc := 0 }, .slotGrant 0 { hdr := 0, payload := [], crc := 0 }, .forwardAck 24 { hdr := 0, payload := [], crc := 0 },
    .openFlit 0 { hdr := 0, payload := [0], crc := 0 }, .breakFlit 0 { hdr := 0, payload := [0], crc := 0 }, .retryRequest 0 { hdr := 0, payload := [0], crc := 0 },
    .flitCrcFailure 0 { hdr := 0, payload := List.replicate 15 0, crc := 0 }, .hostPortTraining 129 16 true, .hostPortTraining 32 3 false] = true := by decide

/-! ## The statements' hypotheses are met: scalar instructions and exceptions -/

theorem ok_of {ε α : Type} {e : Except ε α} {a : α} (h : e.toOption = some a) : e = .ok a := by cases e <;> simp_all [Except.toOption]

/-- `add.d x5, x6, x7` at the PC of the state that `withFetchWord` makes, the state in which it runs, and its fetch block. -/
def sFetch : State := State.reset.withFetchWord 64 0x7314C005
def uFetch : State := sFetch.afterTurn.actAs ⟨0, .thread 0⟩
def bFetch : List Byte := bytesOfNat 16 0x7314C005 ++ List.replicate 16 0

theorem wit_StepRunsDecoded :
    sFetch.nextTurn = .agent ⟨0, .thread 0⟩ ∧ sFetch.afterTurn.pickSet exec ⟨0, .thread 0⟩ = ⟨0, .thread 0⟩ ∧ sFetch.afterTurn.canRun ⟨0, .thread 0⟩ = true ∧
    uFetch.group 0 = some (grp uFetch) ∧ uFetch.agent ⟨0, .thread 0⟩ = some (thr uFetch) ∧
    (thr uFetch).prog = Prog.idle ∧ (thr uFetch).stepsLeft ≠ some 0 ∧ (thr uFetch).pendingCause = none ∧
    uFetch.codeBlock 0 (grp uFetch) (thr uFetch) = .ok bFetch ∧
    decode false (bFetch.drop ((thr uFetch).pc.toNat % 32)) = .ok (.add .d 5 6 7, List.replicate 24 0) ∧
    (thr uFetch).pc.toNat % 32 + lenBytes ((bitsOfBytes (bFetch.drop ((thr uFetch).pc.toNat % 32))).extractLsb' 0 2) ≤ 32 :=
  ⟨rfl, rfl, rfl, rfl, rfl, rfl, by decide, rfl, ok_of (by decide +kernel), ok_of (by decide +kernel), by decide +kernel⟩

theorem wit_DecodeOfEncode : ∃ w, (Instr.bfx .d 31 30 0 64).wf = true ∧ encode (.bfx .d 31 30 0 64) = some w := ⟨_, rfl, rfl⟩
theorem wit_EncodeOfDecode : decodeBits false 0x7314C005 = .ok (.add .d 5 6 7) := rfl

/-- Operands at several numbers of registers, as the register classes need them. -/
theorem wit_Ready : Ready s0 (thr s0) [1, 2] [] ∧ Ready s0 (thr s0) [1, 2, 3] [] ∧ Ready s0 (thr s0) [1] [] ∧ Ready s0 (thr s0) [] [] :=
  ⟨ready rfl rfl, ready rfl rfl, ready rfl rfl, ready rfl rfl⟩

theorem wit_ProductAndBitResults : (1 : Nat) ≤ (64 : BitVec 7).toNat ∧ (0 : BitVec 6).toNat + (64 : BitVec 7).toNat ≤ 64 ∧
    (63 : BitVec 6).toNat + (1 : BitVec 7).toNat ≤ 64 := by decide

theorem wit_RetirementFrame : s0.me = some (thr s0) ∧ Retires .yield s0 ((thr s0).advance 8) ∧
    WritesX (.add .d 5 1 2) s0 (thr s0) 8 5 67 := ⟨rfl, rfl, rfl⟩

theorem wit_ExactRounding : ((-3 : Int) < -1) ∧ ((2 : Nat) * (6 % 4) = 4) ∧ (0x7FF0000000000000 : Nat) < 2 ^ (fpOf .f64).width := by decide

/-- A thread with the DZ condition enabled, 1.0 in `x1` and `x2`, and zero in `x3`. -/
def sFp : State := st (fun th => { xs [0x3F800000, 0x3F800000, 0] th with flags := 0x3F00 }) id

theorem wit_FaluAndFcvtResults : Ready sFp (thr sFp) [1, 2, 3] [] ∧
    (fp32.add .rne (fp32.read 0x3F800000) (fp32.read 0x3F800000)).2 &&& (thr sFp).enabled = 0 ∧
    (fp32.div .rne (fp32.read 0x3F800000) (fp32.read 0)).2 &&& (thr sFp).enabled ≠ 0 := ⟨ready rfl rfl, by decide, by decide⟩

/-- The loader of the plain group issues. -/
def sLoad : State := { s0 with cur := ⟨0, .loader⟩ }

theorem none_out {s : State} (h : (s.core s.cur.core).jrnl = []) : NoneOutstanding s := by
  unfold NoneOutstanding; rw [h]; exact fun _ h => absurd h (by simp)

theorem wit_BranchesAndStops : ∃ g run, sLoad.me = some (thr sLoad) ∧ sLoad.group 0 = some g ∧ immA (.i16 0) = 0 ∧ NoneOutstanding sLoad ∧
    (thr sLoad).pend = [] ∧ sLoad.cur.issuer = .loader ∧
    g.threads[0]? = some run ∧ run.status = .running ∧ (3 : Nat) % 4 ≠ 0 ∧ ((thr s0).rx 1 + (0 : W64)).toNat % 4 = 0 :=
  ⟨_, _, rfl, rfl, rfl, none_out rfl, rfl, rfl, rfl, rfl, by decide, by decide⟩

theorem wit_CallsAndReturns : Ready s0 (thr s0) [1] [] ∧ ((thr s0).rx 1).toNat % 4 = 0 ∧ ((thr s0).rx 2).toNat % 4 ≠ 0 :=
  ⟨ready rfl rfl, by decide, by decide⟩

/-- The plain thread in kernel mode. -/
def sKern : State := st (fun th => { xs [64, 3, 8, 1] th with kernel := true }) id

theorem wit_ControlRegisters : ∃ g, s0.group 0 = some g ∧ Ready s0 (thr s0) [2] [] ∧ ctlExists 0x006 = true ∧ ctlExists 0x007 = false ∧
    ctlReadOnly 0x014 = true ∧ ctlReadOnly 0x015 = false ∧ ctlKernel 0x043 = true ∧ (thr s0).kernel = false ∧ (thr sKern).kernel = true ∧
    ¬ (0x018 ≤ (0x01F : Nat) ∧ (0x01F : Nat) ≤ 0x01F ∧ g.nt ≤ 0x01F - 0x018) ∧ ((thr s0).rx 2).toNat % 8 < 6 ∧ 6 ≤ (6 : W64).toNat % 8 :=
  ⟨_, rfl, ready rfl rfl, by decide⟩

/-- The plain thread with a value in `x1`, and its scratchpad of one unit with a ring whose last slot ends it. -/
def sCtl (v : W64) (f : Thread → Thread) : State :=
  st (fun th => f (xs [v] th)) fun g => g.setRing 3 { desc := w64 (960 * 64 + 2 ^ 24), head := 0, tail := 0, msgs := [], waiting := [] }
/-- A refused store of one byte, whose trap a kernel thread handles with a view of the entry. -/
def bad1 : JPart := { addr := 0x20000100, data := 0xFF7, n := 1, kind := .home 0x20000100 false, bad := true }
def sView (view : Nat) : State :=
  let s := sCtl 0x99 fun th => { th with kernel := true, tcause := w64 (0x80D + view * 2 ^ 48), tval := 31 }
  s.setCore 0 { s.core 0 with jrnl := [{ idx := 31, owner := .thread 0, rel := 0, parts := [bad1], state := .reported 2 0, pub := false, also := [] }] }

theorem wit_ControlRegisters_group : ∃ g, (sCtl 24 id).group 0 = some g ∧ Ready (sCtl 24 id) (thr (sCtl 24 id)) [1] [] ∧ 7 < g.nt ∧
    (sCtl 24 id).tileBusy 0 7 = false ∧ (sCtl 24 id).cpBusy 0 = false ∧ (thr (sCtl 24 id)).prog.stage ≠ 20 ∧ g.splitHeld 0 = false ∧ 0 < g.spm ∧
    g.spm < 24 ∧ (g.ring 3).nslot ≠ 0 ∧ 0 * 65536 < (g.ring 3).base + (g.ring 3).nslot * 64 ∧ ((sCtl 24 id).core 0).cache = [] ∧
    (sCtl 24 id).writingBack 0 = [] ∧ g.feedStops 3 = [] ∧ { g with loader := { g.loader with run := true } }.feedStops 0 = [.loader] ∧
    g.loader.th.pend = [] ∧ (sCtl 24 id).underway { core := 0, issuer := .loader } g.loader.th.prog = false :=
  ⟨_, rfl, ready rfl rfl, by decide, by decide +kernel, by decide +kernel, by decide, by decide +kernel, by decide, by decide, by decide, by decide,
    rfl, by decide +kernel, by decide, by decide, rfl, by decide +kernel⟩

theorem wit_ControlRegisters_values : fld (0x200208 : W64) 14 8 = 2 ∧ (2 : Nat) * fld (0x200208 : W64) 22 16 ≤ 64 ∧ ¬ 2 * fld (0x210208 : W64) 22 16 ≤ 64 ∧
    fld (0x3000000000000 : W64) 49 32 = 0x30000 ∧ fld (0x3000100000000 : W64) 49 32 = 0x30001 := by decide

theorem wit_ControlRegisters_tval : ∃ e, (thr (sView 1)).causeCode = 0x0D ∧ (thr (sView 1)).vsel = 1 ∧ (thr (sView 2)).vsel = 2 ∧ (thr (sView 3)).vsel = 3 ∧
    (sView 1).refusedEntry 0 (thr (sView 1)) = some e ∧ e.refusedPiece = some bad1 ∧ (thr (sView 1)).kernel = true :=
  ⟨_, by decide, by decide, by decide, by decide, rfl, rfl, rfl⟩

theorem wit_TidIdentifies : s0.me = some (thr s0) ∧ s0.cur.issuer = .thread 0 ∧ (0 : Nat) < 4 ∧ s0.cur.core < 2048 := ⟨rfl, rfl, by decide⟩

theorem wit_NopAdvances : (0x4025 : BitVec 128).extractLsb' 0 2 ≠ 0 ∧ (0x4025 : BitVec 128).extractLsb' 2 12 = 0x009 ∧
    (0x4025 : BitVec 128).extractLsb' 14 34 ≠ 0 ∧ s0.me = some (thr s0) := ⟨by decide, by decide, by decide, rfl⟩

/-- The plain thread with a handler. -/
def sHand : State := st (xs [64, 3, 8, 1]) fun g => { g with tvec := 0x40000 }

theorem wit_HandlerEntry : ∃ g, sHand.group 0 = some g ∧ sHand.agent ⟨0, .thread 0⟩ = some (thr sHand) ∧ (thr sHand).inh = false ∧
    fld g.tvec 54 2 ≠ 0 ∧ Cause.align.machine = false ∧ sHand.claimed 0 = false := ⟨_, rfl, rfl, by decide⟩

/-- A second cause while `INH` is 1. -/
def sInh : State := st (fun th => { th with tcause := 0x800 }) fun g => { g with tvec := 0x40000 }

theorem wit_Escalation : ∃ g, sInh.group 0 = some g ∧ sInh.agent ⟨0, .thread 0⟩ = some (thr sInh) ∧ (thr sInh).inh = true ∧
    Cause.ecc.machine = true ∧ (∃ h, s0.group 0 = some h ∧ fld h.tvec 54 2 = 0) := ⟨_, rfl, rfl, by decide, rfl, _, rfl, by decide⟩

/-- A refused store whose trap a kernel thread returns from. -/
def eRef : JEnt := { idx := 31, owner := .thread 0, rel := 0, parts := [], state := .reported 2 0, pub := false, also := [] }
def sRef : State :=
  let s := st (fun th => { th with kernel := true, tcause := 0x80D, tval := 31, tepc := 0x20000008 }) id
  s.setCore 0 { s.core 0 with jrnl := [eRef] }

theorem wit_SystemClass : (thr s0).kernel = false ∧ (thr sKern).kernel = true ∧ ((thr sKern).tepc).toNat % 4 = 0 ∧
    (thr sKern).causeCode ≠ 0x0D ∧ (thr sKern).srce = 0 ∧ NoneOutstanding sKern ∧
    sHand.cur.issuer = .thread 0 ∧ (thr sHand).inh = false ∧ fld (grp sHand).tvec 54 2 ≠ 0 ∧ sHand.claimed 0 = false ∧
    ({ thr sKern with tepc := 2 } : Thread).tepc.toNat % 4 ≠ 0 :=
  ⟨by decide, by decide, by decide, by decide, by decide, none_out rfl, rfl, by decide, by decide, by decide, by decide⟩

/-- The trap came from the loader, or from the storer, at 0x20000008. -/
def sFeedTrap (srce : Nat) : State :=
  st (fun th => { th with kernel := true, tcause := w64 (0x800 + srce * 2 ^ 12 + 0x20000008 * 2 ^ 32), tepc := 0x20000008 }) id

theorem wit_SystemClass_feed : ∀ k ∈ [1, 2], (sFeedTrap k).me = some (thr (sFeedTrap k)) ∧ (thr (sFeedTrap k)).kernel = true ∧
    (thr (sFeedTrap k)).tepc.toNat % 4 = 0 ∧ (thr (sFeedTrap k)).causeCode ≠ 0x0D ∧ (thr (sFeedTrap k)).srce = k ∧
    (grp (sFeedTrap k)).loader.run = false ∧ (grp (sFeedTrap k)).storer.run = false := by decide +kernel

theorem wit_SystemClass_eret : ∃ g, sRef.me = some (thr sRef) ∧ sRef.group 0 = some g ∧ (thr sRef).kernel = true ∧
    (thr sRef).tepc.toNat % 4 = 0 ∧ sRef.cur.issuer = .thread 0 ∧ (thr sRef).causeCode = 0x0D ∧ (thr sRef).retry = false ∧
    eRef.state = .reported 2 0 ∧ (∀ p ∈ eRef.parts, p.bad = true) ∧ (sRef.core 0).jent (fld (thr sRef).tval 4 0) = some eRef ∧
    (∀ x ∈ (sRef.core 0).jrnl, x.idx = fld (thr sRef).tval 4 0 → x = eRef) :=
  ⟨_, rfl, rfl, by decide, by decide, by decide, by decide, by decide, rfl, fun _ h => absurd h (by simp [eRef]), rfl,
    (show ∀ x ∈ [eRef], _ → _ by simp)⟩

/-- A copy of the first eight bytes of the code page to the end of an instruction store. -/
def sCode : State := st (fun th => xs [0x20000000, 8, 16376] th) id

theorem wit_SystemClass_icinv : ∃ g bytes, sCode.group 0 = some g ∧ Ready sCode (thr sCode) [1, 2, 3] [] ∧ (8 : Nat) + 16376 ≤ 16384 ∧
    regionOf 0x20000000 = .global ∧
    checkRuns sCode sCode.cur g (thr sCode) .read [{ ea := 0x20000000, n := 8, align := 4, data := 0 }] = .ok () ∧
    NoneOutstanding sCode ∧ sCode.copyBytes sCode.cur g (thr sCode) 0x20000000 8 = .ok bytes :=
  ⟨_, _, rfl, ready rfl rfl, by decide, by decide, rfl, none_out rfl, rfl⟩

/-- A user thread with `DRE` = 1 and `x9` dead. -/
def sDre : State := st (fun th => { xs [64, 3] th with cvmask := 1 }) id

theorem wit_DeadRead : sDre.me = some (thr sDre) ∧ sDre.cur.issuer = .thread 0 ∧ (thr sDre).kernel = false ∧
    (thr sDre).cvmask.getLsbD 0 = true ∧ (thr sDre).liveX 9 = false ∧ (thr sDre).liveX 1 = true ∧ (thr sDre).liveX 2 = true :=
  ⟨rfl, rfl, by decide⟩

/-- Nothing in the way of the plain thread's accesses. -/
theorem near_ready {s : State} {th : Thread} {g : Group} (h1 : s.me = some th) (h2 : s.group s.cur.core = some g) (h3 : th.Unissued)
    (h4 : (s.core s.cur.core).jrnl = []) (h5 : BanksIdle s s.cur.core) (h6 : Unwatched s s.cur.core) (h7 : g.past = []) : NearReady s th g :=
  ⟨h1, h2, h3, none_out h4, h5, h6, by rw [h7]; simp⟩

/-- One word that passes. -/
theorem near_word {s : State} {g : Group} {k : Kind} {off n al : Nat} (h1 : off % al = 0) (h2 : off + n ≤ g.alloc) (h3 : off + n ≤ 0x180000)
    (h4 : off % 8 + n ≤ 8) (h5 : g.entry (nearKind s.cur k) (off / 8) = 0) : NearBytes s g k off n al :=
  ⟨h1, h2, h3, fun w a b => by rw [show w = off / 8 by omega]; exact h5⟩

/-- A group whose tag 7 traps loads and stores, at the word that `x1` addresses. -/
def sTag : State := st (xs [64, 3]) fun g => { g with spTags := [(8, 7)], act := [(7, 4), (23, 4)] }

theorem wit_AccessTraps : NearReady sTag (thr sTag) (grp sTag) ∧ (grp sTag).alloc = 65536 ∧ (grp sTag).entry .ld 8 % 8 = 4 ∧
    (grp sTag).entry .st 8 % 8 = 4 ∧ (65 : Nat) % 8 ≠ 0 ∧ (65536 : Nat) + 8 ≤ 0x180000 ∧ 65536 < 65536 + 8 :=
  ⟨near_ready rfl rfl rfl rfl rfl rfl rfl, by decide, by decide, by decide, by decide⟩

theorem wit_NearAccesses : NearPass s0 (thr s0) (grp s0) .ld 64 8 8 ∧ NearPass s0 (thr s0) (grp s0) .st 65528 8 8 ∧
    NearPass s0 (thr s0) (grp s0) .amo 0 8 8 :=
  have h := near_ready (s := s0) rfl rfl rfl rfl rfl rfl rfl
  ⟨⟨h, near_word rfl (by decide) (by decide) (by decide) rfl⟩, ⟨h, near_word rfl (by decide) (by decide) (by decide) rfl⟩,
    ⟨h, near_word rfl (by decide) (by decide) (by decide) rfl⟩⟩

/-! ## Memory, vectors and the matrix -/

/-- A kernel thread whose write-back, or shootdown, has been acknowledged. -/
def sAnswered : State := st (fun th => { xs [64, 3] th with kernel := true, prog := { Prog.idle with seq := 1, stage := 20 } }) id

theorem plain_room (pa va : Nat) : (s0.allocate 0 pa va 0).isSome = true := by
  have h : find (s0.core 0).cache (pa / 64) = none := rfl
  simp only [State.allocate, h, Option.isSome_map]; rw [if_pos]
  · rfl
  · exact Nat.le_of_ble_eq_true rfl

theorem wit_CacheControl : s0.me = some (thr s0) ∧ NoneOutstanding s0 ∧ (grp s0).winOn = 0 ∧ Ready s0 (thr s0) [1, 2] [] ∧ (thr s0).rx 2 ≠ 0 ∧
    (thr s0).Unissued ∧ (s0.core 0).cache = [] ∧ s0.writingBack 0 = [] ∧
    (∀ pa, (s0.allocate 0 pa 64 0).isSome = true) ∧ (thr sAnswered).prog.stage = 20 ∧ (thr sAnswered).prog.asked = [] ∧
    (thr sAnswered).kernel = true ∧ (thr sAnswered).prog.seq ≠ 0 :=
  ⟨rfl, none_out rfl, by decide, ready rfl rfl, by decide, rfl, rfl, rfl, fun pa => plain_room pa 64, by decide⟩

/-- An agent that has read the 128 words of an action-table image. -/
def wImg : List W64 := (List.range 128).map fun k => w64 k
def sImg : State := st (fun th => { th with prog := { Prog.idle with seq := 1, got := (List.range 128).map fun k => (k, w64 k) } }) id

theorem wit_TagsAndActions : s0.group 0 = some (grp s0) ∧ Ready s0 (thr s0) [1, 2] [] ∧ NoneOutstanding s0 ∧ BanksIdle s0 0 ∧ Unwatched s0 0 ∧
    (65528 : Nat) < 0x180000 ∧ 65528 % 8 = 0 ∧ 65528 < (grp s0).alloc ∧ 0x30000 * 8 ≤ 24 * 65536 ∧ (thr s0).rx 1 = 64 ∧ (511 : Nat) < 512 ∧
    (4095 : Nat) < 4096 ∧ (grp s0).tablesHeld s0.cur.issuer.setNo (thr s0).issued = false := ⟨rfl, ready rfl rfl, none_out rfl, rfl, rfl, by decide⟩

theorem wit_TagsAndActions_image : sImg.group 0 = some (grp sImg) ∧ (thr sImg).prog.seq ≠ 0 ∧ (thr sImg).prog.reply = none ∧ wImg.length = 128 ∧
    (∀ j, j < 128 → find (thr sImg).prog.got j = wImg[j]?) ∧ (∀ e ∈ imageEntries wImg, e < 4096) :=
  ⟨rfl, by decide, rfl, rfl, by decide +kernel, by decide +kernel⟩

theorem wit_StreamPointers : (7 : Nat) < 8 ∧ (7 : Reg).toNat = 7 ∧ Ready s0 (thr s0) [7] [] ∧ 8 ≤ (8 : Reg).toNat := ⟨by decide, rfl, ready rfl rfl, by decide⟩

/-- Vector registers `v2` to `v5` with lanes at the bounds of I16 and the tag `t`. -/
def vecs (t : BitVec 4) (th : Thread) : Thread :=
  (((th.wv 2 0x7FFF80000001FFFF t 0).wv 3 0x00020003 t 0).wv 4 0x7FFF80007FFF0001 t 0).wv 5 5 t 0
def sVec (t : BitVec 4) : State := st (vecs t) id

theorem wit_ValuResults : Ready (sVec 2) (thr (sVec 2)) [] [2, 3, 4, 5] ∧ Tagged (thr (sVec 2)) true (tagI 16) 2 ∧
    Tagged (thr (sVec 2)) true (tagI 16) 4 ∧ ¬ Tagged (thr (sVec 2)) true (tagI 32) 2 ∧
    (2 : Int) ^ 15 - 1 < (vlane (thr (sVec 2)) 16 2 3).toInt + (vlane (thr (sVec 2)) 16 4 3).toInt ∧
    (0x20 : Flg) &&& (thr (sVec 2)).enabled = 0 := ⟨ready rfl rfl, by unfold Tagged; decide, by unfold Tagged; decide,
      by unfold Tagged; decide, by decide, by decide⟩

theorem wit_VfpuResults : Ready (sVec 10) (thr (sVec 10)) [] [2, 3, 4, 5, 2, 3] ∧ Tagged (thr (sVec 10)) true (tagF .f32) 2 ∧
    Tagged (thr (sVec 10)) true (tagF .f32) 4 ∧ ∀ f : Flg, f &&& (thr (sVec 10)).enabled = 0 :=
  ⟨ready rfl rfl, by unfold Tagged; decide, by unfold Tagged; decide, by decide⟩

/-- The same with every condition enabled: lane 0 of `v2` is a signalling or quiet NaN's pattern. -/
def sVecFp : State := st (fun th => { (th.wv 2 0x7F800001 10 0).wv 4 0x3F800000 10 0 with flags := 0x3F00 }) id

theorem wit_VfpuResults_trap :
    (fp32.add .rne (fp32.read (vlane (thr sVecFp) 32 2 0).toNat) (fp32.read (vlane (thr sVecFp) 32 4 0).toNat)).2 &&& (thr sVecFp).enabled ≠ 0 := by
  decide

theorem wit_SpecialsAndVloop : Ready sFp (thr sFp) [1, 2] [] ∧
    (fp32.div .rne (.fin false 1 0) (fp32.read 0x3F800000)).2 &&& (thr sFp).enabled = 0 ∧
    (fp32.div .rne (.fin false 1 0) (fp32.read 0)).2 &&& (thr sFp).enabled ≠ 0 ∧ ((thr s0).rx 4).toNat ≤ 1 ∧ 2 ≤ ((thr s0).rx 2).toNat :=
  ⟨ready rfl rfl, by decide, by decide, by decide, by decide⟩

theorem wit_PermutesAndReductions : Ready (sVec 2) (thr (sVec 2)) [] [2, 4, 5] ∧ Ready (sVec 2) (thr (sVec 2)) [2] [] ∧
    (16 : BitVec 6).toNat ≤ 256 / 16 ∧ (15 : BitVec 5).toNat < 256 / 16 ∧ Tagged (thr (sVec 2)) false (tagV .i16) 2 ∧
    tagInt (tagV .i16).toNat = true ∧ (∃ fp, tagFp (tagV .f32).toNat = some fp) ∧ Tagged (thr (sVec 10)) false (tagV .f32) 2 :=
  ⟨ready rfl rfl, ready rfl rfl, by decide, by decide, by unfold Tagged; decide, by decide, ⟨_, rfl⟩, by unfold Tagged; decide⟩

theorem wit_VcvtResults : Ready (sVec 10) (thr (sVec 10)) [] [2, 4] ∧ (thr (sVec 10)).rv 2 = { data := 0x7FFF80000001FFFF, tag := 10, side := 0, live := true } ∧
    tagBits 10 ≠ 0 ∧ laneSpan (256 / tagBits 10) (256 / tagBits 9) 8 = some (0, 8, 8) ∧ laneSpan (256 / tagBits 10) 32 24 = some (0, 24, 8) ∧
    (sVec 0).me = some (thr (sVec 0)) ∧ tagBits ((thr (sVec 0)).rv 2).tag.toNat = 0 ∧ Tagged (thr (sVec 2)) false (tagI (2 * widthV .i8)) 2 ∧
    Tagged (thr (sVec 2)) false (tagI (widthV .i32 / 2)) 2 :=
  ⟨ready rfl rfl, by decide, by decide, by decide, by decide, rfl, by decide, by unfold Tagged; decide, by unfold Tagged; decide⟩

/-- 32 bytes at a multiple of 32 in the plain state pass for loads and stores. -/
theorem near_line {k : Kind} {off n al : Nat} (h1 : off % al = 0) (h2 : off + n ≤ 65536)
    (h3 : ∀ w, (grp s0).entry (nearKind s0.cur k) w = 0) : NearBytes s0 (grp s0) k off n al :=
  ⟨h1, h2, by omega, fun w _ _ => h3 w⟩

/-- No action table has an entry in the plain state. -/
theorem plain_entry (k : Kind) (w : Nat) : (grp s0).entry k w = 0 := by
  unfold Group.entry; rw [show (grp s0).act = [] from rfl]; rfl

theorem plain_near (k : Kind) {off n al : Nat} (h1 : off % al = 0) (h2 : off + n ≤ 65536) : NearPass s0 (thr s0) (grp s0) k off n al :=
  ⟨near_ready rfl rfl rfl rfl rfl rfl rfl, near_line h1 h2 (plain_entry _)⟩

theorem wit_VectorAccesses : Ready s0 (thr s0) [1, 3] [2] ∧ NearPass s0 (thr s0) (grp s0) .ld 64 24 1 ∧ NearPass s0 (thr s0) (grp s0) .st 65504 32 4 ∧
    NearPass s0 (thr s0) (grp s0) .st 8 8 1 ∧ blockTag 7 = true ∧ (8 : Nat) + 8 ≤ 64 ∧ ((thr (sVec 2)).rv 2).live = true ∧
    ((thr (sVec 2)).rv 2).tag ≠ tagVM (.v .i32) ∧ ((thr (sVec 2)).rv 2).tag ≠ 0 :=
  ⟨ready rfl rfl, plain_near _ rfl (by decide), plain_near _ rfl (by decide), plain_near _ rfl (by decide), by decide⟩

theorem wit_GathersAndScatters : VM.gatherable (.v .i64) = true ∧ Ready s0 (thr s0) [1] [2, 3] ∧ Tagged (thr s0) false (tagI 64) 2 ∧
    ∀ j, j < 4 → NearPass s0 (thr s0) (grp s0) .st ((thr s0).rx 1 + (vlane (thr s0) 64 3 j).signExtend 64 * w64 8).toNat 8 8 := by
  refine ⟨rfl, ready rfl rfl, by unfold Tagged; decide, fun j hj => ?_⟩
  have h : ((thr s0).rx 1 + (vlane (thr s0) 64 3 j).signExtend 64 * w64 8).toNat = 64 := by
    have : j = 0 ∨ j = 1 ∨ j = 2 ∨ j = 3 := by omega
    rcases this with rfl | rfl | rfl | rfl <;> decide
  rw [h]; exact plain_near _ rfl (by decide)

/-- Tiles of 2 rows and 4 columns, `t0` and `t1` in I8 and `t2` in T8B, and the group's gang of one. -/
def tileOf (fmt rows cols : Nat) : Tile := { data := [], side := [], shape := w64 (fmt + rows * 256 + cols * 65536) }
def sTile : State := st (xs [64, 256, 8]) fun g => { g with tiles := ((g.tiles.set 0 (tileOf 1 2 4)).set 1 (tileOf 1 4 2)).set 2 (tileOf 6 2 4) }

theorem wit_TileAccesses : NearReady sTile (thr sTile) (grp sTile) ∧ Ready sTile (thr sTile) (tileRegs 6 1 2 3) [] ∧ (2 : Nat) < (grp sTile).nt ∧
    sTile.tileBusy 0 2 = false ∧ ((grp sTile).tile 2).cols = 4 ∧ ((grp sTile).tile 2).rows = 2 ∧ ((grp sTile).tile 2).cols * tileW 6 ≤ 64 ∧
    ((grp sTile).tile 2).fmt = 6 ∧
    (∀ q ∈ (List.range 2).flatMap (fun r => rowRuns (thr sTile) 6 4 1 2 3 (.i16 0) (((grp sTile).tile 2).rowData 6 r) (((grp sTile).tile 2).rowSide r) r),
      q.ea + q.n ≤ 65536 ∧ q.ea % q.align = 0 ∧ q.ea / 8 ≤ 41) ∧
    ((List.range 2).flatMap fun r => rowRuns (thr sTile) 6 4 1 2 3 (.i16 0) (((grp sTile).tile 2).rowData 6 r) (((grp sTile).tile 2).rowSide r) r).Pairwise
      fun p q => p.ea + p.n ≤ q.ea ∨ q.ea + q.n ≤ p.ea :=
  ⟨near_ready rfl rfl rfl rfl rfl rfl rfl, ready rfl rfl, by decide, rfl, by decide, by decide, by decide, by decide, by decide, by decide⟩

theorem wit_TileAccesses_bytes (k : Kind) (w : Nat) : (grp sTile).entry k w = 0 := by
  unfold Group.entry; rw [show (grp sTile).act = [] from rfl]; rfl

theorem wit_TileResults : sTile.me = some (thr sTile) ∧ sTile.group 0 = some (grp sTile) ∧ (0 : Nat) < (grp sTile).nt ∧ sTile.tileBusy 0 0 = false ∧
    ((grp sTile).tile 0).cols * tileW 5 ≤ 64 ∧ ((grp sTile).tile 0).fmt = (tagM .i8).toNat ∧ ((grp sTile).tile 1).fmt ≠ (tagM .t8b).toNat ∧
    (∃ g, (st id fun g => { g with nt := 0 }).group 0 = some g ∧ g.nt ≤ 0) ∧ ((grp sTile).tile 0).fmt ≠ 0 ∧ 1 ≤ ((grp sTile).tile 0).cols ∧
    ((grp sTile).tile 0).rows ≤ 64 ∧ ∀ f : Flg, f &&& (thr sTile).enabled = 0 :=
  ⟨rfl, rfl, by decide, rfl, by decide, by decide, by decide, ⟨_, rfl, by decide⟩, by decide, by decide, by decide, by decide⟩

theorem wit_Accumulators : (sVec 10).me = some (thr (sVec 10)) ∧ (3 : Nat) < (grp (sVec 10)).na ∧ (sVec 10).accBusy 0 3 = false ∧
    Ready (sVec 10) (thr (sVec 10)) [] [2, 3] ∧ Tagged (thr (sVec 10)) true 10 2 ∧ (sVec 10).cpBusy 0 = false :=
  ⟨rfl, by decide, rfl, ready rfl rfl, by unfold Tagged; decide, rfl⟩

theorem wit_MatrixAndGang : ∃ gang, sTile.cur.issuer = .thread 0 ∧ sTile.me = some (thr sTile) ∧ sTile.group 0 = some (grp sTile) ∧
    find sTile.gangs (grp sTile).gang = some gang ∧ gang.cores = [0] ∧ gang.latch = [] ∧ gang.running = [] ∧ gang.susp = none ∧ (grp sTile).gidx = 0 ∧
    (thr sTile).prog.seq = 0 ∧ ((grp sTile).tile 0).fmt = (tagM .i8).toNat ∧ ((grp sTile).tile 0).cols = (4 : BitVec 7).toNat ∧
    ((grp sTile).tile 1).fmt = (tagM .i8).toNat ∧ ((grp sTile).tile 1).rows = (4 : BitVec 7).toNat ∧ ((grp sTile).tile 1).cols ≤ 16 ∧
    ((grp sTile).tile 1).rows ≠ (5 : BitVec 7).toNat :=
  ⟨_, rfl, rfl, rfl, rfl, rfl, rfl, rfl, rfl, rfl, rfl, by decide⟩

/-! ## Queues, messages, tasks, objects and rotation -/

def sQueue : State := st (xs [0, 0, 8, 1]) fun g => (g.setQueue 3 [5, 6]).setQueue 7 (List.replicate 8 9)

theorem wit_QueuesAndHeaders : sQueue.me = some (thr sQueue) ∧ sQueue.group 0 = some (grp sQueue) ∧ (grp sQueue).queue 3 = [5, 6] ∧
    (grp sQueue).queue 2 = [] ∧ 8 ≤ ((grp sQueue).queue 7).length ∧ ((grp sQueue).queue 6).length < 8 ∧ (7 : Reg).toNat < 8 := ⟨rfl, rfl, by decide⟩

/-- A descriptor of layout 15 with two fields of 1 and 63 bits, and the group that holds it. -/
def lay : W64 := 0xF000000000001F81
def sLay : State := st (xs [lay, 0x100000000000000]) fun g => { g with layouts := vset g.layouts 15 lay, layValid := 0x8000 }

theorem wit_QueuesAndHeaders_layout : Ready sLay (thr sLay) [1] [] ∧ (thr sLay).rx 1 = lay ∧ lay.extractLsb' 56 4 = 0 ∧
    (∀ j, j < 2 → 1 ≤ (lay.extractLsb' (7 * j) 7).toNat ∧ (lay.extractLsb' (7 * j) 7).toNat ≤ 64) ∧
    (∀ j, 2 ≤ j → j < 8 → (lay.extractLsb' (7 * j) 7).toNat = 0) ∧ ((thr sLay).rx 2).extractLsb' 56 4 ≠ 0 ∧
    (grp sLay).layValid.getLsbD 15 = true ∧ (grp sLay).layValid.getLsbD 14 = false ∧
    layPlaces 0 (layFields (vget 0 (grp sLay).layouts 15)) = [(0, 1), (1, 63)] ∧ (31 : Nat) < 31 + 2 - 1 ∧ (30 : Nat) + 2 ≤ 32 := by
  refine ⟨ready rfl rfl, by decide, by decide, by decide, fun j h1 h2 => ?_, by decide, by decide, by decide, by decide, by decide⟩
  have : j = 2 ∨ j = 3 ∨ j = 4 ∨ j = 5 ∨ j = 6 ∨ j = 7 := by omega
  rcases this with rfl | rfl | rfl | rfl | rfl | rfl <;> decide

/-- A ring of four slots at 4 KiB that holds one message, and the descriptor in `x2`. -/
def ringD : W64 := w64 (4096 + 4 * 2 ^ 24)
def sRing : State := st (xs [64, ringD, w64 (2 ^ 31), w64 (65536 - 64 + 2 * 2 ^ 24)]) fun g =>
  g.setRing 3 { desc := ringD, head := 0, tail := 1, msgs := [{ slot := 0, nw := 8, sender := 5 }], waiting := [] }

theorem wit_Messages : sRing.me = some (thr sRing) ∧ sRing.group 0 = some (grp sRing) ∧ Ready sRing (thr sRing) [1] [] ∧ Unwatched sRing 0 ∧
    ((grp sRing).ring 3).msgs = [{ slot := 0, nw := 8, sender := 5 }] ∧ ((grp sRing).ring 3).waiting = [] ∧ (8 : BitVec 4).getLsbD 3 = true ∧
    64 % 8 = 0 ∧ 64 + 64 ≤ (grp sRing).alloc ∧ ringD.extractLsb' 31 33 = 0 ∧ ringD.extractLsb' 21 3 = 0 ∧ ringD.extractLsb' 0 6 = 0 ∧
    (ringD.extractLsb' 24 7).toNat = 4 ∧ ((thr sRing).rx 3).extractLsb' 31 33 ≠ 0 ∧
    (grp sRing).alloc < (((thr sRing).rx 4).extractLsb' 6 15).toNat * 64 + 2 * 64 :=
  ⟨rfl, rfl, ready rfl rfl, rfl, by decide⟩

/-- An agent that has read the words of its message: to ring 1 of core 5 with one word, and to engine 0 with a PREFETCH card. -/
def sSend (x1 : W64) (n : Nat) (w : W64) : State := st (fun th =>
  { xs [x1, 64] th with prog := { Prog.idle with seq := 1, stage := 17, got := (List.range n).map fun k => (k, if k = 0 then w else 0) } }) id
def words (n : Nat) (w : W64) : List W64 := (List.range n).map fun k => if k = 0 then w else 0

theorem wit_Messages_mailbox : Ready (sSend 0x1005 1 7) (thr (sSend 0x1005 1 7)) [1, 2] [] ∧ NoneOutstanding (sSend 0x1005 1 7) ∧
    (thr (sSend 0x1005 1 7)).prog.stage = 17 ∧ (words 1 7).length = (1 : BitVec 5).toNat ∧
    (∀ j, j < 1 → find (thr (sSend 0x1005 1 7)).prog.got j = (words 1 7)[j]?) ∧ (0x1005 : W64).toNat < 2 ^ 14 ∧ (0x1005 : W64).getLsbD 11 = false :=
  ⟨ready rfl rfl, none_out rfl, by decide⟩

theorem wit_Messages_engine : ∃ op : W64, Ready (sSend 0 16 op) (thr (sSend 0 16 op)) [1, 2] [] ∧ NoneOutstanding (sSend 0 16 op) ∧
    (words 16 op).length = 16 ∧ (∀ j, j < 16 → find (thr (sSend 0 16 op)).prog.got j = (words 16 op)[j]?) ∧ (0 : W64).extractLsb' 6 2 = 0 ∧
    ((thr (sSend 0 16 op)).rx 2).toNat % 64 = 0 ∧ cardOk (words 16 op) 0 = true ∧ cardBar (words 16 op) = 0 :=
  ⟨0x402, ready rfl rfl, none_out rfl, by decide⟩

theorem wit_Messages_done : ∃ s : State, Ready s (thr s) [1, 2] [] ∧ (thr s).prog.stage = 18 ∧ (thr s).prog.reply = none ∧
    find (thr s).prog.got 0 = some 0 := ⟨st (fun th => { th with prog := { Prog.idle with seq := 1, stage := 18, got := [(0, 0)] } }) id, ready rfl rfl, by decide⟩

/-- A cluster whose quarter 3 the domain owns, with bit 63 set; `x1` holds that bit, `x2` another. -/
def kEv : Cluster := { Cluster.init with ev := #v[0, 0, 0, 0x8000000000000000], owner := #v[none, none, none, some 0] }
def sEv : State := (st (xs [0x8000000000000000, 1]) id).setCluster 0 kEv

theorem wit_EventInstructions : sEv.me = some (thr sEv) ∧ sEv.group 0 = some (grp sEv) ∧ Ready sEv (thr sEv) [1, 2] [] ∧ NoneOutstanding sEv ∧
    (sEv.cluster 0).fenced = false ∧ vget none (sEv.cluster 0).owner 3 = some (grp sEv).dom ∧ (sEv.cluster 0).waits = [] ∧ (thr sEv).prog.got = [] ∧
    (sEv.cluster 0).quarter 3 &&& (thr sEv).rx 1 = (thr sEv).rx 1 ∧ (sEv.cluster 0).quarter 3 &&& (thr sEv).rx 2 ≠ (thr sEv).rx 2 ∧
    vget none (sEv.cluster 0).owner 2 ≠ some (grp sEv).dom := ⟨rfl, rfl, ready rfl rfl, none_out rfl, by decide⟩

/-- Thread set 1 waits for bit 0 of that quarter. -/
def thWait : Thread := { xs [1] (Thread.placed 0 0 0 0) with status := .running, prog := { Prog.idle with inst := some (.evWait .weak .th 2 1 3 false 0) } }
def sEvW : State := (st (xs [1]) fun g => { g with threads := setAt g.threads 1 thWait }).setCluster 0 { kEv with waits := [(⟨0, .thread 1⟩, 3)] }

theorem wit_EventInstructions_waiter : (sEvW.cluster 0).waits = [(⟨0, .thread 1⟩, 3)] ∧ sEvW.agent ⟨0, .thread 1⟩ = some thWait ∧
    (⟨0, .thread 1⟩ : Who) ≠ sEvW.cur ∧ thWait.waitMask = some (1, 3) ∧ ((sEvW.cluster 0).quarter 3 ||| (thr sEvW).rx 1) &&& 1 = 1 :=
  ⟨rfl, rfl, by decide, by decide, by decide⟩

/-- A barrier at byte 64 with one arrival left and phase 5. -/
def sBar (a b : W64) : State := st (xs [64, 5, 72, w64 (2 ^ 24)]) fun g => { g with spData := write64 (write64 [] 64 a) 72 b }

theorem wit_BarrierObjects : Ready (sBar 1 (w64 (5 * 2 ^ 32 + 1))) (thr (sBar 1 (w64 (5 * 2 ^ 32 + 1)))) [1, 2] [] ∧ NoneOutstanding (sBar 1 0) ∧ Unwatched (sBar 1 0) 0 ∧ BanksIdle (sBar 1 0) 0 ∧
    read64 (grp (sBar 1 (w64 (5 * 2 ^ 32 + 1)))).spData 64 = 1 ∧ (read64 (grp (sBar 2 0)).spData 64).extractLsb' 0 24 ≠ 0 ∧ read64 (grp (sBar 2 0)).spData 64 ≠ 1 ∧
    (read64 (grp (sBar 1 (w64 (5 * 2 ^ 32 + 1)))).spData 72).extractLsb' 32 31 = ((thr (sBar 1 0)).rx 2).extractLsb' 0 31 ∧
    64 % 16 = 0 ∧ 72 % 16 ≠ 0 ∧ 64 + 16 ≤ (grp (sBar 1 0)).alloc ∧ 2 ^ 24 ≤ ((thr (sBar 1 0)).rx 4).toNat ∧
    (2 : Nat) ^ 40 ≤ 1 + (w64 (2 ^ 64 - 2 ^ 24)).toNat / 2 ^ 24 := ⟨ready rfl rfl, none_out rfl, rfl, rfl, by decide⟩

/-- Two threads of a group run. -/
def sTwo : State := st (xs [64]) fun g => { g with threads := setAt g.threads 1 (Thread.placed 0 0 0 0) }

theorem wit_TaskInstructions : ∃ k run, Ready sTwo (thr sTwo) [] [] ∧ sTwo.group 0 = some (grp sTwo) ∧ find sTwo.gangs (grp sTwo).gang = some k ∧
    sTwo.waiter 0 false (fun q => (grp sTwo).prio ≤ q.level) = none ∧ (grp sTwo).threads[1]? = some run ∧ run.status = .running ∧
    sTwo.cur.issuer ≠ .thread 1 ∧ NoneOutstanding sTwo ∧ (thr sTwo).pend = [] :=
  ⟨_, _, ready rfl rfl, rfl, rfl, by decide, rfl, by decide, by decide, none_out rfl, rfl⟩

/-- A pending gang of die 0, where every core but the running one is fenced. -/
def launch1 : Launch :=
  { words := List.replicate 8 0, addr := 0, dom := 0, serial := 1, ready := true, turn := 1, failed := none, told := false, out := 0, retired := 0, sets := [],
    vec := 0, co := none, claimed := false, period := 0, nextMq := 0 }
def pend1 : Pend := { home := 0, slot := 0, lo := 0, n := 1, level := 0, stolen := none, objs := [], answer := 0, was := none, turn := 0 }
def sWaits : State :=
  { s0.setHub 0 { Hub.init with slots := [(0, launch1)], queue := [pend1] } with
    cores := s0.cores ++ (List.range 255).map fun k => (k + 1, { Core.init with fenced := true }) }

theorem wit_TaskInstructions_waits : sWaits.waiter 0 false (fun q => (grp sWaits).prio ≤ q.level) = some pend1 ∧ Ready sWaits (thr sWaits) [] [] :=
  ⟨by decide +kernel, ready rfl rfl⟩

theorem wit_TaskInstructions_post : Ready (sSend 64 8 7) (thr (sSend 64 8 7)) [1] [] ∧ ((thr (sSend 64 8 7)).rx 1).toNat % 64 = 0 ∧
    (thr (sSend 64 8 7)).prog.stage = 17 ∧ (thr (sSend 64 8 7)).prog.seq ≠ 0 ∧ (thr (sSend 64 8 7)).prog.reply = none ∧ (words 8 7).length = 8 ∧
    (∀ j, j < 8 → find (thr (sSend 64 8 7)).prog.got j = (words 8 7)[j]?) ∧ NoneOutstanding (sSend 64 8 7) ∧ recWord (words 8 7) 7 = 0 ∧
    (thr s0).prog.stage = 0 ∧ ((thr s0).rx 2).toNat % 64 ≠ 0 :=
  ⟨ready rfl rfl, by decide, by decide, by decide, by decide, by decide, by decide, none_out rfl, by decide, by decide⟩

/-- A thread whose `x1` names an object at the next 64 KiB of the code page, whose word of `STATE` holds `v`. -/
def sCo (v : Nat) : State :=
  let s := st (xs [0x20010000, 64, 0x20010020]) id
  { s with mem := writeN s.mem 0x2001000C 4 v }
def kCo : Gang := ((find (sCo 0).gangs (grp (sCo 0)).gang)).getD Gang.init

theorem wit_ContinuationObjects : Ready (sCo 0) (thr (sCo 0)) [1, 2] [] ∧ (sCo 0).group 0 = some (grp (sCo 0)) ∧
    find (sCo 0).gangs (grp (sCo 0)).gang = some kCo ∧ NoneOutstanding (sCo 0) ∧ Unwatched (sCo 0) 0 ∧ kCo.susp = none ∧ ((thr (sCo 0)).rx 1).toNat % 64 = 0 ∧
    regionOf ((thr (sCo 0)).rx 1).toNat = .global ∧ ((thr (sCo 0)).rx 2).toNat % 64 = 0 ∧ kCo.cores = [0] ∧
    checkAreas (sCo 0) (grp (sCo 0)) (thr (sCo 0)) ((sCo 0).saveAreas (grp (sCo 0)).gang kCo 0x20010000 64) = .ok () ∧
    checkFree (sCo 0) (grp (sCo 0)) (thr (sCo 0)) ((sCo 0).saveAreas (grp (sCo 0)).gang kCo 0x20010000 64) = .ok () ∧ (thr (sCo 0)).rx 5 = 0 ∧ (thr (sCo 0)).rx 1 ≠ 0 ∧
    ((thr (sCo 0)).rx 3).toNat % 64 ≠ 0 ∧ (thr (sCo 0)).prog.stage = 0 :=
  ⟨ready rfl rfl, rfl, rfl, none_out rfl, rfl, rfl, by decide, by decide, by decide, rfl, ok_of (by decide +kernel), ok_of (by decide +kernel), by decide⟩

theorem wit_ContinuationObjects_discard : ∃ t : State,
    (sCo 1).objStatePa ((sCo 1).coreCaches 0) 0 false .both 0x20010000 = .ok ⟨0x2001000C, true⟩ ∧ (sCo 1).engineRead 0x20010008 8 = .ok (2 ^ 32) ∧
    2 ^ 32 / 2 ^ 18 % 2 = 0 ∧ (sCo 1).engineRead 0x2001000C 4 = .ok 1 ∧ (sCo 1).objPoke ⟨0x2001000C, true⟩ 4 4 = .ok t :=
  ⟨{ sCo 1 with mem := writeN (sCo 1).mem 0x2001000C 4 4 }, ok_of (by decide +kernel), ok_of (by decide +kernel), by decide,
    ok_of (by decide +kernel), ok_of (by decide +kernel)⟩

theorem wit_ContinuationObjects_stat : ((sCo 1).objRead ((sCo 1).coreCaches 0) 0 false 0x20010000 3).toOption.isSome = true := by decide +kernel

theorem wit_ContinuationObjects_resume : ∃ s : State, (thr s).prog.stage = 3 ∧ find (thr s).prog.got 0 = some 0x100 ∧ (0x100 : W64).toNat % 256 = 0 :=
  ⟨st (fun th => { th with prog := { Prog.idle with seq := 1, stage := 3, got := [(0, 0x100)] } }) id, by decide⟩

/-- Ring 11 of domain 0 with its ports up and four slots of one unit at an untracked page; `x1` is the configuration word. -/
def sRot : State :=
  let s := st (xs [w64 (11 + 4 * 16 + 2 ^ 16), 0x20000000, 77]) id
  let s := { s with mem := writeN s.mem 0x20008 8 (2 + 0x780 + codeBase + 2 ^ 54) }
  let s := (s.setPort 5 { s.port 5 with up := true }).setPort 6 { s.port 6 with up := true }
  s.setRing 11 { RotRing.init with desc := w64 (2 ^ 63 + 5 * 2 ^ 32 + 6 * 2 ^ 24 + 2 * 2 ^ 16 + 2 ^ 8) }

theorem wit_RotationInstructions : Ready sRot (thr sRot) [1, 2, 3] [] ∧ sRot.group 0 = some (grp sRot) ∧ NoneOutstanding sRot ∧
    (sRot.ring 11).valid = true ∧ (sRot.ring 11).dom = (grp sRot).dom ∧ (sRot.port ((sRot.ring 11).portOf true)).up = true ∧
    (sRot.port ((sRot.ring 11).portOf false)).up = true ∧ (thr sRot).prog.stage ≠ 18 ∧ (sRot.ring 11).sess = none ∧ (sRot.ring 11).heldUp = [] ∧ (sRot.ring 11).heldDn = [] ∧
    ((thr sRot).rx 1).toNat % 16 = 11 ∧ ((thr sRot).rx 1).extractLsb' 4 5 = 4 ∧ ((thr sRot).rx 1).extractLsb' 16 7 = 1 ∧
    ((thr sRot).rx 1).extractLsb' 9 7 = 0 ∧ regionOf 0x20000000 = .global ∧ regionOf (0x20000000 + 4 * 4096 - 1) = .global ∧
    sRot.pinUnits sRot.cur 0 false (unitVas 0x20000000 4) = .ok [0x20000000, 0x20001000, 0x20002000, 0x20003000] ∧
    sRot.overPinned [0x20000000, 0x20001000, 0x20002000, 0x20003000] = false :=
  ⟨ready rfl rfl, rfl, none_out rfl, rfl, rfl, rfl, rfl, by decide, rfl, rfl, rfl, by decide, by decide, by decide, by decide, by decide, by decide,
    ok_of (by decide +kernel), by decide +kernel⟩

/-- A session at its last block, or at its first. -/
def sessOf (cursor : Nat) (slots : List RSlot) (broken : Option Nat) : Session :=
  { dom := 0, base := 0x20000000, units := [0x20000000, 0x20001000, 0x20002000, 0x20003000], bk := 1, word := 77, slots := slots, cursor := cursor,
    putDone := false, put := none, grants := [3], upEpoch := some 5, dnEpoch := some 6, broken := broken, sending := none, takes := [] }
def slotOf (st : SlotSt) (step : Nat) (granted : Bool) : RSlot := { st := st, step := step, bytes := 4096, granted := granted }
def sSess (se : Session) : State :=
  let s := sRot.setRing 11 { sRot.ring 11 with sess := some se, epoch := 1 }
  s.setAgent s.cur (xs [(s.ring 11).handle 11, 0x20000000, 1] (thr s))
def seFull : Session := sessOf 0 (slotOf .full 0 true :: List.replicate 3 (slotOf .free 0 true)) none

theorem wit_RotationInstructions_session : Ready (sSess seFull) (thr (sSess seFull)) [1, 2, 3] [] ∧ ((sSess seFull).ring 11).sess = some seFull ∧
    seFull.dom = (grp (sSess seFull)).dom ∧ (thr (sSess seFull)).rx 1 = ((sSess seFull).ring 11).handle 11 ∧
    ((thr (sSess seFull)).rx 1).toNat % 16 = 11 ∧ seFull.broken = none ∧ seFull.putDone = false ∧ (thr (sSess seFull)).rx 2 = seFull.base ∧
    seFull.cursor ≠ ((sSess seFull).ring 11).members ∧ seFull.fullAt 0 = some 0 ∧ (thr (sSess seFull)).rx 4 = w64 seFull.cursor ∧
    (thr (sSess seFull)).rx 3 ≠ w64 seFull.cursor ∧
    ((sSess seFull).ring 11).members ≤ (sessOf 2 (List.replicate 4 (slotOf .free 0 true)) none).cursor ∧
    (∀ y ∈ (sessOf 2 (List.replicate 4 (slotOf .free 0 true)) none).slots, y.st ≠ .consumed) ∧ (sRot.ring 11).sess = none :=
  ⟨ready rfl rfl, rfl, rfl, by decide, by decide, rfl, rfl, by decide, by decide, by decide, by decide, by decide, by decide, by decide, rfl⟩

/-- Counter 3 runs on event 9, and tracing with marks is on. -/
def sCtr : State :=
  { st (fun th => { xs [9, 64, 65, 0xFF] th with ctrs := th.ctrs.set 3 { value := 5, start := 2, stop := none, control := 0x109 } }) id with
    trace := { Trace.init with en := true, marks := true } }

theorem wit_CountersAndMarks : Ready sCtr (thr sCtr) [1] [] ∧ sCtr.group 0 = some (grp sCtr) ∧ ((thr sCtr).rx 1).toNat < 10 ∧ 10 ≤ ((thr sCtr).rx 2).toNat ∧
    bitOf ((thr sCtr).ctr 3).control 8 = true ∧ ((thr sCtr).rx 3).toNat % 8 ≠ 0 ∧ NearPass s0 (thr s0) (grp s0) .st 64 32 8 ∧
    (s0.trace.en && s0.trace.marks) = false ∧ sCtr.trace.en = true ∧ sCtr.trace.marks = true :=
  ⟨ready rfl rfl, rfl, by decide, by decide, by decide, by decide, plain_near _ rfl (by decide), rfl, rfl, rfl⟩

/-! ## Events: homes, owners, agents, cores -/

/-- The plain state with one message in flight. -/
def withMsg (m : Msg) : State := { s0 with net := [m] }
def me0 : Who := { core := 0, issuer := .thread 0 }

/-- The word at 0x20000100 is registered to core 1, or lost. -/
def regd (m : Msg) (lost : Bool) : State :=
  (withMsg m).setSlice ((withMsg m).homeOf 0x20000100)
    { Slice.init with table := [{ word := 0x20000100 / 8, owner := 1, inc := 0, lost := lost, asked := false }] }
def lm1 : LoadMsg :=
  { who := me0, inc := 0, seq := 1, k := 0, pa := 0x20000100, va := 64, untracked := false, sys := false, fill := none, fresh := false }
def load1 : Msg := .loadReq lm1
def reg0 : RegMsg := { core := 0, inc := 0, pa := 0x20000100, narrow := true }
def amo1 : AmoMsg := { who := me0, inc := 0, seq := 1, pa := 0x20000104, va := 64, sys := false, trk := true, op := .add, n := 4, b := 1, c := 0 }
def ust1 (tr : Bool) : StoreMsg :=
  { who := me0, seq := 1, k := 0, jidx := some 3, inc := 0, pa := 0x20000104, va := 64, data := 7, n := 4, tracked := tr, sys := false }

/-- A module in which the stack of address 0x20000100 has failed in service, with a message on its way. -/
def failed (ms : List Msg) : State := { s0 with net := ms, mgmt := { s0.mgmt with failedStacks := [s0.stackOf 0x20000100] } }

theorem wit_HomeRequests_ecc : (failed [load1]).takeMsg = some (load1, failed []) ∧ (failed [.amo amo1]).takeMsg = some (.amo amo1, failed []) ∧
    (failed []).stackFails 0x20000100 = true ∧ s0.stackFails 0x20000100 = false ∧ (failed []).regEnt 0x20000100 = none ∧ (failed []).stackFails amo1.pa = true ∧ (failed []).regEnt amo1.pa = none ∧
    ((failed []).slice ((failed []).homeOf amo1.pa)).queue = [] :=
  ⟨rfl, rfl, by decide +kernel, rfl, by decide +kernel, by decide +kernel, by decide +kernel, rfl⟩

/-- The narrow registration of the plain thread's store, and its journal entry. -/
def eReg : JEnt := { idx := 5, owner := .thread 0, rel := 0, parts := [{ addr := 64, data := 7, n := 4, kind := .reg 0x20000100, bad := false }], state := .out, pub := false, also := [] }
theorem wit_HomeRequests_merge : { reg0 with narrow := true }.narrow = true ∧
    (((failed []).setCore 0 { (failed []).core 0 with jrnl := [eReg] }).core 0).storer 0 reg0.pa = some (.later 0 0) ∧ reg0.core = 0 ∧
    (HomeReq.amo amo1).storeOf 0 0x20000104 = false ∧ (HomeReq.reg reg0).storeOf 0 0x20000104 = true := ⟨rfl, by decide +kernel, rfl, rfl, rfl⟩

theorem wit_HomeRequests : (withMsg load1).takeMsg = some (load1, s0) ∧ s0.host.hdm = [] ∧ lm1.inc = (s0.core lm1.who.core).inc ∧
    { lm1 with inc := 1 }.inc ≠ (s0.core lm1.who.core).inc ∧ isHost 0x20000100 = false ∧ s0.regEnt 0x20000100 = none ∧
    (∃ e, { regd load1 true with net := [] }.regEnt 0x20000100 = some e ∧ e.lost = true) ∧
    (∃ e, { regd load1 false with net := [] }.regEnt 0x20000100 = some e ∧ e.lost = false ∧ e.asked = false ∧ e.owner ≠ reg0.core) ∧
    (s0.slice (s0.homeOf 0x20000100)).queue = [] ∧ (s0.slice (s0.homeOf 0x20000100)).table.length < 524288 ∧
    (withMsg (.registration reg0)).takeMsg = some (.registration reg0, s0) ∧ reg0.inc = (s0.core reg0.core).inc ∧
    { reg0 with inc := 1 }.inc ≠ (s0.core reg0.core).inc ∧ amo1.inc = (s0.core amo1.who.core).inc ∧ (withMsg (.amo amo1)).takeMsg = some (.amo amo1, s0) ∧
    (withMsg (.ustore (ust1 false))).takeMsg = some (.ustore (ust1 false), s0) ∧ (ust1 false).inc = (s0.core 0).inc :=
  ⟨rfl, rfl, rfl, by decide, by decide, by decide +kernel, ⟨_, rfl, rfl⟩, ⟨_, rfl, rfl, rfl, by decide⟩, rfl, by decide +kernel, rfl, rfl, by decide, rfl,
    rfl, rfl, rfl⟩

/-- Core 0 holds the line of 0x20000100 with a word in a state. -/
def cw (st : WSt) (merge : Bool) : CWord := { st := st, data := 7, mask := 0x0F, merge := merge }
def cl (st : WSt) (merge : Bool) : CLine := { va := 0x20000100, win := 0, unitNo := 0, reuse := 0, words := Vector.replicate 8 (cw st merge) }
def owns (m : Msg) (st : WSt) (merge : Bool) : State :=
  (withMsg m).setCore 0 { (withMsg m).core 0 with cache := [(0x20000100 / 64, cl st merge)] }

theorem wit_OwnerEvents : ∀ m ∈ [Msg.fwdLoad lm1 0, .revoke 0 0x20000100, .forceWb 0 0x20000100,
      .ownerData 0 0 0x20000100 (some 5), .ownerData 0 9 0x20000100 none, .regAck 0 0x20000100, .mergeData 0 0x20000100 9],
    ∀ st ∈ [WSt.inv, .v, .p, .g], ∀ b ∈ [true, false], (owns m st b).takeMsg = some (m, { owns m st b with net := [] }) ∧
      ({ owns m st b with net := [] }.core 0).cword 0x20000100 = some (cl st b, cw st b) ∧ (cw st b).st = st ∧ (cw st b).merge = b := by
  decide +kernel

/-- Core 0's registration of the word is acknowledged, with merge data before that. -/
def merges : State := { owns (.fwdLoad lm1 0) .p true with net := [.fwdLoad lm1 0, .mergeData 0 0x20000100 9, .regAck 0 0x20000100] }

theorem wit_OwnerEvents_merge : merges.takeMsg = some (.fwdLoad lm1 0, { merges with net := merges.net.drop 1 }) ∧
    .regAck 0 (0x20000100 / 8 * 8) ∈ merges.net.drop 1 ∧ { merges with net := merges.net.drop 1 }.mergeOf 0 0x20000100 = some 9 ∧
    (owns (.fwdLoad lm1 0) .g true).mergeOf 0 0x20000100 = none ∧ (9 : BitVec 16) ≠ (s0.core 0).inc :=
  ⟨rfl, by decide, by decide +kernel, by decide +kernel, by decide⟩

theorem wit_OwnerEvents_home : ∃ (s : State) (e : REnt), s.regEnt 0x20000100 = some e ∧ e.owner = 1 ∧ e.inc = 0 ∧ e.lost = false ∧
    (s.slice (s.homeOf 0x20000100)).queue = [] ∧ s0.regEnt 0x20000100 = none := ⟨regd load1 false, _, rfl, rfl, rfl, rfl, rfl, by decide +kernel⟩

/-- The plain thread has asked for part 0 of request 1. -/
def asks (m : Msg) (q : Prog) : State := { st (fun th => { xs [64, 3, 8, 1] th with prog := q }) id with net := [m] }
def q1 : Prog := { Prog.idle with seq := 1, asked := [0] }
def rep1 : Msg := .loadRep lm1 (.ok [(0, 9)])
def shoot1 : Msg := .tlbReq (.core 0) me0 1 { all := true, alldom := true, dom := 0, va := 0 }

theorem wit_AgentAnswers : (asks rep1 q1).takeMsg = some (rep1, { asks rep1 q1 with net := [] }) ∧
    { asks rep1 q1 with net := [] }.agent me0 = some (thr (asks rep1 q1)) ∧ (thr (asks rep1 q1)).prog.seq = 1 ∧ lm1.who = me0 ∧ lm1.seq = 1 ∧ find ([(0, 9)] : Map W64) 0 = some 9 ∧
    (thr (asks rep1 q1)).prog.reply = none ∧ (asks (.wbAck 0 0x20000100) { q1 with stage := 20 }).agent me0 =
      some (thr (asks (.wbAck 0 0x20000100) { q1 with stage := 20 })) ∧ (thr (asks (.wbAck 0 0x20000100) { q1 with stage := 20 })).prog.stage = 20 ∧
    (asks shoot1 Prog.idle).cacheDrained (.core 0) = true ∧
    { s0 with net := [shoot1, load1] }.cacheDrained (.core 0) = false :=
  ⟨rfl, rfl, rfl, rfl, rfl, rfl, rfl, rfl, rfl, by decide +kernel, by decide +kernel⟩

/-- Journal entry 5 of thread set 0 is outstanding. -/
def jent1 : JEnt := { idx := 5, owner := .thread 0, rel := 0, parts := [{ addr := 64, data := 7, n := 8, kind := .home 0x20000100 false, bad := false }], state := .out, pub := false, also := [] }
def jourd (m : Msg) : State := (withMsg m).setCore 0 { (withMsg m).core 0 with jrnl := [jent1] }
def far1 (r : SpReq) : FarMsg :=
  { who := { core := 1, issuer := .thread 0 }, stamp := 1, seq := 1, jidxs := [], target := 0, dom := 0, vec := false, req := r, parts := [{ k := 0, off := 65528, n := 8, data := 7 }] }
def dep1 (dom : Nat) : Deposit := { who := { core := 1, issuer := .thread 0 }, seq := 1, core := 0, ring := 3, words := [1, 2], dom := dom, held := false }
def rung (m : Msg) : State := { sRing with net := [m] }

theorem wit_CoreArrivals : (jourd (.jRefuse 0 5 0 1 2)).takeMsg = some (.jRefuse 0 5 0 1 2, jourd (.jRefuse 0 5 0 1 2) |> fun s => { s with net := [] }) ∧
    (jourd (.jRefuse 0 5 0 1 2) |>.core 0).jrnl = [jent1] ∧ (jourd (.jAck 0 5 0) |>.agent me0) = some (thr (jourd (.jAck 0 5 0))) ∧
    (∀ r ∈ [SpReq.load, .store], (withMsg (.far (far1 r))).takeMsg = some (.far (far1 r), s0)) ∧ (s0.core 0).fenced = false ∧ (s0.core 0).dead = false ∧
    s0.arrive 0 = .take ∧ s0.group 0 = some (grp s0) ∧ (grp s0).dom = 0 ∧ (grp s0).past = [] ∧ 65528 + 8 ≤ (grp s0).alloc ∧ BanksIdle s0 0 ∧
    (grp s0).entry .rld (65528 / 8) = 0 ∧ (grp s0).entry .rst (65528 / 8) = 0 :=
  ⟨rfl, rfl, rfl, by decide +kernel, rfl, rfl, rfl, rfl, by decide, rfl, by decide, rfl, by decide, by decide⟩

theorem wit_CoreArrivals_deposit : (rung (.deposit (dep1 0))).takeMsg = some (.deposit (dep1 0), sRing) ∧ sRing.arrive 0 = .take ∧
    sRing.group 0 = some (grp sRing) ∧ (grp sRing).dom = 0 ∧ ((grp sRing).ring 3).msgs.length < ((grp sRing).ring 3).nslot ∧
    ((grp sRing).ring 3).waiting = [] ∧ ((grp sRing).ring 2).nslot = 0 ∧ (dep1 1).dom ≠ (grp sRing).dom ∧ (s0.group 1) = none ∧ s0.arrive 1 = .take :=
  ⟨rfl, rfl, rfl, by decide, by decide, rfl, by decide, by decide, rfl, rfl⟩

/-- The plain thread with a pending cause; the handler is set up, or not. -/
def pends (c : Cause) (tv : W64) : State :=
  st (fun th => { xs [64] th with pend := [{ cause := c, tval := 64, srce := 0, fpc := 0, jidx := none }] }) fun g => { g with tvec := tv }

theorem wit_ThreadEvents : (pends .storeRefused 0x4000).canRun me0 = true ∧ (pends .storeRefused 0x4000).group 0 = some (grp (pends .storeRefused 0x4000)) ∧
    (pends .storeRefused 0x4000).agent me0 = some (thr (pends .storeRefused 0x4000)) ∧ (thr (pends .storeRefused 0x4000)).status = .running ∧
    (thr (pends .storeRefused 0x4000)).inh = false ∧ (thr (pends .storeRefused 0x4000)).pend = [{ cause := .storeRefused, tval := 64, srce := 0, fpc := 0, jidx := none }] ∧
    Cause.storeRefused.machine = false ∧ fld (grp (pends .storeRefused 0x4000)).tvec 54 2 ≠ 0 ∧ Cause.saveLost.machine = true ∧
    fld (grp (pends .storeRefused 0)).tvec 54 2 = 0 ∧ (thr s0).pend = [] :=
  ⟨by decide +kernel, rfl, rfl, rfl, rfl, rfl, by decide, by decide, by decide, by decide, rfl⟩

theorem wit_ThreadEvents_held : ∃ (s : State) (th : Thread), s.agent me0 = some th ∧ th.status = .held ∧
    s.sup = [] ++ [{ core := 0, t := 0, wid := th.wid, code := 24, tepc := 4, tval := 0 }] :=
  ⟨{ st (fun th => { th with status := .held }) id with sup := [{ core := 0, t := 0, wid := 0, code := 24, tepc := 4, tval := 0 }] }, _, rfl, rfl, rfl⟩

/-- Waiters of bank 2 of core 0: due, and refused for want of room. -/
def banked (b : Bank) : State := s0.setCore 0 { s0.core 0 with banks := (s0.core 0).banks.set 2 b }
def dueBank : Bank := { Bank.init with due := [.own (.thread 0) 2 []] }
def fullBank : Bank := { Bank.init with retry := [.own (.thread 0) 2 []] }
/-- The plain thread, its `x1` given, waits in an instruction, with quarter 3 of its cluster. -/
def waits (i : Instr) (n : Nat) (x1 : W64) (got : Map W64) : State :=
  (st (fun th => { xs [x1, 3] th with prog := { Prog.idle with inst := some i, seq := 1, stage := n, got := got } }) id).setCluster 0 kEv

theorem wit_WaiterEvents : (banked dueBank).group 0 = some (grp s0) ∧
    ((banked dueBank).core 0).bank 2 = { Bank.init with due := [.own (whoAt 0 0).issuer 2 []] } ∧ (banked dueBank).agent (whoAt 0 0) = some (thr s0) ∧
    (banked dueBank).canRun (whoAt 0 0) = true ∧ ((banked fullBank).core 0).bank 2 = { Bank.init with retry := [.own (whoAt 0 0).issuer 2 []] } ∧
    ((s0.core 0).bank 2).due = [] ∧ (waits .actSwap 16 64 []).group 0 = some (grp (waits .actSwap 16 64 [])) ∧
    (grp (waits .actSwap 16 64 [])).threads[0]? = some (thr (waits .actSwap 16 64 [])) ∧ (thr (waits .actSwap 16 64 [])).prog.inst = some .actSwap ∧
    (thr (waits .actSwap 16 64 [])).prog.stage = 16 ∧ (grp (waits .actSwap 16 64 [])).tablesHeld 0 (thr (waits .actSwap 16 64 [])).issued = false ∧
    (thr s0).prog.inst = none := ⟨rfl, rfl, rfl, by decide +kernel, rfl, rfl, rfl, rfl, rfl, rfl, rfl, rfl⟩

/-- A `bar.wait` for another phase than that of the object at byte 64. -/
def sBarW : State := waits (.barWait .acq .core 5 1 2) 0 64 []
theorem wit_WaiterEvents_barrier : sBarW.group 0 = some (grp sBarW) ∧ sBarW.agent (whoAt 0 0) = some (thr sBarW) ∧ sBarW.canRun (whoAt 0 0) = true ∧
    NoneOutstanding { sBarW.select 0 0 with cur := whoAt 0 0 } ∧ (thr sBarW).prog.inst = some (.barWait .acq .core 5 1 2) ∧
    Ready { sBarW.select 0 0 with cur := whoAt 0 0 } (thr sBarW) [1, 2] [] ∧ Unwatched sBarW 0 ∧ BanksIdle sBarW 0 ∧ ((thr sBarW).rx 1).toNat % 16 = 0 ∧
    ((thr sBarW).rx 1).toNat + 16 ≤ (grp sBarW).alloc ∧ (read64 (grp sBarW).spData 72).extractLsb' 32 31 ≠ ((thr sBarW).rx 2).extractLsb' 0 31 :=
  ⟨rfl, rfl, by decide +kernel, none_out rfl, rfl, ready rfl rfl, rfl, rfl, by decide, by decide, by decide⟩

/-- An `ev.wait` for the bit of quarter 3 that is set, for another, or with the quarter already bound. -/
def sEvP (x1 : W64) (got : Map W64) : State := waits (.evWait .weak .th 2 1 3 false 0) 16 x1 got
theorem wit_WaiterEvents_event : (∀ e ∈ [(sEvP 0x8000000000000000 []), sEvP 1 [], sEvP 1 [(0, 9)]], e.group 0 = some (grp e) ∧ e.agent (whoAt 0 0) = some (thr e) ∧
      e.canRun (whoAt 0 0) = true ∧ (thr e).prog.inst = some (.evWait .weak .th 2 1 3 false 0) ∧ (e.core 0).jrnl = [] ∧ (e.cluster 0).fenced = false ∧
      vget none (e.cluster 0).owner 3 = some (grp e).dom ∧ (e.cluster 0).waits = [] ∧ (thr e).deadRead [1] [] = none) ∧
    find (thr (sEvP 1 [(0, 9)])).prog.got 0 = some 9 ∧ find (thr (sEvP 1 [])).prog.got 0 = none ∧
    (kEv.quarter 3) &&& (thr (sEvP 0x8000000000000000 [])).rx 1 = (thr (sEvP 0x8000000000000000 [])).rx 1 ∧
    (kEv.quarter 3) &&& (thr (sEvP 1 [])).rx 1 ≠ (thr (sEvP 1 [])).rx 1 := by decide +kernel

theorem wit_CoreDeathAndUnions : s0.a1 = false ∧ (s0.cluster 63).waits = [] ∧ s0.group 1 = none ∧ s0.group 0 ≠ none :=
  ⟨rfl, rfl, rfl, by decide +kernel⟩

/-! ## Events: hubs, gangs, jobs -/

/-- A launch record of `n` gangs of one group, waiting for bits of quarter 0 of cluster 0. -/
def rec1 (n : Nat) (wait : W64) : List W64 := [0x20000000, 0, 128, w64 n, wait, 0, 0, 0]
def launchOf (n : Nat) (wait : W64) : Launch := { launch1 with words := rec1 n wait }
def post1 (ws : List W64) : Post := { who := some (me0, 1), bell := none, die := 0, dom := 0, addr := 64, words := ws, objs := [] }
/-- The plain state with a hub, and a message in flight. -/
def hubbed (d : Nat) (h : Hub) (net : List Msg) : State := { s0.setHub d h with net := net }
def hub1 (l : Launch) (q : List Pend) : Hub := { Hub.init with slots := [(0, l)], queue := q }

theorem wit_LaunchEvents : (withMsg (.record (post1 (rec1 20 0)))).takeMsg = some (.record (post1 (rec1 20 0)), s0) ∧
    s0.postCode 0 0 (rec1 20 0) false = 0 ∧ s0.postCode 0 0 (rec1 0 0) false ≠ 0 ∧ recWord (rec1 20 0) 4 = 0 ∧ s0.live = true ∧
    (s0.setCluster 0 { Cluster.init with owner := #v[some 0, none, none, none] }).postCode 0 0 (rec1 20 1) false = 0 ∧ recWord (rec1 20 1) 4 ≠ 0 ∧
    recWord (rec1 20 0) 7 = 0 ∧ (hubbed 7 (hub1 (launchOf 20 1) []) []).groupsOf 7 = [] ∧
    (s0.cluster 0).quarter 0 &&& recWord (rec1 20 1) 4 ≠ recWord (rec1 20 1) 4 ∧ recEvcl (rec1 20 1) = 0 :=
  ⟨rfl, by decide +kernel, by decide +kernel, by decide, rfl, by decide +kernel, by decide, by decide, rfl, by decide, by decide⟩

/-- A record of domain 5, which is not valid, waits for bit 0; one of a single gang is pending in hub 7. -/
def sAdmit : State :=
  (hubbed 7 (hub1 { launchOf 20 1 with ready := false, dom := 5 } []) []).setCluster 0 { Cluster.init with ev := #v[1, 0, 0, 0] }
def pendOf (d : Nat) (l : Launch) : Pend :=
  { home := d, slot := 0, lo := 0, n := recN l.words, level := recPrio l.words, stolen := none, objs := l.co.getD [], answer := l.answer d 0, was := none, turn := 0 }
def sPlace : State := hubbed 7 (hub1 (launchOf 1 0) [pendOf 7 (launchOf 1 0)]) []

theorem admit_spans (die : Nat) : sAdmit.spans (pendOf 7 { launchOf 20 1 with ready := false, dom := 5 }) die [] = [] := by
  have h : find (sAdmit.hub 7).slots 0 = some { launchOf 20 1 with ready := false, dom := 5 } := rfl
  simp only [State.spans, pendOf, h, Option.elim]; rw [if_pos]; decide +kernel

theorem wit_LaunchEvents_cycle : (sAdmit.hub 7).dead = false ∧ sAdmit.live = true ∧ (sAdmit.hub 7).queue = [] ∧ sAdmit.groupsOf 7 = [] ∧
    recN (launchOf 20 1).words ≠ 0 ∧ (∀ die, sAdmit.spans (pendOf 7 { launchOf 20 1 with ready := false, dom := 5 }) die [] = []) ∧
    (sAdmit.cluster 0).quarter 0 &&& recWord (launchOf 20 1).words 4 = recWord (launchOf 20 1).words 4 ∧ (hubbed 3 { Hub.init with dead := true } []).live = true ∧
    (hubbed 7 (hub1 { launchOf 20 1 with ready := false } []) []).groupsOf 7 = [] ∧ sPlace.groupsOf 7 = [] ∧ recN (launchOf 1 0).words = 1 ∧
    recAmode (launchOf 1 0).words = 0 ∧ (launchOf 1 0).co = none ∧ sPlace.spans (pendOf 7 (launchOf 1 0)) 7 [] ≠ [] ∧ sPlace.outranked 0 7 = false ∧
    sPlace.image 0 (launchOf 1 0).words = .ok [] :=
  ⟨rfl, rfl, rfl, by decide +kernel, by decide, admit_spans, by decide +kernel, rfl, by decide +kernel, by decide +kernel, by decide, by decide, rfl,
    by decide +kernel, by decide +kernel, ok_of (by decide +kernel)⟩

theorem wit_LaunchEvents_slots : (hubbed 0 (hub1 (launchOf 1 0) []) [.retired 0 0 0 none]).takeMsg = some (.retired 0 0 0 none, hubbed 0 (hub1 (launchOf 1 0) []) []) ∧
    find (hub1 (launchOf 1 0) []).slots 0 = some (launchOf 1 0) ∧ (launchOf 1 0).failed = none ∧
    recN { launchOf 1 0 with retired := 1 }.words ≤ { launchOf 1 0 with retired := 1 }.retired ∧ (s0.cluster 0).waits = [] ∧
    recField (rec1 1 0) 3 51 50 < 4 ∧ { launchOf 1 0 with failed := some .saveLost }.told = false := ⟨rfl, rfl, rfl, by decide, rfl, by decide, rfl⟩

theorem wit_LaunchEvents_reserve : ∃ h : Hub, h.queue.find? (fun q => q.level == 0) = some pend1 ∧ 64 ≤ h.passedOf 0 ∧ h.reserve = [] ∧
    0 ∈ (hubbed 0 h []).dies 0 pend1 ∧ recGroups ((hubbed 0 h []).pendWords pend1) + 7 ≤ 8 ∧ (hubbed 0 h []).coreFenced (0 * 256 + 31 * 8 + 7 + 0) = false :=
  ⟨{ hub1 (launchOf 1 0) [pend1] with passed := [{ level := 0, head := pend1.head, count := 64 }] }, rfl, by decide, rfl, by decide +kernel, by decide +kernel, by decide +kernel⟩

/-- Gang 0 changed, with a launch in its slot, another pending, and core 0 the only one that is not fenced. -/
def ganged (f : Gang → Gang) (dom : Domain) (cy q : Nat) : State :=
  { sWaits with gangs := sWaits.gangs.map fun e => (e.1, f e.2), domains := vset sWaits.domains 0 dom, cycle := cy, quantum := q }
def gang0 (s : State) : Gang := (find s.gangs 0).getD Gang.init
def dom1 : Domain := { s0.domain 0 with areas := [0x20010000] }
def susp1 (n : Nat) (stopped : Bool) : Susp := { why := 1, agreed := n, stride := 0, objs := [], byWho := none, claim := none, stopped := stopped, saved := [] }

theorem wit_GangEvents : ∃ as, find (ganged id dom1 0 0).gangs 0 = some (gang0 (ganged id dom1 0 0)) ∧ (gang0 (ganged id dom1 0 0)).placed + 0 ≤ (ganged id dom1 0 0).gtick ∧
    (ganged id dom1 0 0).topLevel 0 0 = true ∧ (gang0 (ganged id dom1 0 0)).prio = 0 ∧ ((ganged id dom1 0 0).waiter 0 true fun q => q.level == 0) = some pend1 ∧
    (gang0 (ganged id dom1 0 0)).susp = none ∧ (ganged id dom1 0 0).gangHalted (gang0 (ganged id dom1 0 0)) = false ∧
    (ganged id dom1 0 0).areasFor (gang0 (ganged id dom1 0 0)) 0 = some as ∧ (gang0 s0).cores.head?.map dieOf = some 0 ∧
    s0.gtick < (gang0 s0).placed + s0.quantum :=
  ⟨_, rfl, by decide +kernel, by decide +kernel, by decide +kernel, by decide +kernel, rfl, by decide +kernel, rfl, rfl, by decide +kernel⟩

theorem wit_GangEvents_watchdog : { s0 with watchdog := 0 }.group 0 = some (grp s0) ∧ { s0 with watchdog := 0 }.dogDue (grp s0) = true ∧
    (grp s0).threads[0]? = some (thr s0) ∧ (thr s0).status = .running := ⟨rfl, by decide +kernel, rfl, rfl⟩

/-- The gang of the plain state is being suspended. -/
def suspd (u : Susp) : State := { s0 with gangs := s0.gangs.map fun e => (e.1, { e.2 with susp := some u }) }

theorem wit_GangEvents_agreed : find (suspd (susp1 0 false)).gangs 0 = some (gang0 (suspd (susp1 0 false))) ∧
    (gang0 (suspd (susp1 0 false))).susp = some (susp1 0 false) ∧ (susp1 0 false).agreed ≤ s0.gtick ∧
    (suspd (susp1 0 false)).quiet 0 (gang0 (suspd (susp1 0 false))) = true ∧ s0.gtick < (susp1 99 false).agreed :=
  ⟨rfl, rfl, by decide +kernel, by decide +kernel, by decide +kernel⟩

theorem wit_GangEvents_save : find (suspd { susp1 0 true with why := 0 }).gangs 0 = some (gang0 (suspd { susp1 0 true with why := 0 })) ∧
    (gang0 (suspd { susp1 0 true with why := 0 })).cores = [0] ∧ (suspd { susp1 0 true with why := 0 }).saveReady 0 0 = true ∧
    ((suspd { susp1 0 true with why := 0 }).setCore 0 { s0.core 0 with jrnl := [jent1] }).saveReady 0 0 = false :=
  ⟨rfl, rfl, by decide +kernel, by decide +kernel⟩

theorem wit_GangEvents_maquette : ∃ l, find (sWaits.hub (gang0 sWaits).home).slots (gang0 sWaits).slot = some l ∧ l.claimed = false ∧
    { l with claimed := true }.nextMq ≤ sWaits.gtick ∧ 
    ∀ e ∈ sWaits.gangsOf (gang0 sWaits).home (gang0 sWaits).slot, sWaits.quiet e.1 e.2 = true ∧ ∀ c ∈ sWaits.coresOf e.1 e.2, sWaits.saveReady e.1 c = true :=
  ⟨_, rfl, rfl, by decide +kernel, by decide +kernel⟩

def pend20 : Pend := { pend1 with n := 20 }
def loan1 (dl : Nat) : Loan := { thief := 7, inc := 3, dl := dl, range := pend20, acked := false }
/-- Hub 7 of incarnation 3, hub 0 with a launch of 20 gangs. -/
def steals (v t : Hub) (m : Msg) : State := { (s0.setHub 0 { v with slots := [(0, launchOf 20 0)] }).setHub 7 { t with inc := 3 } with net := [m] }
def offer1 : Offer := { victim := 0, range := pend20 }

theorem wit_StealEvents : ∀ m ∈ [Msg.stealReq 7 3 0, .stealOffer 0 0 7 3 pend20 9, .stealAck 7 3 0 pend20, .stealNak 7 3 0 pend20, .stealConfirm 0 0 7 3 pend20,
      .stealLate 0 0 7 3 pend20, .stealPlaced 7 0 0 0 19, .incarnation 7 3 0],
    (steals { Hub.init with queue := [pend20] } { Hub.init with offers := [offer1] } m).takeMsg =
      some (m, { steals { Hub.init with queue := [pend20] } { Hub.init with offers := [offer1] } m with net := [] }) := by decide +kernel

theorem wit_StealEvents_range : (steals { Hub.init with queue := [pend20] } Hub.init (.stealReq 7 3 0)).lendable 0 = some pend20 ∧
    (steals Hub.init Hub.init (.stealReq 7 3 0)).lendable 0 = none ∧
    (steals Hub.init Hub.init (.stealOffer 0 0 7 3 pend20 9)).spans { pend20 with stolen := some 0 } 7 [] ≠ [] ∧
    (hubbed 0 Hub.init []).spans { pend20 with stolen := some 0 } 7 [] = [] ∧
    (loan1 0).dl < { s0 with cycle := 10 }.gtick ∧ s0.gtick ≤ (loan1 9).dl ∧ pend20.lo ≤ 19 ∧ 19 < pend20.lo + pend20.n ∧
    (∀ x ∈ ([] : List Msg), Msg.fromHub 7 0 x = false) :=
  ⟨by decide +kernel, by decide +kernel, by decide +kernel, by decide +kernel, by decide +kernel, by decide +kernel, by decide, by decide, by simp⟩

/-- Hub 5 lent the gang of the plain state, which hub 0 has placed. -/
def sPlaced : State := { sWaits with gangs := sWaits.gangs.map fun e => (e.1, { e.2 with stolen := some 5 }) }

theorem wit_StealEvents_placed : (∃ e ∈ sPlaced.gangs, e.2.stolen = some 5 ∧ e.2.cores.head?.map dieOf = some 0 ∧
    (find (sPlaced.hub e.2.home).slots e.2.slot).map (fun l => l.failed) = some none) := by decide +kernel

/-- A job of core 0: a FILL of 96 bytes at 64, or a REDUCE contribution of 8 bytes at 64 combined into 128. -/
def job1 (card : List W64) (jst : JobSt) (wid : W64) : Job :=
  { cluster := 0, kind := 0, origin := 0, dom := 0, kernel := false, who := me0, gang := (grp s0).gang, wid := wid, card := card, st := jst, recorded := false, cond := 0 }
def fill1 (reply : W64) : List W64 := [2, 0, reply, 5, 0, 0, 0, 0, 0, 0, 0, 0, 64, 96, 0, 0]
def red1 : List W64 := [0x20, 0, 0, 0, 0x202, 0, 64, 8, 0, 0, 0, 0, 128, 8, 0, 0]
def jobbed (js : List (Nat × Job)) (net : List Msg) : State := { s0 with jobs := js, net := net }

theorem near_job (card : List W64) (st : JobSt) (js : List (Nat × Job)) (off n : Nat)
    (h : decide (off + n ≤ (grp s0).alloc ∧ off + n ≤ 0x180000) && (List.range (off + n)).all (fun w => (grp s0).entry .egw w == 0) = true) :
    EngineNear (jobbed js []) (job1 card st 0) (grp s0) off n := by
  simp only [Bool.and_eq_true, decide_eq_true_eq, List.all_eq_true, List.mem_range, beq_iff_eq] at h
  exact ⟨rfl, rfl, rfl, rfl, ⟨rfl, rfl⟩, h.1.1, h.1.2, rfl, fun _ h => absurd h (by simp [show (grp s0).past = [] from rfl]), fun w _ hw => h.2 w (by omega)⟩

theorem wit_JobEvents : (jobbed [] [.card 1 (job1 (fill1 0) .inbox 0)]).takeMsg = some (.card 1 (job1 (fill1 0) .inbox 0), s0) ∧ s0.jobs = [] ∧
    (s0.cluster 0).fenced = false ∧ (jobbed [(1, job1 (fill1 0) .inbox 0)] []).startable 1 (job1 (fill1 0) .inbox 0) = true ∧
    (jobbed [(1, job1 (fill1 0) (.reply 0) 0)] []).startable 1 (job1 (fill1 0) (.reply 0) 0) = false ∧
    (jobbed [(1, job1 red1 .inbox 0)] []).startable 1 (job1 red1 .inbox 0) = true ∧ (cardArg red1 1).toNat % 128 ≠ 1 ∧
    (cardRegion (fill1 0) 3) = (64, 96) ∧ (cardWord (fill1 1) 2).toNat % 4 = 1 ∧ (cardWord (fill1 0) 2).toNat % 4 ≠ 1 ∧
    (∀ st ∈ [JobSt.ended 0 96 false, .ended 4 0 true], (jobbed [(1, job1 (fill1 1) st 0)] []).jobGroup (job1 (fill1 1) st 0) = some (grp s0) ∧
      (jobbed [(1, job1 (fill1 1) st 0)] []).jobPaused (job1 (fill1 1) st 0) = false) ∧
    ((grp s0).queue 0).length < 8 ∧ (thr s0).status = .running :=
  ⟨rfl, rfl, rfl, by decide +kernel, by decide +kernel, by decide +kernel, by decide, by decide, by decide, by decide, by decide +kernel, by decide, rfl⟩

/-- A job whose reply is on its way to queue register 7 or 0. -/
def replied (q : W64) : Job := job1 (fill1 (4 * q + 1)) (.reply 7) 0

theorem wit_JobEvents_reply : (∀ j ∈ [replied 0, replied 7, { replied 0 with gang := 9 }], (jobbed [(1, j)] [.reply 1]).takeMsg = some (.reply 1, jobbed [(1, j)] [])) ∧
    (jobbed [(1, replied 0)] []).jobGroup { replied 0 with gang := 9 } = none ∧ (jobbed [(1, replied 0)] []).jobGroup (replied 0) = some (grp s0) ∧
    (jobbed [(1, replied 0)] []).arrive 0 = .take ∧ ((grp s0).queue 0).length < 8 ∧ ({ jobbed [] [] with cores := sQueue.cores }).jobGroup (replied 7) = some (grp sQueue) ∧
    8 ≤ ((grp sQueue).queue 7).length ∧ (suspd (susp1 0 true)).arrive 0 = .hold 0 0 :=
  ⟨by decide +kernel, by decide +kernel, by decide +kernel, by decide +kernel, by decide, by decide +kernel, by decide, by decide +kernel⟩

theorem wit_JobEvents_fill (js : List (Nat × Job)) : EngineNear (jobbed js []) (job1 (fill1 0) (.running 64 []) 0) (grp s0) (64 + 64) 32 :=
  near_job _ _ _ _ _ (by decide +kernel)

theorem wit_JobEvents_reduce (js : List (Nat × Job)) : EngineNear (jobbed js []) (job1 red1 (.held 1 (List.replicate 8 1) 0) 0) (grp s0) 128 8 ∧
    cardBar red1 = 0 ∧ (cardRegion red1 0).2 = 8 ∧ (cardRegion red1 3).1 % 64 + 8 ≤ 64 ∧
    (reduceAll ((cardArg red1 1).toNat / 2 ^ 8 % 16) ((cardArg red1 1).toNat / 2 ^ 12 % 4) [List.replicate 8 1, List.replicate 8 2]).1.length = 8 :=
  ⟨near_job _ _ _ _ _ (by decide +kernel), rfl, by decide, by decide, by decide +kernel⟩

/-! ## Events: the controller, the host port, links and rings -/

/-- A state with the mailbox's argument registers set. -/
def marged (s : State) (a b c d : W64) : State := { s with mgmt := { s.mgmt with margs := #v[a, b, c, d] } }
def img1 (v : Bool) : Image :=
  { valid := v, cfg := { domains := [], owners := [], rings := [], localMap := false, quantum := 270000, watchdog := 2 ^ 30, threshold := 1, powerCap := 6400, version := 1 } }
def rec4 : Rec4 := { w0 := 1, w1 := 2, w2 := 3, w3 := 4 }

theorem wit_ControllerCommands : s0.mgmt.busy = false ∧ s0.mgmt.state = 3 ∧ State.reset.mgmt.busy = false ∧ State.reset.mgmt.state ≠ 3 ∧ s0.mgmt.log = [] ∧
    { s0.mgmt with log := [rec4] }.log = [rec4] ∧ (img1 true).valid = true ∧ (img1 false).valid = false ∧
    { s0.mgmt with staged := some (img1 true) }.staged = some (img1 true) ∧ s0.mgmt.staged = none ∧ (marged s0 1 2047 0 0).marg 0 = 1 ∧
    ((marged s0 1 2047 0 0).marg 1).toNat < 2048 ∧ (s0.core 2047).fenced = false ∧ (marged s0 3 31 0 0).marg 0 = 3 ∧ ((marged s0 3 31 0 0).marg 1).toNat < 32 ∧
    (marged s0 5 6400 0 0).marg 0 = 5 ∧ ((marged s0 5 6400 0 0).marg 1).toNat = 6400 ∧ ((marged s0 5 6401 0 0).marg 1).toNat = 6401 ∧
    ((marged s0 7 0xFFFF 0 0).marg 1).toNat < 2 ^ 16 ∧ 8 ≤ ((marged s0 8 0 0 0).marg 0).toNat ∧ ((marged s0 4 0 0 0).marg 0).toNat < 5 ∧
    5 ≤ ((marged s0 5 0 0 0).marg 0).toNat ∧ ((marged s0 0 (w64 (4096 * 2 ^ 32)) 0 0).marg 1).toNat / 2 ^ 32 = 4096 ∧
    ((marged s0 0 (w64 (4095 * 2 ^ 32)) 0 0).marg 1).toNat / 2 ^ 32 = 4095 ∧ s0.trace.en = false ∧ sCtr.trace.en = true ∧ sCtr.mgmt.state = 3 :=
  ⟨rfl, rfl, rfl, by decide, rfl, rfl, rfl, rfl, rfl, rfl, rfl, by decide⟩

/-- The plain state with its launch in a slot and claimed, its group halted or not. -/
def claims (c halted : Bool) : State :=
  let g := grp s0
  { s0.setHub 0 (hub1 { launchOf 1 0 with claimed := c } []) with cores := (s0.setGroup 0 { g with halted := halted }).cores }

theorem wit_DebugCommands : ∃ v l, (marged (claims true false) v 10 0 0).launchOf ((marged (claims true false) v 10 0 0).marg 0) = some (0, 0, l) ∧ l.claimed = true ∧
    { l with claimed := false }.claimed = false ∧ (claims false false).launchOf 7 = none ∧ (claims true true).claimed 0 = true ∧ (claims false true).claimed 0 = false ∧
    (∃ g, (claims true true).group 0 = some g ∧ g.halted = true ∧ g.threads.length = 4 ∧ g.threads[3]?.isSome = true ∧ 65528 < g.alloc) ∧
    (∃ g, (claims true false).group 0 = some g ∧ g.halted = false) ∧ (claims true true).selB ≠ 1 ∧ (claims true true).mgmt.busy = false ∧ (claims true true).mgmt.state = 3 :=
  ⟨w64 (2 ^ 32), { launchOf 1 0 with claimed := true }, by decide +kernel, rfl, rfl, by decide +kernel, by decide +kernel, by decide +kernel,
    ⟨_, rfl, rfl, by decide +kernel, by decide +kernel, by decide +kernel⟩, ⟨_, rfl, rfl⟩, by decide, rfl, rfl⟩

theorem wit_DebugCommands_args : (2047 + 3 * 2 ^ 11 + 1 * 2 ^ 16 : Nat) < 2 ^ 64 ∧ ((31 : W64)).toNat = (31 : Reg).toNat ∧ (65528 : Nat) % 8 = 0 ∧ (65529 : Nat) % 8 ≠ 0 ∧
    s0.gtick + 64 ≤ 1000000 ∧ (0 : Nat) < s0.gtick + 64 ∧ { s0.mgmt with debugQ := [rec4] }.debugQ = [rec4] ∧ s0.mgmt.debugQ = [] ∧ (s0.slice 63).table.length ≤ 0 ∧
    (∃ e, ((regd load1 true).slice ((regd load1 true).homeOf 0x20000100)).table[0]? = some e ∧ e.word < 2 ^ 49 ∧ e.owner < 2 ^ 16) ∧
    (regd load1 true).homeOf 0x20000100 < 64 := by
  refine ⟨by decide, by decide, by decide, by decide, by decide +kernel, by decide +kernel, rfl, rfl, by decide +kernel, ⟨_, rfl, by decide, by decide⟩, by decide +kernel⟩

/-- A maquette of the claimed launch with a point that the plain thread reached after 3 instructions. -/
def backs (pts : List Point) : State :=
  let s := claims true true
  let s := s.setAgent me0 { thr s with retired := 5 }
  { s with maquettes := [{ die := 0, slot := 0, groups := [(0, grp s)], jrnls := [], objs := [], points := pts }] }

theorem wit_DebugCommands_reverse : ∃ (g : Group) (gang : Gang) (th : Thread), (backs []).group 0 = some g ∧ (backs []).claimed 0 = true ∧ g.halted = true ∧
    find (backs []).gangs g.gang = some gang ∧ g.threads[0]? = some th ∧ th.retired = 5 ∧
    (({ who := me0, count := 3, groups := [(0, g)], jrnls := [], redo := [] } : Point).redo = []) ∧ 2 ≤ th.retired ∧
    (reachIn gang.home gang.slot me0 (th.retired - 2) (backs [{ who := me0, count := 3, groups := [(0, g)], jrnls := [], redo := [] }]).maquettes).isSome = true ∧
    reachIn gang.home gang.slot me0 (th.retired - 2) [] = none :=
  ⟨_, _, _, rfl, by decide +kernel, rfl, rfl, rfl, rfl, rfl, by decide, by decide +kernel, rfl⟩

theorem wit_ControllerCommands_map : (marged s0 2 1 0 0).mapUsed = false ∧ ((marged s0 2 1 0 0).marg 1).toNat ≤ 1 ∧ 2 ≤ ((marged s0 2 2 0 0).marg 1).toNat ∧
    (marged s0 2 1 0 0).marg 0 = 2 ∧ (marged s0 2 1 0 0).mgmt.fencedStacks = [] ∧ { marged s0 2 1 0 0 with net := [load1] }.mapUsed = true :=
  ⟨rfl, by decide, by decide, rfl, rfl, rfl⟩

theorem wit_ModuleReset : State.reset.mgmt.image = none ∧ { s0.mgmt with image := some (img1 true) }.image = some (img1 true) ∧
    { s0.mgmt with image := some (img1 false) }.image = some (img1 false) ∧ (img1 true).cfg.threshold = 1 ∧ s0.mgmt.busy = false ∧
    { s0.mgmt with busy := true, mcmd := 0x0011, staged := some (img1 true) }.mcmd = 0x0011 ∧ { s0.mgmt with staged := some (img1 true) }.staged ≠ none ∧
    (0x2000 : Nat) ≤ 0x2001 ∧ (0x1FFF : Nat) < 0x2000 ∧ s0.mgmt.failedStacks = [] ∧ { s0.mgmt with failedStacks := [31] }.failedStacks = [31] :=
  ⟨rfl, rfl, rfl, rfl, rfl, rfl, by simp, by decide, by decide, rfl, rfl⟩

/-- The host port holds line 4 in M. -/
def cxl1 (st : Mesi) : CxlLine := { st := st, data := [] }
/-- A module whose host port runs CXL, and line 0x20000100 / 64 of HBM is held by the host. -/
def cxlOn (hdm : List HdmLine) : State := { s0 with host := { s0.host with trained := true, cxl := true, hdm := hdm } }
def hdm1 (data : Option Memory) : HdmLine := { line := 0x20000100 / 64, excl := true, data := data }

theorem wit_HostPortEvents_lines : linkRate 128 = true ∧ linkRate 2 = true ∧ linkWidth 16 = true ∧ linkWidth 1 = true ∧ linkRate 129 = false ∧ linkWidth 3 = false ∧
    (cxlOn []).live = true ∧ (cxlOn []).host.cxl = true ∧ (cxlOn []).host.hdm = [] ∧ (0x20000138 + 8 - 1) / 64 = (0x20000138 : Nat) / 64 ∧
    (cxlOn []).isHbm (0x20000138 / 64 * 64) = true ∧ (∀ k, k < 8 → (cxlOn []).regEnt (0x20000138 / 64 * 64 + 8 * k) = none) ∧
    (cxlOn [hdm1 none]).hdmLine 0x20000138 = some (hdm1 none) ∧ (hdm1 none).excl = true ∧ (0x20000138 % 64 + 8 : Nat) ≤ 64 ∧
    (cxlOn [hdm1 (some [(0, 7)])]).hdmLine 0x20000138 = some (hdm1 (some [(0, 7)])) ∧ (hdm1 (some [(0, 7)])).data = some [(0, 7)] :=
  ⟨by decide, by decide, by decide, by decide, by decide, by decide, rfl, rfl, rfl, by decide, by decide +kernel, by decide +kernel, rfl, rfl, by decide, rfl, rfl⟩

def lined (st : Mesi) : State := { s0 with host := { s0.host with lines := [(4, cxl1 st)] } }

theorem wit_HostPortEvents : s0.host.hdm = [] ∧ (s0.bell 15).busy = false ∧ s0.mgmt.busy = false ∧ { s0.mgmt with busy := true }.busy = true ∧ s0.live = true ∧ State.reset.live = false ∧
    (2 ^ 21 - 4) % 4 = 0 ∧ 2 ^ 21 - 4 < 2 ^ 21 ∧ (¬ ((2 : Nat) = 4 ∨ (2 : Nat) = 8)) ∧ (0x20000100 + 8 : Nat) ≤ hbmEnd ∧
    (∀ k, k < 8 → s0.isHbm (0x20000100 + k) = true ∧ s0.regEnt (0x20000100 + k) = none ∧ s0.stackFails (0x20000100 + k) = false) ∧ find (lined .m).host.lines 4 = some (cxl1 .m) ∧
    find (lined .s).host.lines 4 = some (cxl1 .s) ∧ find s0.host.lines 4 = none ∧ ((s0.objRead [] 0 true 0x20000040 8).toOption).isSome = true ∧
    regionOf 0x20000040 = .global ∧ { s0.bell 0 with addr := 0x20000040 }.addr.toNat % 64 = 0 :=
  ⟨rfl, rfl, rfl, rfl, rfl, rfl, by decide, by decide, by decide, by decide, by decide +kernel, rfl, rfl, rfl, by decide +kernel, by decide, by decide⟩

theorem wit_ModuleEvents_errors : arrayOk 0x20F7 = true ∧ arrayOk 0x20F8 = false ∧ (thr s0).status ≠ .ended ∧ (thr s0).status ≠ .idle ∧
    find (jobbed [(1, job1 (fill1 0) (.running 64 []) 0)] []).jobs 1 = some (job1 (fill1 0) (.running 64 []) 0) ∧
    ((sSess seFull).ring 11).sess = some seFull ∧ seFull.broken = none := ⟨by decide, by decide, by decide, by decide, rfl, rfl, rfl⟩

theorem wit_ModuleEvents : s0.group 0 = some (grp s0) ∧ s0.agent me0 = some (thr s0) ∧ (thr s0).status = .running ∧ (s0.core 2047).gated = false ∧ s0.mgmt.state = 3 ∧
    s0.trace.en = false ∧ { sCtr.trace with period := 4096 }.period ≠ 0 ∧ 8192 % { sCtr.trace with period := 4096 }.period.toNat = 0 ∧
    { s0 with stopAt := some 0 }.stopAt = some 0 ∧ 0 ≤ s0.gtick ∧ s0.stopped = false ∧ s0.stopAt = none :=
  ⟨rfl, rfl, rfl, rfl, rfl, rfl, by decide, by decide, rfl, by decide, rfl, rfl⟩

/-- A mark of tick 5 waits to enter an empty buffer of 4 KiB of HBM. -/
def rec5 : TraceRec := { tick := 5, core := 0, t := 0, bytes := List.replicate 40 7 }
def sMark : State := { s0 with trace := { sCtr.trace with en := true, period := 4096, full := false, base := 0x20000000, units := 1, head := 8, recs := [rec5] } }

theorem wit_ModuleEvents_buffer : sMark.trace.en = true ∧ sMark.trace.period ≠ 0 ∧ 8192 % sMark.trace.period.toNat = 0 ∧ sMark.trace.recs = [rec5] ∧
    rec5.tick < 8192 ∧ rec5.bytes.length % 8 = 0 ∧ sMark.trace.full = false ∧ sMark.host.hdm = [] ∧
    sMark.trace.head.toNat + rec5.bytes.length ≤ sMark.trace.units.toNat * 4096 ∧
    (∀ k, k < rec5.bytes.length → sMark.isHbm (sMark.trace.base.toNat + sMark.trace.head.toNat + k) = true) :=
  ⟨rfl, by decide, by decide, rfl, by decide, by decide, rfl, rfl, by decide, by decide +kernel⟩

/-- A flit with its CRC, of sequence number 0. -/
def fl (typ slot : Nat) (epoch : BitVec 16) (payload : List W64) : Flit :=
  { mkFlit typ slot epoch 0 payload with crc := crc64 (flitBytes (mkFlit typ slot epoch 0 payload).hdr (mkFlit typ slot epoch 0 payload).payload) }

theorem wit_PortEvents : (sRot.port 5).up = true ∧ (s0.port 5).up = false ∧ (s0.port 5).fenced = false ∧ s0.live = true ∧ (sRot.port 5).fails < 15 ∧
    15 ≤ { sRot.port 5 with fails := 15 }.fails ∧ (sRot.port 5).retry.length < 256 ∧ (sRot.port 5).queue = [] ∧
    (sRot.port 5).expects { fl 7 0 0 [] with crc := 1 } = false ∧ flitIntact { fl 7 0 0 [] with crc := 1 } = false ∧
    (sRot.port 5).expects (fl 7 0 0 []) = true ∧ flitType (fl 7 0 0 []) = 7 :=
  ⟨rfl, rfl, rfl, rfl, by decide, by decide, by decide, rfl, by decide +kernel, by decide +kernel, by decide +kernel, by decide⟩

/-- An open session with upstream slot 0 free and granted, and one whose slot 1 was consumed. -/
def seFree : Session := sessOf 1 (List.replicate 4 (slotOf .free 0 true)) none
def seCons : Session := sessOf 1 (slotOf .free 0 true :: slotOf .consumed 0 false :: List.replicate 2 (slotOf .free 0 true)) none

theorem wit_RingEvents : ((sSess seFree).ring 11).sess = some seFree ∧ seFree.broken = none ∧
    (∃ p, p < 24 ∧ (sSess seFree).ringOf p = some (11, true) ∧ ((sSess seFree).port p).up = true ∧
      (∀ f ∈ [fl 2 0 5 [1], fl 5 0 9 [77], fl 6 0 5 []], ((sSess seFree).port p).expects f = true)) ∧
    (∃ p, p < 24 ∧ (sSess seFree).ringOf p = some (11, false) ∧ ((sSess seFree).port p).up = true ∧
      (∀ f ∈ [fl 3 2 6 [], fl 4 3 6 []], ((sSess seFree).port p).expects f = true ∧ seFree.dnEpoch = some (flitEpoch f))) ∧
    ((sSess seFree).ring 11).heldUp = [] ∧ ((sSess seFree).ring 11).heldDn = [] ∧ seFree.upEpoch = some (flitEpoch (fl 2 0 5 [1])) ∧
    (seFree.slot 0).st = .free ∧ (seFree.slot 0).granted = true ∧ 0 * 112 + min 112 (seFree.bytes - 0) < seFree.bytes ∧ (fl 2 0 5 [1]).payload.length = 14 ∧
    { seFree with sending := some (1, 3) }.sending = some (1, flitSlot (fl 4 3 6 [])) ∧ seCons.toForward = some 1 ∧ seCons.grants = [3] ∧ seCons.sending = none ∧
    seFree.toForward = none ∧ seFree.put = none ∧ (fl 5 0 9 [77]).payload.head? = some (seFree.word.setWidth 64) ∧
    (fl 5 0 9 [76]).payload.head? ≠ some (seFree.word.setWidth 64) ∧ (fl 5 0 9 [76]).payload ≠ [] :=
  ⟨rfl, rfl, ⟨5, by decide, by decide +kernel, rfl, by decide +kernel⟩, ⟨6, by decide, by decide +kernel, rfl, by decide +kernel⟩, rfl, rfl, by decide, rfl, rfl,
    by decide, by decide, by decide, by decide, rfl, rfl, by decide, rfl, by decide, by decide, by decide⟩

/-- The plain thread's take waits in a session. -/
def seTake : Session := { seFree with takes := [(me0, 1)] }
def sTake : State := (sSess seTake).setAgent me0 { thr (sSess seTake) with prog := { Prog.idle with seq := 1 } }
theorem wit_RingEvents_take : (sTake.ring 11).sess = some seTake ∧ seTake.broken = none ∧ seTake.takes = [(me0, 1)] ∧
    sTake.agent me0 = some (thr sTake) ∧ (thr sTake).prog.seq = 1 ∧ (thr sTake).prog.reply = none := ⟨rfl, rfl, rfl, rfl, rfl, rfl⟩

theorem wit_RingEvents_write : ((sSess seFree).bufWrite seFree 0 (List.replicate 112 0)).toOption.isSome = true ∧
    ((sSess seFree).bufRead seCons 4096 8).toOption.isSome = true := ⟨by decide +kernel, by decide +kernel⟩

theorem wit_StepKeepsMemWf : sFetch.MemWf ∧ (match step sFetch with | .next _ => true | _ => false) = true :=
  ⟨⟨by decide +kernel, by decide +kernel⟩, by decide +kernel⟩

/-- A block of no bytes keeps the copy small. -/
def put1 : Put := { who := me0, gang := (grp s0).gang, kernel := false, src := 0x20002000 }
def sePut : Session := { seFree with bk := 0, put := some put1 }
theorem wit_RingEvents_put : sePut.put = some put1 ∧ 0 < sePut.slots.length ∧
    (match (sSess sePut).copyBlock 11 (put1.job ((sSess sePut).ring 11).die 0) sePut put1.src.toNat 0 (sePut.bytes / 64 + 2) with
    | .ok _ _ => true
    | _ => false) = true := ⟨rfl, by decide, by decide +kernel⟩

/-! A sealed object of one thread: a header in the host window, through an untracked 512 MiB frame, and 34,944 bytes of zeros. -/

/-- Its header (20 Table 1): the sections of the group, of the scratchpad, of the events and of the ring buffers, none of the others. -/
def mSeal : Memory :=
  [(0, 8, 0x15956434F), (8, 8, 0x100000001), (0x10, 8, 0x100000000), (0x28, 8, 35200), (0x60, 8, 0x100 + 896 * 2 ^ 32), (0x70, 8, 0x480 + 64 * 2 ^ 32),
    (0x80, 8, 0x4C0 + 576 * 2 ^ 32), (0x88, 8, 0x700 + 33408 * 2 ^ 32)].foldl (fun m e => writeN m e.1 e.2.1 e.2.2) []

/-- The state in which `x1` names it; the host window's bytes are `m`. -/
def sSeal (m : Memory) : State :=
  let s := st (xs [0x40000000]) id
  { s with mem := writeN s.mem 0x20010 8 (2 + 0x780 + 2 ^ 51 + 2 ^ 54), hostMem := m, domains := s.domains.set 0 { s.domain 0 with sealRight := true } }

/-- The page of the object. -/
def lSeal : Leaf := { page := 2 ^ 35, size := 29, trk := false, cow := false, shr := false, dtag := 0, x := true, w := true, r := true, u := true }

theorem bitsOf_page (v hi lo : Nat) (h : 16 ≤ lo) : bitsOf v hi lo = bitsOf (v / 65536 * 65536) hi lo := by
  obtain ⟨k, rfl⟩ := Nat.exists_eq_add_of_le h
  simp only [bitsOf, Nat.pow_add, ← Nat.div_div_eq_div_mul]
  rw [show v / 65536 * 65536 / 2 ^ 16 = v / 2 ^ 16 by omega]

theorem walk_page (s : State) (d v : Nat) : s.walk [] d v = s.walk [] d (v / 65536 * 65536) := by
  simp only [State.walk, cached, List.find?_nil, Option.map_none, State.walk1, State.walk2, State.walk3, bitsOf_page v 54 42 (by decide), bitsOf_page v 41 29 (by decide),
    bitsOf_page v 28 16 (by decide), State.leafAt, leafOf, framePage, show v / 65536 * 65536 / 2 ^ 16 = v / 2 ^ 16 by omega]

/-- The entry of the level-2 table for the frame. -/
def eSeal : Nat := 2 + 0x780 + 2 ^ 51 + 2 ^ 54

theorem pte_seal (m : Memory) : (sSeal m).readPte 0x10000 = some 0x20001 ∧ (sSeal m).readPte 0x20010 = some eSeal := by
  have h (pa : Nat) (x : (sSeal []).isHbm pa = true) : (sSeal m).readPte pa = (sSeal []).readPte pa := by
    simp only [State.readPte, show (sSeal m).isHbm pa = (sSeal []).isHbm pa from rfl, x, if_true]; rfl
  rw [h _ (by decide +kernel), h _ (by decide +kernel)]
  exact ⟨by decide +kernel, by decide +kernel⟩

theorem walk_seal (m : Memory) : (sSeal m).walk [] 0 0x40000000 = some lSeal := by
  obtain ⟨h1, h2⟩ := pte_seal m
  have hd : (sSeal m).domain 0 = { (s0.domain 0) with sealRight := true } := rfl
  have hv : (s0.domain 0).valid = true ∧ fld (s0.domain 0).root 51 16 * 2 ^ 16 = 0x10000 := by decide +kernel
  have t1 : (sSeal m).tableAt 0x10000 0 = some 0x20000 := by simp only [State.tableAt, h1]; decide
  have t2 : (sSeal m).tableAt 0x20000 2 = none := by simp only [State.tableAt, h2]; decide
  have l2 : (sSeal m).leafAt 2 0x40000000 0x20000 2 = some lSeal := by
    simp only [State.leafAt, h2, show pteType eSeal = 2 by decide, show (!frameOk eSeal) = false by decide, show pteCont eSeal = false by decide,
      Bool.false_eq_true, if_false]
    decide
  simp only [State.walk, cached, List.find?_nil, Option.map_none, State.walk1, hd, hv, Bool.not_true, Bool.false_eq_true, if_false]
  rw [show bitsOf 0x40000000 54 42 = 0 by decide, t1]
  simp only [State.walk2, show bitsOf 0x40000000 41 29 = 2 by decide, t2, l2]

theorem isHost_seal {o : Nat} (h : o < 65536) : isHost (2 ^ 51 + o) = true := by
  rw [isHost, Bool.and_eq_true, decide_eq_true_eq, decide_eq_true_eq, hostBase, hostEnd]; omega

theorem xlate_seal (m : Memory) {va : Nat} (h : va / 65536 = 0x4000) (kernel : Bool) (a : Acc) :
    (sSeal m).xlate [] 0 va kernel a = .ok ⟨2 ^ 51 + va % 65536, false⟩ := by
  have hc : checkLeaf lSeal 0 kernel a = none := by cases kernel <;> cases a <;> rfl
  have hp : lSeal.page * 2 ^ 16 + va % 2 ^ 16 = 2 ^ 51 + va % 65536 := by
    rw [show lSeal.page * 2 ^ 16 = 2 ^ 51 by decide, show (2 : Nat) ^ 16 = 65536 by decide]
  have hw : (sSeal m).walk [] 0 va = some lSeal := by rw [walk_page, h]; exact walk_seal m
  have hb : (sSeal m).badEntry [] 0 va = none := rfl
  simp only [State.xlate, hb, hw, hc, hp, isHost_seal (Nat.mod_lt va (by decide)), Bool.or_true, if_true]
  rfl

/-- Beyond the header the host window reads zero. -/
theorem read_seal {va : Nat} (h : 256 ≤ va % 65536) : (sSeal mSeal).engineRead (2 ^ 51 + va % 65536) 8 = .ok 0 := by
  have hk : ∀ e ∈ mSeal, e.1 < 256 := by decide +kernel
  have hl (m : Memory) (k : Nat) (h : ∀ e ∈ m, e.1 ≠ k) : byteAt m k = 0 := by
    induction m with
    | nil => rfl
    | cons e m ih =>
      simp only [byteAt, look, h e (by simp), if_false]
      exact ih fun x hx => h x (by simp [hx])
  have hb (k : Nat) : (sSeal mSeal).hostByte (va % 65536 + k) = 0 := hl _ _ fun e he => by have := hk e he; omega
  simp only [State.engineRead, isHost_seal (Nat.mod_lt va (by decide)), if_true, State.hostNum, show 2 ^ 51 + va % 65536 - hostBase = va % 65536 by simp [hostBase], hb]
  rfl

theorem zeros_seal (n : Nat) : ∀ va, va / 65536 = 0x4000 → 256 ≤ va % 65536 → va % 65536 + 8 * n ≤ 65536 →
    (sSeal mSeal).objRead [] 0 false va n = .ok (List.replicate (8 * n) 0) := by
  induction n with
  | zero => intros; rfl
  | succ n ih =>
    intro va h1 h2 h3
    have hv : va % 2 ^ 64 = va := by omega
    have hn : (sSeal mSeal).objRead [] 0 false (va + 8) n = .ok (List.replicate (8 * n) 0) := by
      cases n with
      | zero => rfl
      | succ n => exact ih _ (by omega) (by omega) (by omega)
    simp only [State.objRead, hv, xlate_seal mSeal h1, read_seal h2, hn]
    rw [show lil 8 0 = List.replicate 8 0 by decide, List.replicate_append_replicate, show 8 + 8 * n = 8 * (n + 1) by omega]

/-- The header's bytes. -/
def hSeal : List Byte := (List.range 256).map (byteAt mSeal)
/-- The object. -/
def oSeal : List Byte := hSeal ++ List.replicate 34944 0

theorem header_seal : (sSeal mSeal).objRead [] 0 false 0x40000000 32 = .ok hSeal := ok_of (by decide +kernel)

theorem object_seal : (sSeal mSeal).objBytes [] 0 false 0x40000000 = .ok oSeal := by
  have hz := zeros_seal 4368 (0x40000000 + 256) (by decide) (by decide) (by decide)
  simp only [State.objBytes, header_seal, show leAt hSeal 0x28 8 = 35200 by decide +kernel]
  rw [if_neg (by decide), show (35200 - 249) / 8 = 4368 by decide, hz]
  simp only [List.take_replicate]; rfl

theorem take_zeros (m n : Nat) : natOfBytes ((List.replicate m (0 : Byte)).take n) = 0 := by
  rw [List.take_replicate]
  induction min n m with
  | zero => rfl
  | succ k ih => simp only [List.replicate_succ, natOfBytes, ih]; rfl

theorem field_low {off n : Nat} (h : off + n ≤ 256) : leAt oSeal off n = leAt hSeal off n := by
  have hl : hSeal.length = 256 := by simp [hSeal]
  rw [leAt, leAt, oSeal, List.drop_append_of_le_length (by omega), List.take_append_of_le_length (by simp [hl]; omega)]

theorem field_high {off n : Nat} (h : 256 ≤ off) : leAt oSeal off n = 0 := by
  have hl : hSeal.length = 256 := by simp [hSeal]
  rw [leAt, oSeal, List.drop_append, hl, List.drop_eq_nil_of_le (by omega), List.nil_append, List.drop_replicate]
  exact take_zeros _ _

theorem sects_seal : sectsOk oSeal = true := by
  have hs (k : Nat) (h : k ≤ 8) : sect oSeal k = sect hSeal k := by
    simp only [sect]; split <;> rw [field_low (by omega), field_low (by omega)]
  have hl : oSeal.length = 35200 := by rw [oSeal, List.length_append, List.length_replicate, hSeal, List.length_map, List.length_range]
  have hss : (List.range 8).map (fun k => sect oSeal (k + 1)) = (List.range 8).map fun k => sect hSeal (k + 1) :=
    List.map_congr_left fun k hk => hs _ (by have := List.mem_range.1 hk; omega)
  have h1 : sect hSeal 1 = (0x100, 896) := by decide +kernel
  have h3 : sect hSeal 3 = (0x480, 64) := by decide +kernel
  have hc : ctxOffs oSeal 640 0 1 = ctxOffs hSeal 640 0 1 := by
    simp only [ctxOffs, field_low (show 0x40 + 4 * 0 + 4 ≤ 256 by decide), field_low (show 0x50 + 4 * 0 + 4 ≤ 256 by decide), field_high (show 256 ≤ 640 + 9 by decide),
      show leAt hSeal (640 + 9) 1 = 0 by decide +kernel]
  have hm (n k : Nat) : n + leAt oSeal (256 + 0xBA + 16 * k) 1 = n := by rw [field_high (by omega)]; rfl
  have hn : leAt hSeal 0x14 1 = 1 := by decide +kernel
  simp only [sectsOk, hss, hl, hs 1 (by decide), hs 2 (by decide), hs 3 (by decide), hs 4 (by decide), hs 5 (by decide), hs 6 (by decide), hs 7 (by decide), hs 8 (by decide), h1, h3,
    field_low (show 0x14 + 1 ≤ 256 by decide), field_low (show 0x15 + 1 ≤ 256 by decide), field_low (show 0x16 + 1 ≤ 256 by decide), field_low (show 0x28 + 8 ≤ 256 by decide),
    field_low (show 0x38 + 4 ≤ 256 by decide), field_high (show 256 ≤ 0x480 by decide), hn, hm, hc]
  decide +kernel

theorem write_seal (n : Nat) : ∀ (m : Memory) (va : Nat) (bs : List Byte), va / 65536 = 0x4000 → va % 65536 + 8 * n ≤ 65536 →
    ∃ m', (sSeal m).objWrite 0 va bs n = .ok (sSeal m') := by
  induction n with
  | zero => exact fun m _ _ _ _ => ⟨m, rfl⟩
  | succ n ih =>
    intro m va bs h1 h2
    have hp : (sSeal m).objPoke ⟨2 ^ 51 + va % 65536, false⟩ 8 (natOfBytes (bs.take 8)) =
        .ok (sSeal (writeN m (va % 65536) 8 (natOfBytes (bs.take 8)))) := by
      simp only [State.objPoke, isHost_seal (Nat.mod_lt va (by decide)), if_true, show 2 ^ 51 + va % 65536 - hostBase = va % 65536 by simp [hostBase]]
      rfl
    have ht : ∃ m', (sSeal (writeN m (va % 65536) 8 (natOfBytes (bs.take 8)))).objWrite 0 (va + 8) (bs.drop 8) n = .ok (sSeal m') := by
      cases n with
      | zero => exact ⟨_, rfl⟩
      | succ n => exact ih _ _ _ (by omega) (by omega)
    simpa only [State.objWrite, show va % 2 ^ 64 = va by omega, xlate_seal m h1, hp] using ht

theorem wit_ContinuationObjects_seal : ∃ t, let s := sSeal mSeal
    Ready s (thr s) [1] [] ∧ Ready s (thr s) [1, 2] [] ∧ s.group 0 = some (grp s) ∧ find s.gangs (grp s).gang = some kCo ∧ NoneOutstanding s ∧ Unwatched s 0 ∧
    (grp s).dom = 0 ∧ (thr s).kernel = false ∧ s.coreCaches 0 = [] ∧ ((thr s).rx 1).toNat = 0x40000000 ∧ 0x40000000 % 64 = 0 ∧ regionOf 0x40000000 = .global ∧
    s.objRead [] 0 false 0x40000000 32 = .ok (oSeal.take 256) ∧ s.objBytes [] 0 false 0x40000000 = .ok oSeal ∧ 256 ≤ oSeal.length ∧
    leAt oSeal 0 4 = 0x5956434F ∧ leAt oSeal 4 2 = 1 ∧ leAt oSeal 6 2 = 0 ∧ leAt oSeal 8 2 = 1 ∧ leAt oSeal 0x10 1 = 0 ∧ (s.domain 0).sealRight = true ∧
    leAt oSeal 0x0C 4 = 1 ∧ leAt oSeal 0x0A 2 / 4 % 2 = 0 ∧ sectsOk oSeal = true ∧ (s.xlate [] 0 0x40000000 false .both).isOk = true ∧
    (s.xlate [] 0 (0x40000000 + 255) false .both).isOk = true ∧ s.objWrite 0 0x40000000 (s.resealed 0 0x40000000 oSeal) 32 = .ok t := by
  obtain ⟨m, hm⟩ := write_seal 32 mSeal 0x40000000 ((sSeal mSeal).resealed 0 0x40000000 oSeal) (by decide) (by decide)
  have hl : hSeal.length = 256 := by rw [hSeal, List.length_map, List.length_range]
  have ht : oSeal.take 256 = hSeal := by rw [oSeal, List.take_append_of_le_length (by omega), List.take_of_length_le (by omega)]
  have ho : oSeal.length = 256 + 34944 := by rw [oSeal, List.length_append, List.length_replicate, hl]
  refine ⟨_, ready rfl rfl, ready rfl rfl, rfl, rfl, none_out rfl, rfl, rfl, rfl, rfl, rfl, by decide, by decide, ht ▸ header_seal, object_seal, by omega, ?_, ?_, ?_, ?_,
    ?_, rfl, ?_, ?_, sects_seal, ?_, ?_, hm⟩ <;> first | rw [xlate_seal _ (by decide)]; rfl | rw [field_low (by decide)]; decide +kernel

/-! ## Results of a few instructions -/

theorem test_add_wraps : gives (.add .b 5 1 2) (st (xs [0x7F, 1]) id) 5 0xFFFFFFFFFFFFFF80 = true := by decide +kernel
theorem test_sra_sign : gives (.srai .w 5 1 31) (st (xs [0x80000000]) id) 5 0xFFFFFFFFFFFFFFFF = true := by decide +kernel
theorem test_mulhsu : gives (.mulhsu .d 5 1 2) (st (xs [0xFFFFFFFFFFFFFFFF, 2]) id) 5 0xFFFFFFFFFFFFFFFF = true := by decide +kernel
theorem test_x0_discards : gives (.addi .d 0 1 (.i16 1)) s0 0 0 = true := by decide +kernel
theorem test_fadd_f32 : gives (.fadd .f32 .rne 5 1 2) (st (xs [0x3F800000, 0x40000000]) id) 5 0x40400000 = true := by decide +kernel
theorem test_ld_sign : gives (.ld .h .weak .th 0 5 1 (.i16 0)) (sBar 0x8001 0) 5 0xFFFFFFFFFFFF8001 = true := by decide +kernel
theorem test_trap_enters : trapsAs (.trap 0x1234) (st id fun g => { g with tvec := 0x4000 }) .sysTrap 0x1234 = true := by decide +kernel
theorem test_misaligned_load : trapsAs (.ld .d .weak .th 0 5 1 (.i16 1)) (st (xs [64]) fun g => { g with tvec := 0x4000 }) .align 65 = true := by decide +kernel
theorem test_step_retires : (match step sFetch with
    | .next t => (t.agent ⟨0, .thread 0⟩).map fun th => (th.pc, th.retired)
    | _ => none) = some (0x20000008, 1) := by decide +kernel

end Sys2Proof.Tests
end

namespace Sys2Proof.Machine

/-! # Maquettes and the core table (25 R422)

A maquette writes back every entry of the core table that holds a group of the launch. Where the table's keys rise, as `Map` says they do, each entry is
the one that its key reads, and the scratchpads stay as they are (`spSame_of_maquette`). `Obligations.GangEvents` speaks of every `State`, also of one
whose core table has a key twice: there the write-back puts the second entry's group in place of the first's (`not_gangEvents`). -/

/-! ## Rising tables -/

theorem find_map_keyed {α : Type} (f : Nat → α → α) (m : Map α) (k : Nat) : find (m.map fun e => (e.1, f e.1 e.2)) k = (find m k).map (f k) := by
  induction m with
  | nil => rfl
  | cons e rest ih =>
    simp only [List.map_cons, find]
    split
    · rename_i he; subst he; rfl
    · exact ih

theorem risingFrom_map_keyed {α : Type} (f : Nat → α → α) (m : Map α) (a : Nat) : risingFrom a (m.map fun e => (e.1, f e.1 e.2)) = risingFrom a m := by
  induction m generalizing a with
  | nil => rfl
  | cons e rest ih => simp [risingFrom, ih]

theorem le_of_mem_rising {α : Type} {m : Map α} {a : Nat} {e : Nat × α} (h : risingFrom a m = true) (he : e ∈ m) : a ≤ e.1 := by
  induction m generalizing a with
  | nil => cases he
  | cons x rest ih =>
    simp only [risingFrom, Bool.and_eq_true, decide_eq_true_eq] at h
    rcases List.mem_cons.mp he with rfl | he
    · exact h.1
    · have := ih h.2 he; omega

/-- In a table with rising keys every entry is the one that its key reads. -/
theorem find_of_mem_rising {α : Type} {m : Map α} {a : Nat} {e : Nat × α} (h : risingFrom a m = true) (he : e ∈ m) : find m e.1 = some e.2 := by
  induction m generalizing a with
  | nil => cases he
  | cons x rest ih =>
    simp only [risingFrom, Bool.and_eq_true, decide_eq_true_eq] at h
    rcases List.mem_cons.mp he with rfl | he
    · simp [find]
    · have := le_of_mem_rising h.2 he
      rw [find, if_neg (by omega), ih h.2 he]

/-! ## Steps that keep the scratchpads -/

/-- Every scratchpad is as before, and a core table with rising keys still has them. -/
structure SpKept (s t : State) : Prop where
  sp     : SpSame s t
  rising : risingFrom 0 s.cores = true → risingFrom 0 t.cores = true

theorem SpKept.refl (s : State) : SpKept s s := ⟨fun _ _ => rfl, id⟩

theorem SpKept.trans {s t u : State} (h : SpKept s t) (k : SpKept t u) : SpKept s u :=
  ⟨fun c a => (k.sp c a).trans (h.sp c a), k.rising ∘ h.rising⟩

theorem SpKept.foldl {α : Type} {f : State → α → State} (h : ∀ s x, SpKept s (f s x)) (l : List α) (s : State) : SpKept s (l.foldl f s) := by
  induction l generalizing s with
  | nil => exact .refl s
  | cons x rest ih => exact (h s x).trans (ih _)

/-- A group with the scratchpad that the core has now replaces the resident one. -/
theorem SpKept.setGroup {s : State} {c : Nat} {g : Group} (h : ∀ a, byteAt g.spData a = s.spByte c a) : SpKept s (s.setGroup c g) where
  sp j a := by
    by_cases hj : j = c
    · subst hj; simp [State.spByte, h]
    · simp [State.spByte, State.group_setGroup_other s g hj]
  rising := risingFrom_set _ _ (Nat.zero_le _)

theorem State.spByte_of_group {s : State} {c : Nat} {g : Group} (h : s.group c = some g) (a : Nat) : s.spByte c a = byteAt g.spData a := by
  simp [State.spByte, h]

theorem SpKept.setAgent (s : State) (w : Who) (th : Thread) : SpKept s (s.setAgent w th) := by
  unfold State.setAgent
  split
  · next g hg => exact .setGroup fun a => by rw [Group.setAgent_spData, State.spByte_of_group hg]
  · exact .refl s

theorem SpKept.pend (s : State) (core t : Nat) (a : Async) : SpKept s (s.pend core t a) := by
  unfold State.pend
  split
  · exact .setAgent s _ _
  · exact .refl s

theorem SpKept.feedStop (s : State) (w : Who) (causes : List (Cause × W64)) : SpKept s (s.feedStop w causes) := by
  unfold State.feedStop
  split
  · exact .refl s
  · next g hg =>
    have hset : ∀ f : Feed, SpKept s (s.setGroup w.core (if w.issuer == .loader then { g with loader := f } else { g with storer := f })) :=
      fun f => .setGroup fun a => by rw [State.spByte_of_group hg]; split <;> rfl
    dsimp only
    split
    · exact (hset _).trans (.foldl (fun s e => .pend s _ _ _) causes _)
    · exact hset _

theorem SpKept.feedLate (s : State) (w : Who) : SpKept s (s.feedLate w) := by
  unfold State.feedLate
  split
  · split
    · exact .refl s
    · exact .feedStop s w _
  · exact .refl s

theorem State.group_withdrawFrom (s : State) (kept : Bool) (w : Who) (c : Nat) :
    (s.withdrawFrom kept w).group c = (s.group c).map (Group.without w) := by
  have hcore : find (s.withdrawFrom kept w).cores c = (find s.cores c).map (Core.without w c) := find_map_keyed (Core.without w) s.cores c
  unfold State.group State.core
  rw [hcore]
  cases find s.cores c <;> rfl

theorem SpKept.withdrawFrom (s : State) (kept : Bool) (w : Who) : SpKept s (s.withdrawFrom kept w) where
  sp c a := by
    unfold State.spByte
    rw [State.group_withdrawFrom]
    cases s.group c <;> rfl
  rising h := (risingFrom_map_keyed (Core.without w) s.cores 0).trans h

theorem SpKept.stopAgent (s : State) (kept : Bool) (w : Who) : SpKept s (s.stopAgent kept w) := by
  unfold State.stopAgent
  split
  · next th _ =>
    have hstop : SpKept s ((s.withdrawFrom kept w).setAgent w { th with wait := .none, prog := Prog.idle }) :=
      (SpKept.withdrawFrom s kept w).trans (.setAgent _ w _)
    dsimp only
    split
    · exact hstop.trans (.feedLate _ w)
    · exact hstop
  · exact .refl s

/-- The groups of a launch are those that their cores read, where the core table has rising keys. -/
theorem State.group_of_mem_launchGroups {s : State} {die slot : Nat} {e : Nat × Group} (hs : risingFrom 0 s.cores = true)
    (he : e ∈ s.launchGroups die slot) : s.group e.1 = some e.2 := by
  obtain ⟨x, hx, hsome⟩ := List.mem_filterMap.mp he
  have hcore : s.core x.1 = x.2 := by unfold State.core; rw [find_of_mem_rising hs hx]; rfl
  split at hsome
  · next g hg =>
    split at hsome
    · split at hsome
      · cases hsome; rw [State.group, hcore, hg]
      · cases hsome
    · cases hsome
  · cases hsome

theorem SpKept.blinkAll {s : State} (gs : List (Nat × Group)) (h : ∀ e ∈ gs, ∀ a, s.spByte e.1 a = byteAt e.2.spData a) :
    SpKept s (gs.foldl (fun (s : State) e => s.setGroup e.1 e.2.blink) s) := by
  induction gs generalizing s with
  | nil => exact .refl s
  | cons e rest ih =>
    obtain ⟨he, hrest⟩ := List.forall_mem_cons.mp h
    have hset : SpKept s (s.setGroup e.1 e.2.blink) := .setGroup fun a => (he a).symm
    exact hset.trans (ih fun x hx a => (hset.sp x.1 a).trans (hrest x hx a))

/-- A maquette keeps every scratchpad where the core table has rising keys, the form that the model's tables are meant to have. -/
theorem spSame_of_maquette {s t : State} (hs : risingFrom 0 s.cores = true) (h : exec .maquette s = .next t) : SpSame s t := by
  injection h with h
  subst h
  split
  · exact (SpKept.refl s).sp
  · next l _ =>
    dsimp only
    split
    · exact (SpKept.refl s).sp
    · generalize hu : List.foldl _ s _ = u
      have hstop : SpKept s u := hu ▸ .foldl (fun s w => .stopAgent s false w) _ s
      have hfree : SpKept s (u.freeNat 3).2 := hstop.trans ⟨fun _ _ => rfl, id⟩
      have hgroup : ∀ e ∈ (u.freeNat 3).2.launchGroups s.selA s.selB, (u.freeNat 3).2.group e.1 = some e.2 :=
        fun e he => State.group_of_mem_launchGroups (hfree.rising hs) he
      have hblink := hfree.trans (.blinkAll _ fun e he => State.spByte_of_group (hgroup e he))
      split <;> exact hblink.sp

/-! ## A launch whose maquette is due -/

/-- A launch that a debugger has claimed, its maquette due. -/
def claimedLaunch : Launch :=
  { words := [], addr := 0, dom := 0, serial := 0, ready := true, turn := 0, failed := none, told := false, out := 1, retired := 0, sets := [],
    vec := 0, co := none, claimed := true, period := 1, nextMq := 0 }

/-- A core with an idle group of gang 0 whose scratchpad holds `b` at byte 0. -/
def idleCore (b : Byte) : Core := { Core.init with group := some { Group.init with spData := setByte [] 0 b } }

/-- The module as reset left it, but for this core table, the claimed launch in slot 0 of hub 0, and its one gang on core 0. -/
def claimedState (cores : Map Core) : State :=
  { State.reset with
    cores := cores,
    gangs := [(0, Gang.init)],
    hubs := [(0, { Hub.init with slots := [(0, claimedLaunch)] })] }

/-- With one entry for core 0 its maquette is taken, and the scratchpad stays as it is. -/
theorem claimedState_maquette : ∃ t, exec .maquette ((claimedState [(0, idleCore 1)]).select 0 0) = .next t ∧ t.maquettes.length = 1 ∧
    SpSame ((claimedState [(0, idleCore 1)]).select 0 0) t :=
  ⟨_, rfl, by decide +kernel, spSame_of_maquette (by decide) rfl⟩

/-- Core 0 has two entries; the second is never read, and the two scratchpads differ in byte 0. -/
def doubledCore : State := claimedState [(0, idleCore 0), (0, idleCore 1)]

theorem doubledCore_ready : ∀ e ∈ doubledCore.gangsOf 0 0, doubledCore.quiet e.1 e.2 = true ∧
    ∀ c ∈ doubledCore.coresOf e.1 e.2, doubledCore.saveReady e.1 c = true := by decide +kernel

theorem doubledCore_spByte : doubledCore.spByte 0 0 = 0 := by decide +kernel

theorem doubledCore_maquette_spByte {t : State} (h : exec .maquette (doubledCore.select 0 0) = .next t) : t.spByte 0 0 = 1 := by
  injection h with h
  subst h
  decide +kernel

/-- Refutes O50: a core table with one key twice meets every hypothesis of the last clause, and the maquette changes byte 0 of core 0's scratchpad
from 0 to 1. The statement lacks the hypothesis that the table's keys rise. -/
theorem not_gangEvents : ¬ Obligations.GangEvents := by
  unfold Obligations.GangEvents
  intro h
  obtain ⟨-, -, -, -, -, -, hmaquette⟩ := h doubledCore 0 Gang.init rfl
  obtain ⟨t, -, ht, -, -, -, hsp, -⟩ := (hmaquette claimedLaunch rfl).2 rfl (by decide) doubledCore_ready
  have hbyte : t.spByte 0 0 = doubledCore.spByte 0 0 := hsp 0 0
  rw [doubledCore_maquette_spByte ht, doubledCore_spByte] at hbyte
  exact absurd hbyte (by decide)

end Sys2Proof.Machine

namespace Sys2Proof

/-! # Decoding and encoding are inverse (03 R34, R38 to R40) -/

/-! ## Fields and words -/

theorem Fields.ofWord_word (f : Fields) : Fields.ofWord f.word = f := by
  simp (disch := omega) only [Fields.ofWord, Fields.word, BitVec.extractLsb'_append_eq_of_add_le, BitVec.extractLsb'_append_eq_of_le]
  simp

theorem Fields.word_ofWord (w : BitVec 128) : (Fields.ofWord w).word = w := by
  simp (disch := rfl) only [Fields.ofWord, Fields.word, BitVec.extractLsb'_append_extractLsb'_eq_extractLsb']
  exact BitVec.extractLsb'_eq_self

theorem Fields.extractLsb'_word_len (f : Fields) : f.word.extractLsb' 0 2 = f.len :=
  congrArg Fields.len f.ofWord_word

theorem Fields.extractLsb'_word_ext (f : Fields) : f.word.extractLsb' 64 64 = f.ext :=
  congrArg Fields.ext f.ofWord_word

/-- The extension fits the length: no bit is set above the instruction's end (03 Table 1). -/
inductive Fields.Fits (f : Fields) : Prop where
  | l64 (len : f.len = 1#2) (ext : f.ext = 0#64)
  | l96 (len : f.len = 2#2) (ext : f.ext.toNat < 2 ^ 32)
  | l128 (len : f.len = 3#2)

theorem Fields.Fits.len_ne_zero {f : Fields} (h : f.Fits) : f.len ≠ 0#2 := by
  cases h <;> simp [*]

theorem Fields.toNat_word_div (f : Fields) : f.word.toNat / 2 ^ 64 = f.ext.toNat := by
  have h := congrArg BitVec.toNat f.extractLsb'_word_ext
  rw [BitVec.extractLsb'_toNat, Nat.shiftRight_eq_div_pow] at h
  have := f.word.isLt
  omega

theorem Fields.Fits.toNat_word_lt {f : Fields} (h : f.Fits) : f.word.toNat < 2 ^ (8 * lenBytes f.len) := by
  have hdiv := f.toNat_word_div
  cases h with
  | l64 len ext =>
    rw [ext] at hdiv
    rw [len]
    change f.word.toNat < 2 ^ 64
    change _ = 0 at hdiv
    omega
  | l96 len ext =>
    rw [len]
    change f.word.toNat < 2 ^ 96
    omega
  | l128 len =>
    rw [len]
    exact f.word.isLt

theorem decodeBits_word {f : Fields} (h : f.Fits) (feed : Bool) : decodeBits feed f.word = decodeFields feed f := by
  simp only [decodeBits, f.extractLsb'_word_len, Nat.mod_eq_of_lt h.toNat_word_lt, BitVec.ofNat_toNat, BitVec.setWidth_eq, f.ofWord_word]

/-- The bits of a word up to the length that its length code names. -/
def codeOf (w : BitVec 128) : BitVec 128 := BitVec.ofNat 128 (w.toNat % 2 ^ (8 * lenBytes (w.extractLsb' 0 2)))

theorem extractLsb'_codeOf_len (w : BitVec 128) : (codeOf w).extractLsb' 0 2 = w.extractLsb' 0 2 := by
  have hcode : (w.extractLsb' 0 2).toNat = w.toNat % 2 ^ 2 := by simp
  rcases show lenBytes (w.extractLsb' 0 2) = 0 ∧ w.extractLsb' 0 2 = 0#2 ∨ 2 ≤ 8 * lenBytes (w.extractLsb' 0 2) from
    (by decide : ∀ c : BitVec 2, lenBytes c = 0 ∧ c = 0#2 ∨ 2 ≤ 8 * lenBytes c) _ with ⟨hlen, hzero⟩ | hlen
  · rw [codeOf, hlen, hzero, Nat.mul_zero, Nat.pow_zero, Nat.mod_one]
    rfl
  · apply BitVec.eq_of_toNat_eq
    rw [hcode, BitVec.extractLsb'_toNat, Nat.shiftRight_zero, codeOf, BitVec.toNat_ofNat, Nat.mod_mod_of_dvd _ (by decide),
      Nat.mod_mod_of_dvd _ (Nat.pow_dvd_pow 2 hlen)]

theorem decodeBits_eq_decodeFields (feed : Bool) (w : BitVec 128) : decodeBits feed w = decodeFields feed (Fields.ofWord (codeOf w)) := rfl

theorem ofWord_codeOf_len (w : BitVec 128) : (Fields.ofWord (codeOf w)).len = w.extractLsb' 0 2 := extractLsb'_codeOf_len w

/-! ## The decoder's choice -/

theorem decodeFields_eq_ok_iff {feed : Bool} {f : Fields} {i : Instr} :
    decodeFields feed f = .ok i ↔ f.len ≠ 0#2 ∧ checkOp feed f = none ∧ pick f (readClass f) = some i := by
  unfold decodeFields
  by_cases hlen : f.len = 0#2
  · simp [hlen]
  · cases checkOp feed f <;> cases pick f (readClass f) <;> simp [hlen]

theorem wf_and_sameFields_of_pick {f : Fields} {l : List (Option Instr)} {i : Instr} (h : pick f l = some i) :
    i.wf = true ∧ sameFields i f = true := by
  induction l with
  | nil => cases h
  | cons x rest ih =>
    cases x with
    | none => exact ih h
    | some j =>
      rw [pick] at h
      split at h
      · next hj => cases h; simpa using hj
      · exact ih h

theorem sameFields_of_encodeFields {i : Instr} {f : Fields} (h : encodeFields i = some f) : sameFields i f = true := by
  unfold sameFields
  split
  · next len g hg =>
    cases h
    cases hg
    exact beq_iff_eq.mpr rfl
  · next hg => exact beq_iff_eq.mpr (Option.some.inj (hg.symm.trans h))
  · next hg => cases hg.symm.trans h

theorem encodeFields_of_sameFields {i : Instr} {f : Fields} (h : sameFields i f = true) (hnop : ∀ len, i ≠ .nop len) :
    encodeFields i = some f := by
  unfold sameFields at h
  split at h
  · exact absurd rfl (hnop _)
  · next hg => rw [hg, eq_of_beq h]
  · cases h

theorem size_of_encodeFields {i : Instr} {f : Fields} (h : encodeFields i = some f) : i.size = lenBytes f.len := by
  simp only [Instr.size, h]

/-- Settles O4: the decoder takes only a candidate that is well formed and has the fields of the word, so its encoding is that word. -/
theorem encodeOfDecode : Obligations.EncodeOfDecode := by
  unfold Obligations.EncodeOfDecode
  intro i w h
  rw [decodeBits_eq_decodeFields, decodeFields_eq_ok_iff] at h
  obtain ⟨-, -, hpick⟩ := h
  obtain ⟨hwf, hsame⟩ := wf_and_sameFields_of_pick hpick
  refine ⟨hwf, fun hnop => ?_⟩
  have henc : encodeFields i = some (Fields.ofWord (codeOf w)) := encodeFields_of_sameFields hsame hnop
  have hsize : i.size = lenBytes (w.extractLsb' 0 2) := by rw [size_of_encodeFields henc, ofWord_codeOf_len]
  rw [encode, henc, Option.map_some, Fields.word_ofWord, hsize, codeOf]

/-- The first candidate of a list whose fields are these is the instruction. -/
inductive FirstOf (f : Fields) (i : Instr) : List (Option Instr) → Prop where
  | here (rest : List (Option Instr)) : FirstOf f i (some i :: rest)
  | later {j : Instr} {l : List (Option Instr)} (other : sameFields j f = false) (h : FirstOf f i l) : FirstOf f i (some j :: l)

theorem pick_of_firstOf {f : Fields} {i : Instr} {l : List (Option Instr)} (hwf : i.wf = true) (henc : encodeFields i = some f)
    (h : FirstOf f i l) : pick f l = some i := by
  induction h with
  | here rest => rw [pick, hwf, sameFields_of_encodeFields henc]; rfl
  | later other _ ih => rw [pick, other, Bool.and_false, if_neg Bool.false_ne_true, ih]

/-! ## The operation exists in the instruction's length -/

/-- The opcode map holds the operation in the fields' length (03 R44), and the extension fits that length. -/
inductive Fields.Mapped (f : Fields) : Prop where
  | intro {r : OpRow} (row : opRow f.cls.toNat f.op.toNat = some r) (hasLen : r.hasLen f.len = true) (fits : f.Fits)

theorem checkOp_of_row {f : Fields} {r : OpRow} (hrow : opRow f.cls.toNat f.op.toNat = some r) (hlen : r.hasLen f.len = true) :
    checkOp false f = none := by
  have hrows : (rowsOf f.cls.toNat).isEmpty = false := by
    rw [List.isEmpty_eq_false_iff]
    intro hnil
    simp [opRow, hnil] at hrow
  simp [checkOp, hrow, hlen, hrows]

theorem Fields.Mapped.short {f : Fields} {r : OpRow} (hrow : opRow f.cls.toNat f.op.toNat = some r) (h64 : r.l64 = true)
    (hlen : f.len = 1#2) (hext : f.ext = 0#64) : f.Mapped :=
  ⟨hrow, by rw [hlen]; exact h64, .l64 hlen hext⟩

theorem Fields.Mapped.ofLong {f : Fields} {r : OpRow} {long : Bool} (hrow : opRow f.cls.toNat f.op.toNat = some r) (h64 : r.l64 = true)
    (h96 : r.l96 = true) (hlen : f.len = if long then 2#2 else 1#2) (hext : f.ext = 0#64) : f.Mapped := by
  cases long with
  | false => exact .short hrow h64 hlen hext
  | true => exact ⟨hrow, by rw [hlen]; exact h96, .l96 hlen (by rw [hext]; decide)⟩

theorem toNat_setWidth_64_lt (v : BitVec 32) : (v.setWidth 64).toNat < 2 ^ 32 := by
  rw [BitVec.toNat_setWidth_of_le (by decide)]
  exact v.isLt

theorem Fields.Mapped.ofImmA {f : Fields} {r : OpRow} (imm : ImmA) (hrow : opRow f.cls.toNat f.op.toNat = some r) (h64 : r.l64 = true)
    (h96 : r.l96 = true) (hlen : f.len = imm.len) (hext : f.ext = imm.ext) : f.Mapped := by
  cases imm with
  | i16 v => exact .short hrow h64 hlen hext
  | i32 v => exact ⟨hrow, by rw [hlen]; exact h96, .l96 hlen (by rw [hext]; exact toNat_setWidth_64_lt v)⟩

theorem Fields.Mapped.ofImmL {f : Fields} {r : OpRow} (imm : ImmL) (hrow : opRow f.cls.toNat f.op.toNat = some r) (h64 : r.l64 = true)
    (h96 : r.l96 = true) (h128 : r.l128 = true) (hlen : f.len = imm.len) (hext : f.ext = imm.ext) : f.Mapped := by
  cases imm with
  | i16 v => exact .short hrow h64 hlen hext
  | i32 v => exact ⟨hrow, by rw [hlen]; exact h96, .l96 hlen (by rw [hext]; exact toNat_setWidth_64_lt v)⟩
  | i64 v => exact ⟨hrow, by rw [hlen]; exact h128, .l128 hlen⟩

theorem Fields.Mapped.ofBase {f : Fields} {r : OpRow} (base : VBase) (hrow : opRow f.cls.toNat f.op.toNat = some r) (h64 : r.l64 = true)
    (h96 : r.l96 = true) (hlen : f.len = base.len) (hext : f.ext = base.ext) : f.Mapped := by
  cases base with
  | reg a disp | ptr p post => exact .short hrow h64 hlen hext
  | regLong a disp => exact ⟨hrow, by rw [hlen]; exact h96, .l96 hlen (by rw [hext]; exact toNat_setWidth_64_lt disp)⟩

theorem mapped_of_encodeFields {i : Instr} {f : Fields} (h : encodeFields i = some f) : f.Mapped := by
  cases i with
  | addi _ _ _ imm | andi _ _ _ imm | ori _ _ _ imm | xori _ _ _ imm | pcadd _ imm | br _ _ _ imm | jmp imm | call imm
  | ld _ _ _ _ _ _ imm | ldx _ _ _ _ _ _ _ imm | st _ _ _ _ _ imm | stx _ _ _ _ _ _ imm | spSet _ _ imm
  | tld _ _ _ _ _ _ imm | tst _ _ _ _ _ imm =>
    cases h; exact .ofImmA imm rfl rfl rfl rfl rfl
  | li _ _ imm => cases h; exact .ofImmL imm rfl rfl rfl rfl rfl rfl
  | nop len =>
    cases h
    cases len with
    | l64 => exact .short rfl rfl rfl rfl
    | l96 => exact ⟨rfl, rfl, .l96 rfl (by decide)⟩
    | l128 => exact ⟨rfl, rfl, .l128 rfl⟩
  | vld _ _ _ _ _ base | vst _ _ _ _ base => cases h; exact .ofBase base rfl rfl rfl rfl rfl
  | vldg _ _ _ _ _ _ _ long | vsts _ _ _ _ _ _ long => cases h; exact .ofLong (long := long) rfl rfl rfl rfl rfl
  | cpLd => cases h; exact ⟨rfl, rfl, .l128 rfl⟩
  | _ => cases h <;> exact .short rfl rfl rfl rfl

/-! ## Reading the codings back -/

@[simp] theorem ISz.ofBits_bits (x : ISz) : ISz.ofBits x.bits = some x := by cases x <;> rfl
@[simp] theorem ASz.ofBits_bits (x : ASz) : ASz.ofBits x.bits = some x := by cases x <;> rfl
@[simp] theorem FFmt.ofBits_bits (x : FFmt) : FFmt.ofBits x.bits = some x := by cases x <;> rfl
@[simp] theorem VFmt.ofBits_bits (x : VFmt) : VFmt.ofBits x.bits = some x := by cases x <;> rfl
@[simp] theorem MFmt.ofBits_bits (x : MFmt) : MFmt.ofBits x.bits = some x := by cases x <;> rfl
@[simp] theorem Cond.ofBits_bits (x : Cond) : Cond.ofBits x.bits = some x := by cases x <;> rfl
@[simp] theorem CrSz.ofBits_bits (x : CrSz) : CrSz.ofBits x.bits = some x := by cases x <;> rfl
@[simp] theorem Rm.ofBits_bits (x : Rm) : Rm.ofBits x.bits = some x := by cases x <;> rfl
@[simp] theorem Scope.ofBits_bits (x : Scope) : Scope.ofBits x.bits = some x := by cases x <;> rfl
@[simp] theorem NopLen.ofBits_bits (x : NopLen) : NopLen.ofBits x.bits = some x := by cases x <;> rfl
@[simp] theorem MemOrd.ofBits_bits (x : MemOrd) : MemOrd.ofBits x.q x.bits = some x := by cases x <;> rfl

@[simp] theorem VM.ofBits_bits (x : VM) : VM.ofBits x.q x.bits = some x := by
  cases x with
  | v f => exact congrArg (Option.map VM.v) f.ofBits_bits
  | m f => exact congrArg (Option.map VM.m) f.ofBits_bits

/-! Where `Q` has no part in the order (03 R39), a well-formed instruction's order is not `seq`. -/

theorem MemOrd.ofBits2_bits_of_weakAcq {x : MemOrd} (h : x.weakAcq = true) : MemOrd.ofBits2 x.bits = x := by
  cases x with
  | weak | acq => rfl
  | rel | ar | seq => cases h

theorem MemOrd.ofBits2_bits_of_weakRel {x : MemOrd} (h : x.weakRel = true) : MemOrd.ofBits2 x.bits = x := by
  cases x with
  | weak | rel => rfl
  | acq | ar | seq => cases h

theorem setWidth_32_setWidth_64 (v : BitVec 32) : (v.setWidth 64).setWidth 32 = v := by
  rw [BitVec.setWidth_setWidth_of_le _ (by decide), BitVec.setWidth_eq]

@[simp] theorem ImmA.ofFields_fields (x : ImmA) : ImmA.ofFields x.len x.imm16 x.ext = some x := by
  cases x with
  | i16 v => rfl
  | i32 v => exact congrArg (some ∘ ImmA.i32) (setWidth_32_setWidth_64 v)

@[simp] theorem ImmL.ofFields_fields (x : ImmL) : ImmL.ofFields x.len x.imm16 x.ext = some x := by
  cases x with
  | i16 v | i64 v => rfl
  | i32 v => exact congrArg (some ∘ ImmL.i32) (setWidth_32_setWidth_64 v)

@[simp] theorem bit_beq_one (p : Bool) : (bit p == 1#1) = p := by cases p <;> rfl

@[simp] theorem lenCode_beq_long (long : Bool) : ((if long = true then 2#2 else 1#2) == 2#2) = long := by cases long <;> rfl

/-! Parts of a field, counted from the top: the widths are explicit, because `simp` cannot find them where the whole is written as 16 bits. -/

theorem part_low (m n : Nat) (x : BitVec m) (y : BitVec n) : (x ++ y).extractLsb' 0 n = y := BitVec.extractLsb'_append_eq_right

theorem part_second (m n k : Nat) (x : BitVec m) (y : BitVec n) (z : BitVec k) : (x ++ y ++ z).extractLsb' k n = y := by
  rw [BitVec.extractLsb'_append_eq_of_le (Nat.le_refl k), Nat.sub_self, part_low]

theorem part_third (m n k l : Nat) (x : BitVec m) (y : BitVec n) (z : BitVec k) (t : BitVec l) :
    (x ++ y ++ z ++ t).extractLsb' (k + l) n = y := by
  rw [BitVec.extractLsb'_append_eq_of_le (Nat.le_add_left l k), Nat.add_sub_cancel, part_second]

theorem part_fourth (m n k l o : Nat) (x : BitVec m) (y : BitVec n) (z : BitVec k) (t : BitVec l) (u : BitVec o) :
    (x ++ y ++ z ++ t ++ u).extractLsb' (k + l + o) n = y := by
  rw [BitVec.extractLsb'_append_eq_of_le (Nat.le_add_left o (k + l)), Nat.add_sub_cancel, part_third]

@[simp] theorem VBase.ofFields_fields (x : VBase) : VBase.ofFields x.len x.a x.imm16 x.ext = some x := by
  cases x with
  | reg a disp =>
    have hmode : (0#1 ++ disp).extractLsb' 15 1 = 0#1 := BitVec.extractLsb'_append_eq_left
    have hdisp : (0#1 ++ disp).extractLsb' 0 15 = disp := BitVec.extractLsb'_append_eq_right
    simp only [VBase.ofFields, VBase.len, VBase.imm16, VBase.a, hmode, hdisp]
    rfl
  | regLong a disp => exact congrArg (some ∘ VBase.regLong a) (setWidth_32_setWidth_64 disp)
  | ptr p post =>
    have hptr : (0#1 ++ bit post ++ p).extractLsb' 0 3 = p := BitVec.extractLsb'_append_eq_right
    have hpost : (0#1 ++ bit post ++ p).extractLsb' 3 1 = bit post := by
      rw [BitVec.extractLsb'_append_eq_of_le (by decide)]
      exact BitVec.extractLsb'_append_eq_right
    have hmode : (0x8000#16).extractLsb' 15 1 = 1#1 := rfl
    simp only [VBase.ofFields, VBase.len, VBase.imm16, VBase.a, hmode, hptr, hpost, bit_beq_one]
    rfl

/-! ## The instruction is the first candidate with its fields

Most operations have one candidate, whose operands are the fields read back. Eight instructions share their operation with an earlier
candidate (`fcvtInt`, `icinvFeed`, `actWrImg`, `actRdSh`, `qPeekPop`, `sendMailbox`, `sendEngine`, `mbxCntCfg`): `Q` or `IMM16[1:0]` tells
them apart. -/

@[simp] theorem firstOf_head (f : Fields) (i : Instr) (rest : List (Option Instr)) : FirstOf f i (some i :: rest) := .here rest

theorem FirstOf.of_eq {f : Fields} {i : Instr} {l l' : List (Option Instr)} (hl : l' = l) (h : FirstOf f i l) : FirstOf f i l' := hl ▸ h

theorem sameFields_eq_false {j : Instr} {f g : Fields} (henc : encodeFields j = some g) (hnop : ∀ len, j ≠ .nop len) (hne : g ≠ f) :
    sameFields j f = false := by
  cases hsame : sameFields j f with
  | false => rfl
  | true =>
    have hf := encodeFields_of_sameFields hsame hnop
    exact absurd (Option.some.inj (henc.symm.trans hf)) hne

/-- An earlier candidate has `Q` = 0 where the instruction has `Q` = 1. -/
theorem FirstOf.later_of_q {i j : Instr} {f g : Fields} {l : List (Option Instr)} (henc : encodeFields j = some g)
    (hnop : ∀ len, j ≠ .nop len) (hg : g.q = 0#1) (hf : f.q = 1#1) (h : FirstOf f i l) : FirstOf f i (some j :: l) := by
  refine .later (sameFields_eq_false henc hnop ?_) h
  rintro rfl
  exact absurd (hg.symm.trans hf) (by decide)

/-- An earlier candidate has another `IMM16[1:0]` (`m`) than the instruction (`n`). -/
theorem FirstOf.later_of_kind {i j : Instr} {f g : Fields} {l : List (Option Instr)} (m n : BitVec 2) (henc : encodeFields j = some g)
    (hnop : ∀ len, j ≠ .nop len) (hg : g.imm16.extractLsb' 0 2 = m) (hf : f.imm16.extractLsb' 0 2 = n) (hne : m ≠ n) (h : FirstOf f i l) :
    FirstOf f i (some j :: l) := by
  refine .later (sameFields_eq_false henc hnop ?_) h
  rintro rfl
  exact hne (hg.symm.trans hf)

/-- The classes 0x01 to 0x09 of 03 Table 5. -/
theorem firstOf_readClass_scalar {i : Instr} {f : Fields} (h : encodeFields i = some f) (hcls : f.cls.toNat ≤ 0x09) :
    FirstOf f i (readClass f) := by
  cases i with
  | add | sub | and | or | xor | andn | shl | shr | sra | rol | ror | min | max | minu | maxu | slt | sltu | seq | sel =>
    cases h
    simp [readClass, readIalu, opFields]
  | addi | andi | ori | xori | shli | shri | srai | li | pcadd =>
    cases h
    simp [readClass, readIalui, opFields, part_low 10 6]
  | mul | mulh | mulhu | mulhsu | div | divu | rem | remu | madd =>
    cases h
    simp [readClass, readImul, opFields]
  | clz | ctz | popc | bfx | bfxu | bfi | bswap | brev | sext | zext =>
    cases h
    simp [readClass, readBitf, opFields, part_low 10 6, part_second 3 7 6]
  | fadd | fsub | fmul | fma | fnma | fdiv | fsqrt | fmin | fmax | fsgn | fcmp | fclass =>
    cases h
    simp [readClass, readFalu, opFields, part_low 14 2]
  | fcvt | fmv =>
    cases h
    simp [readClass, readFcvt, opFields, part_low 13 3]
  | fcvtInt fmt rm d a dst =>
    cases h
    exact .of_eq (l := [some (.fcvt fmt rm d a dst), some (.fcvtInt fmt rm d a dst)])
      (by simp [readClass, readFcvt, opFields, part_low 13 3]) (.later_of_q rfl nofun rfl rfl (.here _))
  | br | jmp | jmpr | call | callr | ret =>
    cases h
    simp [readClass, readBr, opFields]
  | ctlRd | ctlWr | ctlSet | ctlClr | yield | tid =>
    cases h
    simp [readClass, readCtl, opFields, part_low 4 12]
  | nop | trap | eret | halt | brk | icinv =>
    cases h
    simp [readClass, readSys, opFields]
  | icinvFeed a b c storer =>
    cases h
    refine .of_eq (l := [some (.icinv a b), some (.icinvFeed a b c storer)]) (by cases storer <;> rfl) ?_
    cases storer with
    | false => exact .later_of_kind 0#2 1#2 rfl nofun rfl rfl (by decide) (.here _)
    | true => exact .later_of_kind 0#2 2#2 rfl nofun rfl rfl (by decide) (.here _)
  | _ => cases h <;> exact absurd hcls (of_decide_eq_false rfl)

/-- The classes 0x0A to 0x0F of 03 Table 5. -/
theorem firstOf_readClass_memory {i : Instr} {f : Fields} (h : encodeFields i = some f) (hcls : 0x0A ≤ f.cls.toNat ∧ f.cls.toNat ≤ 0x0F) :
    FirstOf f i (readClass f) := by
  cases i with
  | ld | ldx =>
    cases h
    simp [readClass, readLd, opFields]
  | st | stx =>
    cases h
    simp [readClass, readSt, opFields]
  | amoAdd | amoAnd | amoOr | amoXor | amoMin | amoMax | amoMinu | amoMaxu | amoSwap | amoCas =>
    cases h
    simp [readClass, readAmo, opFields]
  | fence | inval | wb | pf | tlbInv =>
    cases h
    simp [readClass, readMemc, opFields]
  | tagLd | tagSt | tagLdw | tagFill | actWr | actRd | actSwap =>
    cases h
    simp [readClass, readTag, opFields, part_low 12 4]
  | actWrImg a =>
    cases h
    exact .of_eq (l := [some (.actWr a 0), some (.actWrImg a)]) rfl (.later_of_q rfl nofun rfl rfl (.here _))
  | actRdSh d a =>
    cases h
    exact .of_eq (l := [some (.actRd d a), some (.actRdSh d a)]) rfl (.later_of_q rfl nofun rfl rfl (.here _))
  | spSet | spRd =>
    cases h
    simp [readClass, readSpm, opFields]
  | _ => cases h <;> exact absurd hcls (of_decide_eq_false rfl)

/-- The classes 0x10 to 0x17 of 03 Table 5. -/
theorem firstOf_readClass_vector {i : Instr} {f : Fields} (hwf : i.wf = true) (h : encodeFields i = some f)
    (hcls : 0x10 ≤ f.cls.toNat ∧ f.cls.toNat ≤ 0x17) : FirstOf f i (readClass f) := by
  cases i with
  | vadd | vsub | vmul | vmulh | vmin | vmax | vabs | vneg | vand | vor | vxor | vshl | vshr | vsra | vsadd | vssub =>
    cases h
    simp [readClass, readValu, opFields]
  | vfadd | vfsub | vfmul | vfma | vfnma | vfmin | vfmax | vfdiv | vfcmp =>
    cases h
    simp [readClass, readVfpu, opFields, part_low 14 2]
  | vcvt | vcvtBlk | vpack | vunpack =>
    cases h
    simp [readClass, readVcvt, opFields, part_low 11 5, part_low 15 1, part_second 14 1 1, part_third 4 4 3 5, part_fourth 3 1 4 3 5]
  | vld | vst | vldg | vsts =>
    cases h
    simp only [Instr.wf, Bool.and_eq_true] at hwf
    simp [readClass, readVmem, opFields, hwf, MemOrd.ofBits2_bits_of_weakAcq, MemOrd.ofBits2_bits_of_weakRel]
  | vperm | vsel | vmerge | vslide | vbcast | vext | vins =>
    cases h
    simp [readClass, readVperm, opFields, part_low 15 1, part_low 11 5, part_low 10 6, part_second 4 4 8, part_third 4 4 3 5]
  | vredAdd | vredMax | vredMin =>
    cases h
    simp [readClass, readVred, opFields]
  | vexp2V | vrcpV | vrsqrtV | vlog2V | crandV | vexp2S | vrcpS | vrsqrtS | vlog2S | crandS =>
    cases h
    simp [readClass, readVspec, opFields]
  | vloop =>
    cases h
    simp [readClass, readVseq, opFields]
  | _ => cases h <;> exact absurd hcls (of_decide_eq_false rfl)

/-- The classes 0x18 to 0x20 of 03 Table 5. -/
theorem firstOf_readClass_units {i : Instr} {f : Fields} (hwf : i.wf = true) (h : encodeFields i = some f)
    (hcls : 0x18 ≤ f.cls.toNat) : FirstOf f i (readClass f) := by
  cases i with
  | tld | tst | tzero | tcvt | tmov =>
    cases h
    simp [readClass, readTile, opFields, part_second 4 4 8, part_third 3 1 4 8]
  | mma | mmaCp | cpLd | accRd | accWr | accZero | gang =>
    cases h
    simp [readClass, readMma, opFields, part_low 14 2, part_low 10 6, part_low 9 7, part_second 12 2 2]
  | qCnt | qPeek | qFlush =>
    cases h
    simp [readClass, readQue, opFields]
  | qPeekPop d a =>
    cases h
    exact .of_eq (l := [some (.qPeek d a), some (.qPeekPop d a)]) rfl (.later_of_q rfl nofun rfl rfl (.here _))
  | hdrLay | hdrPack | hdrUnpack | sendQueue | mbxCnt =>
    cases h
    simp [readClass, readMsg, opFields, part_low 12 4]
  | mbxTake =>
    cases h
    simp only [Instr.wf, Bool.and_eq_true] at hwf
    simp [readClass, readMsg, opFields, part_low 12 4, hwf, MemOrd.ofBits2_bits_of_weakAcq]
  | sendMailbox ord scope a b nw =>
    cases h
    simp only [Instr.wf, Bool.and_eq_true] at hwf
    refine .of_eq (l := [some (.sendQueue 0 b), some (.sendMailbox ord scope a b nw), some (.sendEngine a b)]) ?_
      (.later_of_kind 0#2 1#2 rfl nofun rfl (part_low 14 2 _ _) (by decide) (.here _))
    simp [readClass, readMsg, opFields, part_second 9 5 2, hwf, MemOrd.ofBits2_bits_of_weakRel]
  | sendEngine a b =>
    cases h
    have hkind : (0x42#16).extractLsb' 0 2 = 2#2 := by decide
    exact .of_eq (l := [some (.sendQueue 0 b), some (.sendMailbox .weak .th a b 16#5), some (.sendEngine a b)])
      (by simp [readClass, readMsg, opFields, Scope.ofBits, MemOrd.ofBits2])
      (.later_of_kind 0#2 2#2 rfl nofun rfl hkind (by decide)
        (.later_of_kind 1#2 2#2 rfl nofun (part_low 14 2 _ _) hkind (by decide) (.here _)))
  | mbxCntCfg d a r =>
    cases h
    exact .of_eq (l := [some (.mbxCnt d), some (.mbxCntCfg d a r)])
      (by simp [readClass, readMsg, opFields, part_low 14 2]) (.later_of_q rfl nofun rfl rfl (.here _))
  | evSet | evClr | evWait | evTest | barInit | barArrive | barExpect | barWait =>
    cases h
    simp only [Instr.wf, Bool.and_eq_true] at hwf
    simp [readClass, readEvt, opFields, part_low 14 2, part_third 7 1 6 2, hwf, MemOrd.ofBits2_bits_of_weakAcq, MemOrd.ofBits2_bits_of_weakRel]
  | taskPost | taskExit | taskYield | taskWid | taskSelf =>
    cases h
    simp [readClass, readTask, opFields, part_low 14 2, part_low 13 3]
  | coSuspend | coResume | coSeal | coDiscard | coStat =>
    cases h
    simp [readClass, readCont, opFields, part_low 15 1]
  | rotOpen | rotPut | rotTake | rotDone | rotClose =>
    cases h
    simp [readClass, readRot, opFields]
  | ctrStart | ctrStop | ctrRd | sample | mark =>
    cases h
    simp [readClass, readDbg, opFields, part_low 13 3, part_second 11 2 3]
  | _ => cases h <;> exact absurd hcls (of_decide_eq_false rfl)

theorem firstOf_readClass {i : Instr} {f : Fields} (hwf : i.wf = true) (h : encodeFields i = some f) : FirstOf f i (readClass f) := by
  rcases (by omega : f.cls.toNat ≤ 0x09 ∨ (0x0A ≤ f.cls.toNat ∧ f.cls.toNat ≤ 0x0F) ∨ (0x10 ≤ f.cls.toNat ∧ f.cls.toNat ≤ 0x17) ∨
    0x18 ≤ f.cls.toNat) with hcls | hcls | hcls | hcls
  · exact firstOf_readClass_scalar h hcls
  · exact firstOf_readClass_memory h hcls
  · exact firstOf_readClass_vector hwf h hcls
  · exact firstOf_readClass_units hwf h hcls

/-! ## The statements on the codec -/

/-- Settles O3: the fields of the word are those that were written, its operation exists in its length, and of the candidates of its class
the instruction is the first with these fields. -/
theorem decodeOfEncode : Obligations.DecodeOfEncode := by
  unfold Obligations.DecodeOfEncode
  intro i w hwf henc
  obtain ⟨f, hf, rfl⟩ := Option.map_eq_some_iff.mp henc
  obtain ⟨hrow, hlen, hfits⟩ := mapped_of_encodeFields hf
  rw [decodeBits_word hfits, decodeFields_eq_ok_iff]
  exact ⟨hfits.len_ne_zero, checkOp_of_row hrow hlen, pick_of_firstOf hwf hf (firstOf_readClass hwf hf)⟩

/-- Settles O2: each word, read by the decoder from its bytes. -/
theorem wordsDecode : Obligations.WordsDecode := by
  unfold Obligations.WordsDecode
  exact ⟨rfl, rfl, rfl, rfl, rfl, rfl, rfl, rfl, rfl⟩

/-! ## Fetching what the decoder reads -/

theorem decodeBits_of_decode {feed : Bool} {bs rest : List Byte} {i : Instr} (h : decode feed bs = .ok (i, rest)) :
    decodeBits feed (bitsOfBytes bs) = .ok i := by
  unfold decode at h
  dsimp only at h
  split at h
  · next j hj =>
    cases h
    exact hj
  · cases h

theorem lenBytes_ne_zero_of_decodeBits {feed : Bool} {w : BitVec 128} {i : Instr} (h : decodeBits feed w = .ok i) :
    lenBytes (w.extractLsb' 0 2) ≠ 0 := by
  rw [decodeBits_eq_decodeFields, decodeFields_eq_ok_iff] at h
  obtain ⟨hlen, -⟩ := h
  rw [ofWord_codeOf_len] at hlen
  exact (by decide : ∀ c : BitVec 2, c ≠ 0#2 → lenBytes c ≠ 0) _ hlen

end Sys2Proof

namespace Sys2Proof.Machine

theorem decodeAt_of_decode {feed : Bool} {pc : Nat} {block rest : List Byte} {i : Instr} (h : decode feed (block.drop (pc % 32)) = .ok (i, rest))
    (hfits : pc % 32 + lenBytes ((bitsOfBytes (block.drop (pc % 32))).extractLsb' 0 2) ≤ 32) : decodeAt feed pc block = .ok i := by
  have hbits := decodeBits_of_decode h
  have hlen := lenBytes_ne_zero_of_decodeBits hbits
  simp [decodeAt, hbits, hlen, Nat.not_lt.mpr hfits]

/-! ## The turn of a thread set -/

theorem State.stopped_of_canRun {s : State} {w : Who} (h : s.canRun w = true) : s.stopped = false := by
  simp only [State.canRun, Bool.and_eq_true, Bool.not_eq_true'] at h
  obtain ⟨⟨⟨⟨⟨-, hstopped⟩, -⟩, -⟩, -⟩, -⟩ := h
  exact hstopped

theorem State.isDue_of_idle {s : State} {w : Who} {th : Thread} (hth : s.agent w = some th) (hidle : th.prog = Prog.idle) :
    s.isDue w = false := by
  simp [State.isDue, hth, hidle, Prog.idle]

theorem State.nextInst_of_idle {s : State} {w : Who} {g : Group} {th : Thread} (hidle : th.prog = Prog.idle) :
    s.nextInst w g th = s.fetch w g th := by
  simp [State.nextInst, hidle, Prog.idle]

theorem State.fetch_of_codeBlock {s : State} {core k : Nat} {g : Group} {th : Thread} {block : List Byte} {i : Instr}
    (hblock : s.codeBlock core g th = .ok block) (hdecode : decodeAt false th.pc.toNat block = .ok i) :
    s.fetch ⟨core, .thread k⟩ g th = .ok i := by
  simp [State.fetch, hblock, hdecode, Issuer.isFeed]

/-- A thread set that may run and has neither an instruction in progress nor a cause pending executes what it fetches (03 R37). -/
theorem State.agentMove_of_fetch {s : State} {core k : Nat} {g : Group} {th : Thread} {i : Instr} (hrun : s.canRun ⟨core, .thread k⟩ = true)
    (hg : s.group core = some g) (hth : s.agent ⟨core, .thread k⟩ = some th) (hidle : th.prog = Prog.idle) (hsteps : th.stepsLeft ≠ some 0)
    (hcause : th.pendingCause = none) (hfetch : (s.actAs ⟨core, .thread k⟩).fetch ⟨core, .thread k⟩ g th = .ok i) :
    s.agentMove ⟨core, .thread k⟩ = .instr i ((s.actAs ⟨core, .thread k⟩).takeInst ⟨core, .thread k⟩ th i) := by
  simp [State.agentMove, State.isDue_of_idle hth hidle, hg, hth, hrun, hsteps, hcause, State.nextInst_of_idle hidle, hfetch, Issuer.isFeed]

theorem runTurn_of_instr {s u : State} {v w : Who} {i : Instr} (hstopped : s.stopped = false) (hpick : s.pickSet exec v = w)
    (hmove : s.agentMove w = .instr i u) : runTurn (.agent v) s = exec i u := by
  simp [runTurn, hstopped, hpick, hmove]

/-- Settles O1: the picked thread set's fetch gives the instruction that its bytes decode to, and its turn executes that one. -/
theorem stepRunsDecoded : Obligations.StepRunsDecoded := by
  unfold Obligations.StepRunsDecoded
  intro s v core k g th block rest i w u code hturn hpick hrun hg hth hidle hsteps hcause hblock hdecode hfits
  have hfetch : u.fetch w g th = .ok i := State.fetch_of_codeBlock hblock (decodeAt_of_decode hdecode hfits)
  rw [step, hturn]
  exact runTurn_of_instr (State.stopped_of_canRun hrun) hpick (State.agentMove_of_fetch hrun hg hth hidle hsteps hcause hfetch)

end Sys2Proof.Machine

namespace Sys2Proof.Machine

/-! # Exact values and their rounding (06 R87, R101) -/

/-! ## A magnitude between two multiples -/

theorem Ex.roundAt_of_le {x : Ex} {q : Int} (h : q ≤ x.e) (mode : RMode) : x.roundAt mode q = (x.m * 2 ^ (x.e - q).toNat, x.more) :=
  if_pos h

/-- An exact magnitude that is a multiple of 2^q is itself in every mode. -/
theorem Ex.roundAt_of_multiple {neg : Bool} {m : Nat} {e q : Int} (h : e < q) (hrest : m % 2 ^ (q - e).toNat = 0) (mode : RMode) :
    (Ex.mk neg m e false).roundAt mode q = (m / 2 ^ (q - e).toNat, false) := by
  simp [Ex.roundAt, Int.not_le.mpr h, hrest]

/-- Another goes to a neighbour, the one that the mode names, and is inexact. -/
theorem Ex.roundAt_of_between {neg : Bool} {m : Nat} {e q : Int} (h : e < q) (hrest : m % 2 ^ (q - e).toNat ≠ 0) (mode : RMode) :
    (Ex.mk neg m e false).roundAt mode q =
      (if roundsUp mode neg (m / 2 ^ (q - e).toNat) (m % 2 ^ (q - e).toNat) (q - e).toNat false then m / 2 ^ (q - e).toNat + 1
        else m / 2 ^ (q - e).toNat, true) := by
  simp [Ex.roundAt, Int.not_le.mpr h, hrest]

/-- A mode to nearest goes down only where the rest is no more than half, and up only where it is no less. -/
theorem roundsUp_nearest {mode : RMode} (hmode : mode = .rne ∨ mode = .rmm) (neg : Bool) (lo rest sh : Nat) (more : Bool) :
    if roundsUp mode neg lo rest sh more then 2 ^ sh ≤ 2 * rest else 2 * rest ≤ 2 ^ sh := by
  rcases hmode with rfl | rfl
  · by_cases hhalf : 2 * rest = 2 ^ sh
    · simp [hhalf]
    · have hup : roundsUp .rne neg lo rest sh more = decide (2 ^ sh < 2 * rest) := by simp [roundsUp, hhalf]
      rw [hup]
      by_cases hmore : 2 ^ sh < 2 * rest
      · simp only [hmore, decide_true, if_true]; omega
      · simp only [hmore, decide_false, Bool.false_eq_true, if_false]; omega
  · simp only [roundsUp, decide_eq_true_eq]
    split <;> omega

/-- At a tie RNE goes up from an odd multiple, and RMM always. -/
theorem roundsUp_rne_tie (neg : Bool) (lo : Nat) {rest sh : Nat} (h : 2 * rest = 2 ^ sh) :
    roundsUp .rne neg lo rest sh false = decide (lo % 2 = 1) := by
  simp only [roundsUp, h, Nat.lt_irrefl, decide_false, Bool.false_or, beq_self_eq_true, Bool.true_and]; rfl

theorem roundsUp_rmm_tie (neg : Bool) (lo : Nat) {rest sh : Nat} (h : 2 * rest = 2 ^ sh) : roundsUp .rmm neg lo rest sh false = true := by
  simp [roundsUp, h]

/-- A neighbour that the rest is at most half away from is at most half a multiple away. -/
theorem neighbour_within_half {m one : Nat} {up : Prop} [Decidable up] (h : if up then one ≤ 2 * (m % one) else 2 * (m % one) ≤ one)
    (hone : 0 < one) : let r := if up then m / one + 1 else m / one
    2 * r * one ≤ 2 * m + one ∧ 2 * m ≤ 2 * r * one + one := by
  have hm : m / one * one + m % one = m := Nat.div_add_mod' m one
  have hrest : m % one < one := Nat.mod_lt _ hone
  split at h
  · next hup => simp only [hup, if_true, Nat.mul_assoc, Nat.add_mul, Nat.one_mul]; omega
  · next hup => simp only [hup, if_false, Nat.mul_assoc]; omega

/-! ## A value of the format -/

/-- Bits are their sign, exponent and fraction. -/
theorem Fp.signed_fields {f : Fp} {bits : Nat} (h : bits < 2 ^ f.width) :
    f.signed (bits / 2 ^ (f.ebits + f.fbits) % 2 == 1) (bits / 2 ^ f.fbits % 2 ^ f.ebits * 2 ^ f.fbits + bits % 2 ^ f.fbits) = bits := by
  have hsign : bits / 2 ^ (f.ebits + f.fbits) < 2 := by
    rw [Nat.div_lt_iff_lt_mul (Nat.two_pow_pos _), ← Nat.pow_succ']
    have hwidth : f.width = (f.ebits + f.fbits).succ := by rw [Fp.width]; omega
    rwa [hwidth] at h
  have hnat : natOf (bits / 2 ^ (f.ebits + f.fbits) % 2 == 1) = bits / 2 ^ (f.ebits + f.fbits) := by
    have hbit : ∀ b, b < 2 → natOf (b == 1) = b := by decide
    rw [Nat.mod_eq_of_lt hsign, hbit _ hsign]
  have hhigh : bits / 2 ^ f.fbits / 2 ^ f.ebits = bits / 2 ^ (f.ebits + f.fbits) := by
    rw [Nat.div_div_eq_div_mul, ← Nat.pow_add, Nat.add_comm]
  have hlow := Nat.div_add_mod' bits (2 ^ f.fbits)
  have hmid := Nat.div_add_mod' (bits / 2 ^ f.fbits) (2 ^ f.ebits)
  rw [hhigh] at hmid
  have hfields : bits / 2 ^ (f.ebits + f.fbits) * 2 ^ (f.ebits + f.fbits) + bits / 2 ^ f.fbits % 2 ^ f.ebits * 2 ^ f.fbits =
      bits / 2 ^ f.fbits * 2 ^ f.fbits := by
    rw [Nat.pow_add, ← Nat.mul_assoc, ← Nat.add_mul, ← Nat.pow_add, hmid]
  rw [Fp.signed, hnat]
  omega

/-- A finite magnitude at the exponent of its own last place rounds to its bits in every mode, with no condition. -/
theorem Fp.round_of_last_place {f : Fp} {m : Nat} {e : Int} (neg : Bool)
    (hplace : max (e + (Nat.log2 m : Nat) - f.fbits) (f.emin - f.fbits) = e)
    (hfin : (e - (f.emin - f.fbits)).toNat * 2 ^ f.fbits + m < f.infBits) (mode : RMode) :
    f.round mode { neg := neg, m := m, e := e, more := false } = (f.signed neg ((e - (f.emin - f.fbits)).toNat * 2 ^ f.fbits + m), 0) := by
  have hround : (Ex.mk neg m e false).roundAt mode e = (m, false) := by simp [Ex.roundAt_of_le]
  simp only [Fp.round, Ex.top, hplace, hround, if_neg (Nat.not_le.mpr hfin)]
  simp [flagIf]

theorem Fp.round_subnormal {f : Fp} {fr : Nat} (neg : Bool) (hfr : fr ≠ 0) (hlt : fr < 2 ^ f.fbits) (hexp : 2 ≤ 2 ^ f.ebits) (mode : RMode) :
    f.round mode { neg := neg, m := fr, e := f.emin - f.fbits, more := false } = (f.signed neg fr, 0) := by
  have hlog : Nat.log2 fr < f.fbits := (Nat.log2_lt hfr).mpr hlt
  have hfin : fr < f.infBits := Nat.lt_of_lt_of_le hlt (Nat.le_mul_of_pos_left _ (by omega))
  rw [Fp.round_of_last_place neg (by omega) (by simpa using hfin)]
  simp

theorem Fp.round_normal {f : Fp} {ex fr : Nat} (neg : Bool) (hex : ex ≠ 0) (hmax : ex + 1 < 2 ^ f.ebits) (hlt : fr < 2 ^ f.fbits) (mode : RMode) :
    f.round mode { neg := neg, m := 2 ^ f.fbits + fr, e := f.emin - f.fbits + (ex - 1 : Nat), more := false } =
      (f.signed neg (ex * 2 ^ f.fbits + fr), 0) := by
  have hlog : Nat.log2 (2 ^ f.fbits + fr) = f.fbits := (Nat.log2_eq_iff (by omega)).mpr ⟨by omega, by omega⟩
  have hplaces : (f.emin - f.fbits + (ex - 1 : Nat) - (f.emin - f.fbits)).toNat = ex - 1 := by omega
  have hbits : (ex - 1) * 2 ^ f.fbits + (2 ^ f.fbits + fr) = ex * 2 ^ f.fbits + fr := by
    obtain ⟨k, rfl⟩ := Nat.exists_eq_succ_of_ne_zero hex
    rw [Nat.succ_sub_one, Nat.succ_mul, Nat.add_assoc]
  have hfin : ex * 2 ^ f.fbits + fr < f.infBits :=
    calc ex * 2 ^ f.fbits + fr < (ex + 1) * 2 ^ f.fbits := by rw [Nat.add_mul]; omega
      _ ≤ f.infBits := Nat.mul_le_mul_right _ (by omega)
  rw [Fp.round_of_last_place neg (by omega) (by rw [hplaces, hbits]; exact hfin), hplaces, hbits]

/-- Bits below 2^width read as a NaN, or as the infinity, zero, subnormal or normal of their fields. -/
theorem Fp.read_cases {f : Fp} {bits : Nat} (h : bits < 2 ^ f.width) :
    (∃ sig, f.read bits = .nan sig) ∨ ∃ neg ex fr, bits = f.signed neg (ex * 2 ^ f.fbits + fr) ∧ fr < 2 ^ f.fbits ∧
      ((ex = 2 ^ f.ebits - 1 ∧ fr = 0 ∧ f.read bits = .inf neg) ∨ (ex = 0 ∧ fr = 0 ∧ f.read bits = .zero neg) ∨
       (ex = 0 ∧ fr ≠ 0 ∧ f.read bits = .fin neg fr (f.emin - f.fbits)) ∨
       (ex ≠ 0 ∧ ex + 1 < 2 ^ f.ebits ∧ f.read bits = .fin neg (2 ^ f.fbits + fr) (f.emin - f.fbits + (ex - 1 : Nat)))) := by
  have hbits := Fp.signed_fields h
  have hfr : bits % 2 ^ f.fbits < 2 ^ f.fbits := Nat.mod_lt _ (Nat.two_pow_pos _)
  have hex : bits / 2 ^ f.fbits % 2 ^ f.ebits < 2 ^ f.ebits := Nat.mod_lt _ (Nat.two_pow_pos _)
  unfold Fp.read
  generalize (bits / 2 ^ (f.ebits + f.fbits) % 2 == 1) = neg at *
  generalize bits / 2 ^ f.fbits % 2 ^ f.ebits = ex at *
  generalize bits % 2 ^ f.fbits = fr at *
  by_cases hmax : ex = 2 ^ f.ebits - 1
  · by_cases hzero : fr = 0
    · exact .inr ⟨neg, ex, fr, hbits.symm, hfr, .inl ⟨hmax, hzero, by simp [hmax, hzero]⟩⟩
    · exact .inl ⟨_, by simp only [hmax, hzero, beq_iff_eq, if_true, if_false]; rfl⟩
  · refine .inr ⟨neg, ex, fr, hbits.symm, hfr, .inr ?_⟩
    by_cases hsub : ex = 0
    · by_cases hzero : fr = 0
      · exact .inl ⟨hsub, hzero, by subst hsub; simp [hmax, hzero]⟩
      · exact .inr (.inl ⟨hsub, hzero, by subst hsub; simp [hmax, hzero]⟩)
    · exact .inr (.inr ⟨hsub, by omega, by simp [hmax, hsub]⟩)

/-- A value that an IEEE format holds, other than a NaN, rounds to its own bits. -/
theorem Fp.ofNum_read {f : Fp} {bits : Nat} (h : bits < 2 ^ f.width) (hexp : 2 ≤ 2 ^ f.ebits) (mode : RMode) :
    (∃ sig, f.read bits = .nan sig) ∨ f.ofNum mode (f.read bits) = (bits, 0) := by
  obtain hnan | ⟨neg, ex, fr, hbits, hfr, hread⟩ := Fp.read_cases h
  · exact .inl hnan
  · right
    obtain ⟨rfl, rfl, hread⟩ | ⟨rfl, rfl, hread⟩ | ⟨rfl, hzero, hread⟩ | ⟨hsub, hmax, hread⟩ := hread <;> rw [hread, hbits]
    · rfl
    · simp [Fp.ofNum, Fp.zero]
    · simp [Fp.ofNum, Fp.round_subnormal neg hzero hfr hexp mode]
    · exact Fp.round_normal neg hsub hmax hfr mode

/-- Settles O9: a multiple is itself, another magnitude goes to the neighbour that its mode names, and a value of a format is at the exponent of its
own last place. -/
theorem exactRounding : Obligations.ExactRounding := by
  unfold Obligations.ExactRounding
  refine ⟨fun neg m e q mode h => ?_, fun fmt mode bits h => ?_⟩
  · intro one lo rest r
    have hone : 0 < one := Nat.two_pow_pos _
    by_cases hrest : rest = 0
    · have hr : r = (lo, false) := Ex.roundAt_of_multiple h hrest mode
      have hexact : lo * one = m := Nat.div_mul_cancel (Nat.dvd_of_mod_eq_zero hrest)
      have hdouble : 2 * lo * one = 2 * m := by rw [Nat.mul_assoc, hexact]
      simp [hr, hrest, hdouble, Nat.ne_of_lt hone]
    · have hr : r = (if roundsUp mode neg lo rest (q - e).toNat false then lo + 1 else lo, true) := Ex.roundAt_of_between h hrest mode
      have hneighbour : r.1 = lo ∨ r.1 = lo + 1 := by rw [hr]; dsimp only; split <;> simp
      refine ⟨by simp [hr, hrest], fun hzero => absurd hzero hrest, hneighbour, ?_, ?_, ?_, ?_, fun htie => ⟨?_, ?_⟩⟩
      · rintro rfl; rw [hr]; rfl
      · rintro rfl -; rw [hr]; rfl
      · rintro rfl -; rw [hr]; cases neg <;> rfl
      · intro hmode
        rw [hr]
        exact neighbour_within_half (roundsUp_nearest hmode neg lo rest _ false) hone
      · rintro rfl
        rw [hr, roundsUp_rne_tie neg lo htie]
        by_cases hodd : lo % 2 = 1
        · simp only [hodd, decide_true, if_true]; omega
        · simp only [hodd, decide_false, Bool.false_eq_true, if_false]; omega
      · rintro rfl
        rw [hr, roundsUp_rmm_tie neg lo htie]; rfl
  · intro f
    obtain ⟨sig, hnan⟩ | hsame := Fp.ofNum_read h (by cases fmt <;> decide) mode
    · rw [hnan]; rfl
    · split
      · next hnan => rw [hnan]; rfl
      · exact hsame

end Sys2Proof.Machine

namespace Sys2Proof.Machine

/-! # Core death, flag unions and event bits (06 R105, 09 R180, 17 R294, 26 R435)

A core that is declared dead has every entry LOST before its homes serve what waits (`State.lost_loseWords`), and serving records none of its words
again but as LOST, since a registration that waits names the incarnation that the declaration has ended (`Serving.lost`). -/

/-! ## The entries of a dead core -/

/-- Every entry of a core in a slice's table is LOST. -/
def Slice.Lost (c : Nat) (sl : Slice) : Prop := ∀ e ∈ sl.table, e.owner = c → e.lost = true

/-- No request of `R` registers a word for the core as it is now incarnated. -/
def State.NoneCurrent (c : Nat) (R : HomeReq → Prop) (s : State) : Prop := ∀ m, R (.reg m) → m.core = c → m.inc ≠ (s.core c).inc

theorem Slice.Lost.free {c : Nat} {sl : Slice} (h : sl.Lost c) (word : Nat) : (sl.free word).Lost c :=
  fun e he => h e (List.mem_filter.mp he).1

theorem State.slice_loseWords (s : State) (c h : Nat) : (s.loseWords c).slice h =
    { s.slice h with table := (s.slice h).table.map fun e => if e.owner == c then { e with lost := true, asked := false } else e } := by
  simp only [State.loseWords, State.slice, mapVals]
  rw [find_map_keyed fun _ (sl : Slice) =>
    { sl with table := sl.table.map fun e => if e.owner == c then { e with lost := true, asked := false } else e }]
  cases find s.slices h <;> rfl

theorem State.lost_loseWords (s : State) (c h : Nat) : ((s.loseWords c).slice h).Lost c := by
  rw [State.slice_loseWords]
  intro e he hown
  obtain ⟨x, -, rfl⟩ := List.mem_map.mp he
  by_cases hx : x.owner = c
  · simp [hx]
  · simp [hx] at hown

/-! ## What a home that serves `R` keeps of core `c` -/

/-- Homes that serve requests of `R` change nothing of core `c` but its cached lines, and fill none; they queue nothing new, and where no request of
`R` is current, every entry of `c` stays LOST. -/
structure Serving (c : Nat) (R : HomeReq → Prop) (s t : State) : Prop where
  core  : t.core c = { s.core c with cache := (t.core c).cache, pooled := (t.core c).pooled }
  cache : (s.core c).cache = [] → (t.core c).cache = []
  queue : ∀ h, ∀ r ∈ (t.slice h).queue, r ∈ (s.slice h).queue
  lost  : s.NoneCurrent c R → (∀ h, (s.slice h).Lost c) → ∀ h, (t.slice h).Lost c

section
variable {c : Nat} {R : HomeReq → Prop} {s t u : State}

theorem Serving.inc (h : Serving c R s t) : (t.core c).inc = (s.core c).inc := by rw [h.core]

theorem Serving.of_same (hc : t.cores = s.cores) (hs : t.slices = s.slices) : Serving c R s t := by
  have hcore : t.core c = s.core c := by rw [State.core, State.core, hc]
  have hslice : ∀ h, t.slice h = s.slice h := fun h => by rw [State.slice, State.slice, hs]
  exact ⟨by rw [hcore], by simp [hcore], by simp [hslice], by simp [hslice]⟩

theorem Serving.refl (s : State) : Serving c R s s := .of_same rfl rfl

theorem Serving.trans (h : Serving c R s t) (k : Serving c R t u) : Serving c R s u where
  core := by rw [k.core, h.core]
  cache := k.cache ∘ h.cache
  queue j r := h.queue j r ∘ k.queue j r
  lost hR hs := k.lost (by simpa [State.NoneCurrent, h.inc] using hR) (h.lost hR hs)

/-- A slice that queues nothing new is replaced in a state that a home has come to. -/
theorem Serving.setSlice (h : Serving c R s t) (k : Nat) {v : Slice} (hqueue : ∀ r ∈ v.queue, r ∈ (s.slice k).queue)
    (hlost : t.NoneCurrent c R → (t.slice k).Lost c → v.Lost c) : Serving c R s (t.setSlice k v) where
  core := h.core
  cache := h.cache
  queue j := by
    rw [State.slice_setSlice]
    split
    · next hj => subst hj; exact hqueue
    · exact h.queue j
  lost hR hs j := by
    rw [State.slice_setSlice]
    split
    · exact hlost (by simpa [State.NoneCurrent, h.inc] using hR) (h.lost hR hs k)
    · exact h.lost hR hs j

theorem Serving.send (s : State) (m : Msg) : Serving c R s (s.send m) := .of_same rfl rfl

theorem Serving.recall (s : State) (pa : Nat) : Serving c R s (s.recall pa) := by
  unfold State.recall
  split
  · exact .refl s
  · dsimp only
    split <;> exact .of_same rfl rfl

theorem Serving.poke (s : State) (pa n v : Nat) : Serving c R s (s.poke pa n v) := (Serving.recall s pa).trans (.of_same rfl rfl)

theorem Serving.answerReg (s : State) (m : RegMsg) (ms : List Msg) : Serving c R s (s.answerReg m ms) := by
  unfold State.answerReg
  split <;> exact .of_same rfl rfl

theorem Serving.answerStore (s : State) (m : StoreMsg) (r : Msg) : Serving c R s (s.answerStore m r) := by
  unfold State.answerStore
  split <;> exact .of_same rfl rfl

theorem Serving.mergeEcc (s : State) (m : RegMsg) : Serving c R s (s.mergeEcc m) := by
  unfold State.mergeEcc
  split
  · split <;> exact .of_same rfl rfl
  · exact .refl s

/-- Asking an owner for its word marks entries as asked, and none as found. -/
theorem Serving.askOwner (s : State) (e : REnt) (force : Bool) : Serving c R s (s.askOwner e force) := by
  have hset : ∀ k forced, Serving c R s (s.setSlice k { s.slice k with
      table := (s.slice k).table.map fun x => if x.word == e.word then { x with asked := true } else x, forced := forced }) := by
    refine fun k forced => .setSlice (.refl s) k (fun _ => id) fun _ hold x hx hown => ?_
    obtain ⟨y, hy, rfl⟩ := List.mem_map.mp hx
    have hsame : y.owner = c → y.lost = true := hold y hy
    by_cases hword : y.word = e.word
    · simp only [hword, beq_self_eq_true, if_true] at hown ⊢; exact hsame hown
    · simp only [hword, beq_iff_eq, if_false] at hown ⊢; exact hsame hown
  unfold State.askOwner
  split
  · exact .refl s
  · exact (hset _ _).trans (.send _ _)

/-- A registration's entry takes the place of the word's, LOST where its core has been declared dead since. -/
theorem Serving.enter (s : State) {m : RegMsg} (hm : R (.reg m)) (k : Nat) (e : REnt) (howner : e.owner = m.core)
    (hlost : e.lost = (m.inc != (s.core m.core).inc)) :
    Serving c R s (s.setSlice k { (s.slice k).free (m.pa / 8) with table := ((s.slice k).free (m.pa / 8)).table ++ [e] }) := by
  refine .setSlice (.refl s) k (fun _ => id) fun hR hold x hx hown => ?_
  rcases List.mem_append.mp hx with hx | hx
  · exact hold.free _ x hx hown
  · obtain rfl := List.mem_singleton.mp hx
    have hcore : m.core = c := howner.symm.trans hown
    rw [hlost, hcore]
    exact bne_iff_ne.mpr (hR m hm hcore)

theorem Serving.record (s : State) {m : RegMsg} (hm : R (.reg m)) : Serving c R s (s.record m) :=
  (Serving.recall s m.pa).trans ((Serving.enter _ hm _ _ rfl rfl).trans ((Serving.answerReg _ m _).trans (.mergeEcc _ m)))

/-- Another value for a core's cached lines, none where there was none. -/
theorem Serving.setCore (s : State) (j : Nat) {k : Core} (hk : ∃ lines pooled, k = { s.core j with cache := lines, pooled := pooled })
    (hcache : (s.core j).cache = [] → k.cache = []) : Serving c R s (s.setCore j k) where
  core := by
    rw [State.core_setCore]
    split
    · next hj => subst hj; obtain ⟨_, _, rfl⟩ := hk; rfl
    · rfl
  cache := by
    rw [State.core_setCore]
    split
    · next hj => subst hj; exact hcache
    · exact id
  queue _ _ := id
  lost _ := id

theorem Core.setCword_only (k : Core) (pa : Nat) (w : CWord) : k.setCword pa w = { k with cache := (k.setCword pa w).cache } := by
  unfold Core.setCword
  split <;> rfl

theorem Core.setCword_cache_nil {k : Core} (h : k.cache = []) (pa : Nat) (w : CWord) : (k.setCword pa w).cache = [] := by
  simp [Core.setCword, h, find]

theorem Serving.dropWord (s : State) (core pa : Nat) : Serving c R s (s.dropWord core pa) := by
  refine .trans (t := s.noFill core fun p => p / 8 == pa / 8) (.of_same rfl rfl) ?_
  unfold State.dropWord
  generalize s.noFill core _ = u
  extract_lets _ k l
  obtain ⟨p, hl⟩ : ∃ p, l = { k with pooled := p } := by unfold l; split <;> exact ⟨_, rfl⟩
  have hcache : k.cache = [] → l.cache = [] := by rw [hl]; exact id
  have hsame : Serving c R u (u.setCore core l) := .setCore u core ⟨_, _, hl⟩ hcache
  split
  · split
    · exact .setCore u core ⟨_, _, by rw [Core.setCword_only, hl]⟩ fun h => Core.setCword_cache_nil (hcache h) pa _
    · exact hsame
  · exact hsame

end

/-! ## Requests that homes serve -/

/-- The state that a request leaves, served or not. -/
def Tried.state (x : Tried) : State :=
  match x with
  | .done s | .wait s => s

section
variable {c : Nat} {R : HomeReq → Prop}

theorem Serving.tryReg (s : State) {m : RegMsg} (hm : R (.reg m)) : Serving c R s (s.tryReg m).state := by
  unfold State.tryReg
  split
  · split
    · split
      · exact .answerReg s m _
      · exact .record s hm
    · split
      · exact .trans (.answerReg s m _) (.mergeEcc _ m)
      · exact .askOwner s _ _
  · dsimp only
    split
    · exact .record s hm
    · split
      · exact .askOwner s _ _
      · exact .refl s

theorem Serving.tryAmo (s : State) (m : AmoMsg) : Serving c R s (s.tryAmo m).state := by
  unfold State.tryAmo
  split
  · split
    · exact .send s _
    · exact .askOwner s _ _
  · split
    · exact .send s _
    · exact .trans (.trans (.trans (.recall s m.pa) (.poke _ _ _ _)) (.dropWord _ _ _)) (.send _ _)

theorem Serving.tryStore (s : State) (m : StoreMsg) : Serving c R s (s.tryStore m).state := by
  have hwrite : ∀ t : State, Serving c R t ((t.poke m.pa m.n m.data.toNat).answerStore m m.ack) :=
    fun t => .trans (.poke t _ _ _) (.answerStore _ m _)
  unfold State.tryStore
  split
  · split
    · split
      · have hfree : Serving c R s (s.setSlice (s.homeOf m.pa) ((s.slice (s.homeOf m.pa)).free (m.pa / 8))) :=
          .setSlice (.refl s) _ (fun _ => id) fun _ hold => hold.free _
        exact hfree.trans (hwrite _)
      · exact .answerStore s m _
    · split
      · exact .askOwner s _ _
      · exact hwrite s
  · exact hwrite s

theorem Serving.try_ (s : State) {r : HomeReq} (hr : R r) : Serving c R s (s.try_ r).state := by
  cases r with
  | reg m => exact .tryReg s hr
  | amo m => exact .tryAmo s m
  | store m => exact .tryStore s m

theorem Serving.serveList (s : State) (held : List Nat) {rs : List HomeReq} (hR : ∀ r ∈ rs, R r) :
    Serving c R s (s.serveList held rs).1 ∧ ∀ r ∈ (s.serveList held rs).2, r ∈ rs := by
  induction rs generalizing s held with
  | nil => exact ⟨.refl s, fun _ => id⟩
  | cons r rest ih =>
    obtain ⟨hr, hrest⟩ := List.forall_mem_cons.mp hR
    have htry : Serving c R s (s.try_ r).state := .try_ s hr
    simp only [State.serveList]
    split
    · obtain ⟨hserve, hleft⟩ := ih s held hrest
      exact ⟨hserve, List.forall_mem_cons.mpr ⟨List.mem_cons_self, fun x hx => List.mem_cons_of_mem r (hleft x hx)⟩⟩
    · split
      · next t ht =>
        obtain ⟨hserve, hleft⟩ := ih t held hrest
        rw [ht] at htry
        exact ⟨htry.trans hserve, fun x hx => List.mem_cons_of_mem r (hleft x hx)⟩
      · next t ht =>
        obtain ⟨hserve, hleft⟩ := ih t (r.word :: held) hrest
        rw [ht] at htry
        exact ⟨htry.trans hserve, List.forall_mem_cons.mpr ⟨List.mem_cons_self, fun x hx => List.mem_cons_of_mem r (hleft x hx)⟩⟩

theorem Serving.serveHome (s : State) (h : Nat) (hR : ∀ r ∈ (s.slice h).queue, R r) : Serving c R s (s.serveHome h) := by
  obtain ⟨hserve, hleft⟩ := Serving.serveList (c := c) s [] hR
  exact hserve.setSlice h hleft fun _ => id

theorem Serving.serveEach (hs : List Nat) {s : State} (hR : ∀ h, ∀ r ∈ (s.slice h).queue, R r) :
    Serving c R s (hs.foldl (fun (s : State) h => s.serveHome h) s) := by
  induction hs generalizing s with
  | nil => exact .refl s
  | cons h rest ih =>
    have hserve : Serving c R s (s.serveHome h) := .serveHome s h (hR h)
    exact hserve.trans (ih fun j r hr => hR j r (hserve.queue j r hr))

/-- Homes serve the requests that wait at one of them. -/
theorem Serving.serveHomes (s : State) : Serving c (fun r => ∃ h, r ∈ (s.slice h).queue) s s.serveHomes :=
  .serveEach _ fun h _ hr => ⟨h, hr⟩

end

/-! ## The declaration of a core with no resident group -/

theorem State.stopAgent_of_empty {s : State} {w : Who} (h : s.group w.core = none) (kept : Bool) : s.stopAgent kept w = s := by
  simp [State.stopAgent, State.agent, h]

theorem State.stopAgents_of_empty {s : State} {c : Nat} (h : s.group c = none) :
    (agentsOf c).foldl (fun (s : State) w => s.stopAgent true w) s = s := by
  simp [agentsOf, State.stopAgent_of_empty, h]

theorem State.core_unparkCore (s : State) (c j : Nat) : (s.unparkCore c).core j = { s.core j with banks := ((s.unparkCore c).core j).banks } := by
  simp only [State.unparkCore, State.core]
  rw [find_map_keyed (fun j (k : Core) => k.mapBanks (Bank.keep fun q => !q.ofCore c j))]
  cases find s.cores j <;> rfl

theorem State.core_refuseUnacked (s : State) (c : Nat) :
    (s.refuseUnacked c).core c = { s.core c with banks := ((s.refuseUnacked c).core c).banks } := by
  have hbanks : (s.refuseUnacked c).core c = (s.core c).mapBanks _ := State.core_setCore_same s c _
  rw [hbanks]; rfl

theorem State.saveDead_of_empty {s : State} {c : Nat} (h : s.group c = none) (unanswered : Bool) : s.saveDead c unanswered = s := by
  simp [State.saveDead, h]

theorem State.forgetAnswers_slices (s : State) (c : Nat) : (s.forgetAnswers c).slices = s.slices := by
  unfold State.forgetAnswers
  dsimp only
  split <;> rfl

theorem State.forgetAnswers_inc (s : State) (c : Nat) : ((s.forgetAnswers c).core c).inc = (s.core c).inc := by
  unfold State.forgetAnswers
  dsimp only
  split
  · rfl
  · rw [State.core_setCore_same]

/-- A core in its next incarnation, empty of lines and translations (R180). -/
def Core.readmitted (k : Core) : Core := { k with inc := k.inc + 1, dead := false, fetch := [], tlb := [], cache := [], pooled := [] }

/-- The homes serve what waits once the core is empty and in its next incarnation; without a group, its entries have become LOST and nothing else of
the slices has changed. -/
theorem State.coreDeath_eq (s : State) (c : Nat) : ∃ u : State,
    s.coreDeath c = (u.setCore c (u.core c).readmitted).serveHomes ∧
    (s.group c = none → (u.core c).inc = (s.core c).inc ∧ u.slices = (s.loseWords c).slices) := by
  refine ⟨_, rfl, fun h => ?_⟩
  rw [State.stopAgents_of_empty h, State.forgetAnswers_inc, State.forgetAnswers_slices]
  have hloses : ((s.unparkCore c).loseWords c).core c = (s.unparkCore c).core c := rfl
  have hgroup : (((s.unparkCore c).loseWords c).refuseUnacked c).group c = none := by
    rw [State.group, State.core_refuseUnacked, hloses, State.core_unparkCore]; exact h
  rw [State.saveDead_of_empty hgroup, State.core_refuseUnacked, hloses, State.core_unparkCore]
  exact ⟨rfl, rfl⟩

/-- What a declaration leaves of the core, whatever ran on it. -/
theorem State.coreDeath_core (s : State) (c : Nat) : ((s.coreDeath c).core c).dead = false ∧ ((s.coreDeath c).core c).cache = [] ∧
    ((s.coreDeath c).core c).tlb = [] ∧ ((s.coreDeath c).core c).fetch = [] := by
  obtain ⟨u, hu, -⟩ := State.coreDeath_eq s c
  rw [hu]
  have hserve := Serving.serveHomes (c := c) (u.setCore c (u.core c).readmitted)
  refine ⟨?_, hserve.cache (by rw [State.core_setCore_same]; rfl), ?_, ?_⟩ <;> rw [hserve.core, State.core_setCore_same] <;> rfl

/-- Without a group, and where every registration of the core that waits is of the incarnation that ends, each of its words is LOST. -/
theorem State.coreDeath_of_empty {s : State} {c : Nat} (hgroup : s.group c = none)
    (hreg : ∀ h r, .reg r ∈ (s.slice h).queue → r.core = c → r.inc = (s.core c).inc) :
    ((s.coreDeath c).core c).inc = (s.core c).inc + 1 ∧ ∀ h, ((s.coreDeath c).slice h).Lost c := by
  obtain ⟨u, hu, hempty⟩ := State.coreDeath_eq s c
  obtain ⟨hinc, hslices⟩ := hempty hgroup
  rw [hu]
  have hslice : ∀ h, u.slice h = (s.loseWords c).slice h := fun h => by rw [State.slice, State.slice, hslices]
  have hserve := Serving.serveHomes (c := c) (u.setCore c (u.core c).readmitted)
  refine ⟨by rw [hserve.inc, State.core_setCore_same, Core.readmitted, hinc], hserve.lost ?_ fun h => ?_⟩
  · rintro m ⟨h, hm⟩ hcore
    rw [State.setCore_slice_of, hslice, State.slice_loseWords] at hm
    rw [State.core_setCore_same, hreg h m hm hcore, Core.readmitted, hinc]
    exact fun hsame => absurd (BitVec.self_eq_add_right.mp hsame) (by decide)
  · rw [State.setCore_slice_of, hslice]
    exact s.lost_loseWords c h

/-! ## The events of a core and of a cluster -/

theorem exec_coreWatchdogExpiry (s : State) {c : Nat} (hc : c < 2048) : exec .coreWatchdogExpiry (s.select c 0) =
    .next (((s.select c 0).setCore c { s.core c with dead := true }).now (.event .coreDeathDeclaration c 0)) :=
  congrArg Host.Outcome.next (if_pos hc)

theorem exec_coreDeathDeclaration (s : State) {c : Nat} (hc : c < 2048) :
    exec .coreDeathDeclaration (s.select c 0) = .next ((s.select c 0).coreDeath c) :=
  congrArg Host.Outcome.next (if_pos hc)

theorem exec_firmwareEventSet (s : State) {cl q : Nat} (hcl : cl < 64) (hq : q < 4) (mask : W64) (on : Bool) :
    exec (.firmwareEventSet cl q mask on) s = .next (if on then s.setEvents cl q mask else s.clearEvents cl q mask) :=
  if_neg (by simp [hcl, hq])

theorem State.setEvents_of_no_waits {s : State} {cl : Nat} (h : (s.cluster cl).waits = []) (q : Nat) (mask : W64) :
    s.setEvents cl q mask = s.setCluster cl { s.cluster cl with ev := vset (s.cluster cl).ev q ((s.cluster cl).quarter q ||| mask) } := by
  simp [State.setEvents, h]

/-- Settles O48: the core's entries are LOST before its homes serve what waits, and what they serve then records no word of it but as LOST. -/
theorem coreDeathAndUnions : Obligations.CoreDeathAndUnions := by
  unfold Obligations.CoreDeathAndUnions
  intro s core cl q mask hcore hcl hq k
  refine ⟨⟨_, exec_coreWatchdogExpiry s hcore, ?_⟩, ⟨_, exec_coreDeathDeclaration s hcore, ?_⟩, rfl,
    fun ha1 => ⟨_, rfl, ?_⟩, fun hwaits => ?_, ?_⟩
  · exact ⟨State.core_setCore_same _ _ _, fun c hc => State.core_setCore_other _ _ hc, rfl, fun _ => ⟨rfl, rfl⟩⟩
  · obtain ⟨hdead, hcache, htlb, hfetch⟩ := (s.select core 0).coreDeath_core core
    exact ⟨hdead, hcache, htlb, hfetch, State.coreDeath_of_empty (s := s.select core 0)⟩
  · refine ⟨?_, fun _ => ⟨rfl, rfl⟩, fun c hc => ?_⟩
    · rw [State.cluster_setCluster_same, ha1]; rfl
    · rw [State.cluster_setCluster, if_neg hc]; rfl
  · rw [exec_firmwareEventSet s hcl hq]
    exact congrArg Host.Outcome.next (State.setEvents_of_no_waits hwaits q mask)
  · exact exec_firmwareEventSet s hcl hq mask false

end Sys2Proof.Machine

namespace Sys2Proof.Machine

/-! # Words at their homes and at their owners (09 R165 to R172, R180 to R182)

A request that arrives at an idle home is the only one to be served there, so what becomes of it is what its own rule says (`State.atHome_of_done`,
`State.atHome_of_wait`); what a home does about a word is read from the word's entry, which no change of the queue touches (`State.setQueue_regEnt`). -/

/-! ## The home of a word -/

/-- The bytes of an aligned word have one home (R164). -/
@[simp] theorem State.homeOf_aligned (s : State) (pa : Nat) : s.homeOf (pa / 8 * 8) = s.homeOf pa := by
  have hdiv : ∀ k, pa / 8 * 8 / (8 * k) = pa / (8 * k) := fun k => by
    rw [← Nat.div_div_eq_div_mul, Nat.mul_div_cancel _ (by decide), Nat.div_div_eq_div_mul]
  have h6 := hdiv 8
  have h9 := hdiv 64
  have h12 := hdiv 512
  have h15 := hdiv 4096
  have h17 := hdiv (2 ^ 14)
  have h36 := hdiv (2 ^ 33)
  simp only [Nat.reduceMul, Nat.reducePow] at h6 h9 h12 h15 h17 h36
  simp only [State.homeOf, State.stackOf, Nat.reducePow, h6, h9, h12, h15, h17, h36]

theorem State.word_of_regEnt {s : State} {pa : Nat} {e : REnt} (h : s.regEnt pa = some e) : e.word = pa / 8 := by
  simpa using List.find?_some h

@[simp] theorem Slice.find?_free (sl : Slice) (word : Nat) : (sl.free word).table.find? (fun e => e.word == word) = none :=
  List.find?_eq_none.mpr fun e he => by simpa [Slice.free] using (List.mem_filter.mp he).2

theorem State.regEnt_setSlice (s : State) (pa : Nat) (v : Slice) :
    (s.setSlice (s.homeOf pa) v).regEnt pa = v.table.find? fun e => e.word == pa / 8 := by
  have hslice : (s.setSlice (s.homeOf pa) v).slice ((s.setSlice (s.homeOf pa) v).homeOf pa) = v := s.slice_setSlice_same _ v
  rw [State.regEnt, hslice]

/-! ## A home of which the host holds no line (24 R402) -/

section
variable {s : State} (hhost : s.host.hdm = [])
include hhost

theorem State.hdmLine_of_no_lines (pa : Nat) : s.hdmLine pa = none := by simp [State.hdmLine, hhost]

theorem State.recall_of_no_lines (pa : Nat) : s.recall pa = s := by simp [State.recall, State.hdmLine_of_no_lines hhost]

theorem State.recallExcl_of_no_lines (pa : Nat) : s.recallExcl pa = s := by simp [State.recallExcl, State.hdmLine_of_no_lines hhost]

theorem State.homeWord_of_no_lines (pa : Nat) : s.homeWord pa = read64 s.mem (pa / 8 * 8) := by
  simp [State.homeWord, State.hdmLine_of_no_lines hhost]

theorem State.poke_of_no_lines (pa n v : Nat) : s.poke pa n v = { s with mem := writeN s.mem pa n v } := by
  simp [State.poke, State.recall_of_no_lines hhost]

end

/-! ## What waits at a home -/

/-- The requests that wait at a home slice are replaced. -/
def State.setQueue (s : State) (h : Nat) (q : List HomeReq) : State := s.setSlice h { s.slice h with queue := q }

@[simp] theorem State.setQueue_net (s : State) (h : Nat) (q : List HomeReq) : (s.setQueue h q).net = s.net := rfl
@[simp] theorem State.setQueue_mem (s : State) (h : Nat) (q : List HomeReq) : (s.setQueue h q).mem = s.mem := rfl
@[simp] theorem State.setQueue_homeOf (s : State) (h : Nat) (q : List HomeReq) (pa : Nat) : (s.setQueue h q).homeOf pa = s.homeOf pa := rfl

@[simp] theorem State.setQueue_queue (s : State) (h : Nat) (q : List HomeReq) : ((s.setQueue h q).slice h).queue = q := by
  rw [State.setQueue, State.slice_setSlice_same]

@[simp] theorem State.setQueue_table (s : State) (h : Nat) (q : List HomeReq) (j : Nat) : ((s.setQueue h q).slice j).table = (s.slice j).table := by
  rw [State.setQueue, State.slice_setSlice]
  split
  · next hj => rw [hj]
  · rfl

@[simp] theorem State.setQueue_regEnt (s : State) (h : Nat) (q : List HomeReq) (pa : Nat) : (s.setQueue h q).regEnt pa = s.regEnt pa := by
  rw [State.regEnt, State.setQueue_table, State.setQueue_homeOf]; rfl

theorem State.serveHome_of_idle {s : State} {h : Nat} (hidle : (s.slice h).queue = []) : s.serveHome h = s.setQueue h [] := by
  rw [State.serveHome, hidle]; rfl

theorem State.serveList_of_done {s t : State} {r : HomeReq} (h : s.try_ r = .done t) : s.serveList [] [r] = (t, []) := by
  simp [State.serveList, h]

theorem State.serveList_of_wait {s t : State} {r : HomeReq} (h : s.try_ r = .wait t) : s.serveList [] [r] = (t, [r]) := by
  simp [State.serveList, h]

section
variable {s t : State} {r : HomeReq} (hidle : (s.slice (s.homeOf (r.word * 8))).queue = [])
include hidle

/-- At an idle home the request that arrives is the only one in the queue. -/
theorem State.atHome_of_idle : s.atHome r = (s.setQueue (s.homeOf (r.word * 8)) [r]).serveHome (s.homeOf (r.word * 8)) := by
  rw [State.atHome, hidle]; rfl

theorem State.atHome_of_done (hserve : (s.setQueue (s.homeOf (r.word * 8)) [r]).try_ r = .done t) :
    s.atHome r = t.setQueue (s.homeOf (r.word * 8)) [] := by
  rw [State.atHome_of_idle hidle, State.serveHome, State.setQueue_queue, State.serveList_of_done hserve]; rfl

theorem State.atHome_of_wait (hserve : (s.setQueue (s.homeOf (r.word * 8)) [r]).try_ r = .wait t) :
    s.atHome r = t.setQueue (s.homeOf (r.word * 8)) [r] := by
  rw [State.atHome_of_idle hidle, State.serveHome, State.setQueue_queue, State.serveList_of_wait hserve]; rfl

end

/-! ## Registrations at the home (R169) -/

theorem State.answerReg_of_current {s : State} {m : RegMsg} (hinc : m.inc = (s.core m.core).inc) (ms : List Msg) :
    s.answerReg m ms = { s with net := s.net ++ ms } := by
  simp [State.answerReg, hinc]

/-- What merge data tell the storing agent is an event that comes next. -/
theorem State.mergeEcc_eq (s : State) (m : RegMsg) : ∃ due, s.mergeEcc m = { s with due := due } := by
  unfold State.mergeEcc
  split
  · split <;> exact ⟨_, rfl⟩
  · exact ⟨_, rfl⟩

@[simp] theorem State.mergeEcc_net (s : State) (m : RegMsg) : (s.mergeEcc m).net = s.net := by
  obtain ⟨due, hdue⟩ := s.mergeEcc_eq m
  rw [hdue]

@[simp] theorem State.mergeEcc_mem (s : State) (m : RegMsg) : (s.mergeEcc m).mem = s.mem := by
  obtain ⟨due, hdue⟩ := s.mergeEcc_eq m
  rw [hdue]

@[simp] theorem State.mergeEcc_regEnt (s : State) (m : RegMsg) (pa : Nat) : (s.mergeEcc m).regEnt pa = s.regEnt pa := by
  obtain ⟨due, hdue⟩ := s.mergeEcc_eq m
  rw [hdue]; rfl

theorem State.mergeEcc_of_storer {s : State} {m : RegMsg} {by_ : Consumer} (hnarrow : m.narrow = true) (hfails : s.stackFails m.pa = true)
    (hinc : m.inc = (s.core m.core).inc) (hby : (s.core m.core).storer m.core m.pa = some by_) :
    s.mergeEcc m = s.now (.event (.eccError (m.pa / 8 * 8) none by_) 0 0) := by
  simp [State.mergeEcc, hnarrow, hfails, hinc, hby]

/-- The entry that the registration of a core in its present incarnation makes. -/
def RegMsg.entry (m : RegMsg) : REnt := { word := m.pa / 8, owner := m.core, inc := m.inc, lost := false, asked := false }

/-- A home with the registration's entry in its table, in place of the word's earlier one. -/
def State.entered (s : State) (m : RegMsg) : State :=
  s.setSlice (s.homeOf m.pa) { (s.slice (s.homeOf m.pa)).free (m.pa / 8) with table := ((s.slice (s.homeOf m.pa)).free (m.pa / 8)).table ++ [m.entry] }

theorem State.entered_regEnt (s : State) (m : RegMsg) : (s.entered m).regEnt m.pa = some m.entry := by
  rw [State.entered, State.regEnt_setSlice, List.find?_append, Slice.find?_free]
  simp [RegMsg.entry]

theorem State.record_of_current {s : State} {m : RegMsg} (hhost : s.host.hdm = []) (hinc : m.inc = (s.core m.core).inc) :
    s.record m = { s.entered m with net := s.net ++ s.ackMsgs m }.mergeEcc m := by
  have hfound : (m.inc != (s.core m.core).inc) = false := by simp [hinc]
  rw [State.record, State.recall_of_no_lines hhost, hfound]
  exact congrArg (fun t : State => t.mergeEcc m) (State.answerReg_of_current (s := s.entered m) hinc _)

section
variable {s : State} {m : RegMsg} (hhost : s.host.hdm = []) (hinc : m.inc = (s.core m.core).inc)
include hhost hinc

theorem State.record_net : (s.record m).net = s.net ++ s.ackMsgs m := by
  rw [State.record_of_current hhost hinc, State.mergeEcc_net]

theorem State.record_mem : (s.record m).mem = s.mem := by
  rw [State.record_of_current hhost hinc, State.mergeEcc_mem]; rfl

theorem State.record_regEnt : (s.record m).regEnt m.pa = some m.entry := by
  rw [State.record_of_current hhost hinc, State.mergeEcc_regEnt]
  exact s.entered_regEnt m

/-- Merge data from a stack that fails are told to the storing agent next (26 R435). -/
theorem State.record_due {by_ : Consumer} (hnarrow : m.narrow = true) (hfails : s.stackFails m.pa = true)
    (hby : (s.core m.core).storer m.core m.pa = some by_) :
    (s.record m).due.head? = some (.event (.eccError (m.pa / 8 * 8) none by_) 0 0) := by
  have hecc := State.mergeEcc_of_storer (s := { s.entered m with net := s.net ++ s.ackMsgs m }) hnarrow hfails hinc hby
  rw [State.record_of_current hhost hinc, hecc]; rfl

end

theorem State.tryReg_of_unregistered {s : State} {m : RegMsg} (hnone : s.regEnt m.pa = none)
    (hroom : (s.slice (s.homeOf m.pa)).table.length < 524288) : s.tryReg m = .done (s.record m) := by
  simp [State.tryReg, hnone, tableSize, hroom]

theorem State.tryReg_of_owned {s : State} {m : RegMsg} {e : REnt} (he : s.regEnt m.pa = some e) (hlost : e.lost = false)
    (howner : e.owner ≠ m.core) : s.tryReg m = .wait (s.askOwner e false) := by
  simp [State.tryReg, he, hlost, howner]

theorem State.askOwner_net {s : State} {e : REnt} (hasked : e.asked = false) :
    (s.askOwner e false).net = s.net ++ [.revoke e.owner (e.word * 8)] := by
  simp [State.askOwner, hasked]

theorem State.askOwner_mem (s : State) (e : REnt) (force : Bool) : (s.askOwner e force).mem = s.mem := by
  unfold State.askOwner
  split <;> rfl

/-! ## AMOs at the home (R172) -/

/-- A dropped copy changes its core, and the loads that would fill it. -/
theorem State.dropWord_eq (s : State) (core pa : Nat) :
    ∃ k, s.dropWord core pa = (s.noFill core fun p => p / 8 == pa / 8).setCore core k := by
  unfold State.dropWord
  extract_lets u k l
  cases l.cword pa with
  | none => exact ⟨_, rfl⟩
  | some x => exact ⟨_, rfl⟩

@[simp] theorem State.dropWord_mem (s : State) (core pa : Nat) : (s.dropWord core pa).mem = s.mem := by
  obtain ⟨k, hk⟩ := s.dropWord_eq core pa
  rw [hk]; rfl

theorem State.dropWord_net (s : State) (core pa : Nat) : (s.dropWord core pa).net = (s.noFill core fun p => p / 8 == pa / 8).net := by
  obtain ⟨k, hk⟩ := s.dropWord_eq core pa
  rw [hk]; rfl

/-- The value that an AMO stores over the one that the home holds. -/
def AmoMsg.result (m : AmoMsg) (old : Nat) : Nat := m.op.apply (8 * m.n) old (m.b.toNat % 2 ^ (8 * m.n)) (m.c.toNat % 2 ^ (8 * m.n))

/-- The home performs an AMO, drops the issuing core's copy and answers the old value. -/
def State.updated (s : State) (m : AmoMsg) : State :=
  ({ s with mem := writeN s.mem m.pa m.n (m.result (readN s.mem m.pa m.n)) }.dropWord m.who.core m.pa).send
    (.amoRep m.who (some m.pa) m.seq [0] (.ok [(0, w64 (readN s.mem m.pa m.n))]))

theorem State.updated_mem (s : State) (m : AmoMsg) : (s.updated m).mem = writeN s.mem m.pa m.n (m.result (readN s.mem m.pa m.n)) := by
  rw [State.updated, State.send_mem, State.dropWord_mem]

theorem State.updated_net (s : State) (m : AmoMsg) : (s.updated m).net = (s.noFill m.who.core fun p => p / 8 == m.pa / 8).net ++
    [.amoRep m.who (some m.pa) m.seq [0] (.ok [(0, w64 (readN s.mem m.pa m.n))])] := by
  rw [State.updated, State.send_net, State.dropWord_net]; rfl

theorem State.tryAmo_of_failed {s : State} {m : AmoMsg} (hnone : s.regEnt m.pa = none) (hfails : s.stackFails m.pa = true) :
    s.tryAmo m = .done (s.send (.amoRep m.who (some m.pa) m.seq [0] (.trap .ecc (w64 (m.pa / 8 * 8))))) := by
  simp [State.tryAmo, hnone, hfails]

theorem State.tryAmo_of_unregistered {s : State} {m : AmoMsg} (hhost : s.host.hdm = []) (hnone : s.regEnt m.pa = none)
    (hholds : s.stackFails m.pa = false) :
    s.tryAmo m = .done (s.updated m) := by
  simp [State.tryAmo, hnone, hholds, State.recall_of_no_lines hhost, State.poke_of_no_lines hhost, State.updated, AmoMsg.result]

/-! ## Stores at the home (R182) -/

/-- The home performs a store of a core in its present incarnation and acknowledges it. -/
def State.stored (s : State) (m : StoreMsg) : State := { s with mem := writeN s.mem m.pa m.n m.data.toNat }.send m.ack

theorem State.answerStore_poke {s : State} {m : StoreMsg} (hhost : s.host.hdm = []) (hinc : m.inc = (s.core m.who.core).inc) :
    (s.poke m.pa m.n m.data.toNat).answerStore m m.ack = s.stored m := by
  rw [State.poke_of_no_lines hhost, State.answerStore]
  exact if_pos (beq_iff_eq.mpr hinc)

theorem State.tryStore_of_unregistered {s : State} {m : StoreMsg} (hhost : s.host.hdm = []) (hinc : m.inc = (s.core m.who.core).inc)
    (hnone : s.regEnt m.pa = none) : s.tryStore m = .done (s.stored m) := by
  simp [State.tryStore, hnone, State.answerStore_poke hhost hinc]

/-- An untracked store leaves the registration of its word, and is performed all the same. -/
theorem State.tryStore_of_untracked {s : State} {m : StoreMsg} {e : REnt} (hhost : s.host.hdm = []) (hinc : m.inc = (s.core m.who.core).inc)
    (he : s.regEnt m.pa = some e) (hlost : e.lost = false) (huntracked : m.tracked = false) : s.tryStore m = .done (s.stored m) := by
  simp [State.tryStore, he, hlost, huntracked, State.answerStore_poke hhost hinc]

/-! ## The requests' events -/

/-- A message that the home drops leaves the net and memory as they are and is counted (R180). -/
theorem exec_counts_of_dropStale {i : Instr} {s s0 : State} {pa : Nat} (h : exec i s = .next (s0.dropStale pa)) :
    ∃ t, exec i s = .next t ∧ t.net = s0.net ∧ t.mem = s0.mem ∧ (t.slice (s0.homeOf pa)).stale = (s0.slice (s0.homeOf pa)).stale + 1 :=
  ⟨_, h, rfl, rfl, by rw [State.dropStale, State.slice_setSlice_same]⟩

section
variable {s s0 : State} {m : LoadMsg} (htake : s.takeMsg = some (.loadReq m, s0)) (hmem : isHost m.pa = false)
include htake hmem

theorem exec_homeLoadRequest_of_stale (hinc : m.inc ≠ (s0.core m.who.core).inc) : exec .homeLoadRequest s = .next (s0.dropStale m.pa) := by
  change execHomeLoadRequest s = _
  simp [execHomeLoadRequest, event, htake, hmem, hinc]

theorem exec_homeLoadRequest_of_unregistered (hhost : s0.host.hdm = []) (hinc : m.inc = (s0.core m.who.core).inc) (hnone : s0.regEnt m.pa = none) :
    exec .homeLoadRequest s = .next (s0.send (.loadRep m (s0.homeReply m))) := by
  change execHomeLoadRequest s = _
  simp [execHomeLoadRequest, event, htake, hmem, hinc, hnone, State.recallExcl_of_no_lines hhost]

theorem exec_homeLoadRequest_of_registered (hinc : m.inc = (s0.core m.who.core).inc) {e : REnt} (he : s0.regEnt m.pa = some e) :
    exec .homeLoadRequest s = .next (s0.send (if e.lost then .loadRep m (.trap .ownerLost m.va)
      else if m.untracked then .loadRep m (s0.homeReply m) else .fwdLoad m e.owner)) := by
  change execHomeLoadRequest s = _
  simp only [execHomeLoadRequest, event, htake, hmem, hinc, he, bne_self_eq_false, Bool.false_eq_true, if_false]
  split
  · rfl
  · split <;> rfl

end

theorem State.homeReply_of_no_lines {s : State} (hhost : s.host.hdm = []) (m : LoadMsg) : s.homeReply m =
    if s.stackFails m.pa = true then .trap .ecc (w64 (m.pa / 8 * 8)) else .ok [(m.k, read64 s.mem (m.pa / 8 * 8))] := by
  rw [State.homeReply, State.homeWord_of_no_lines hhost]

section
variable {s s0 : State} {m : RegMsg} (htake : s.takeMsg = some (.registration m, s0))
include htake

theorem exec_homeRegistration_of_stale (hinc : m.inc ≠ (s0.core m.core).inc) : exec .homeRegistration s = .next (s0.dropStale m.pa) := by
  change execHomeRegistration s = _
  simp [execHomeRegistration, event, htake, hinc]

theorem exec_homeRegistration_of_current (hinc : m.inc = (s0.core m.core).inc) : exec .homeRegistration s = .next (s0.atHome (.reg m)) := by
  change execHomeRegistration s = _
  simp [execHomeRegistration, event, htake, hinc]

end

section
variable {s s0 : State} {m : AmoMsg} (htake : s.takeMsg = some (.amo m, s0)) (hmem : isHost m.pa = false)
include htake hmem

theorem exec_homeAmo_of_stale (hinc : m.inc ≠ (s0.core m.who.core).inc) : exec .homeAmo s = .next (s0.dropStale m.pa) := by
  change execHomeAmo s = _
  simp [execHomeAmo, event, htake, hmem, hinc]

theorem exec_homeAmo_of_current (hinc : m.inc = (s0.core m.who.core).inc) : exec .homeAmo s = .next (s0.atHome (.amo m)) := by
  change execHomeAmo s = _
  simp [execHomeAmo, event, htake, hmem, hinc]

end

section
variable {s s0 : State} {m : StoreMsg} (htake : s.takeMsg = some (.ustore m, s0))
include htake

theorem exec_untrackedStoreAtHome_of_stale (hinc : m.inc ≠ (s0.core m.who.core).inc) :
    exec .untrackedStoreAtHome s = .next (s0.dropStale m.pa) := by
  change execUntrackedStoreAtHome s = _
  simp [execUntrackedStoreAtHome, event, htake, hinc]

theorem exec_untrackedStoreAtHome_of_tracked (hmem : isHost m.pa = false) (hinc : m.inc = (s0.core m.who.core).inc) (htracked : m.tracked = true) :
    exec .untrackedStoreAtHome s = .next (s0.atHome (.store m)) := by
  change execUntrackedStoreAtHome s = _
  simp [execUntrackedStoreAtHome, event, htake, hmem, hinc, htracked]

/-- An untracked store with none of its core's stores to the word before it is served when it arrives (10 R193). -/
theorem exec_untrackedStoreAtHome_of_untracked (hmem : isHost m.pa = false) (hinc : m.inc = (s0.core m.who.core).inc) (huntracked : m.tracked = false)
    (hfirst : ∀ x ∈ (s0.slice (s0.homeOf m.pa)).queue, x.storeOf m.who.core m.pa = false) {t : State} (hserve : s0.tryStore m = .done t) :
    exec .untrackedStoreAtHome s = .next t := by
  have hnone : ((s0.slice (s0.homeOf m.pa)).queue.any fun r => r.storeOf m.who.core m.pa) = false := by simpa using hfirst
  change execUntrackedStoreAtHome s = _
  simp [execUntrackedStoreAtHome, event, htake, hmem, hinc, huntracked, hnone, hserve]

end

/-! ## The requests at an idle home -/

section
variable {s s0 : State} {m : RegMsg} (htake : s.takeMsg = some (.registration m, s0)) (hhost : s0.host.hdm = [])
  (hinc : m.inc = (s0.core m.core).inc) (hidle : (s0.slice (s0.homeOf (m.pa / 8 * 8))).queue = [])
include htake hinc hidle

include hhost in
theorem exec_homeRegistration_records (hnone : s0.regEnt m.pa = none) (hroom : (s0.slice (s0.homeOf (m.pa / 8 * 8))).table.length < 524288) :
    ∃ t, exec .homeRegistration s = .next t ∧ t.mem = s0.mem ∧ t.regEnt m.pa = some m.entry ∧
      t.net = s0.net ++ (if m.narrow then [.mergeData m.core (m.pa / 8 * 8) (read64 s0.mem (m.pa / 8 * 8))] else []) ++
        [.regAck m.core (m.pa / 8 * 8)] ∧
      (m.narrow = true → s0.stackFails m.pa = true → ∀ by_, (s0.core m.core).storer m.core m.pa = some by_ →
        t.due.head? = some (.event (.eccError (m.pa / 8 * 8) none by_) 0 0)) := by
  have hserve := State.tryReg_of_unregistered (s := s0.setQueue (s0.homeOf (m.pa / 8 * 8)) [.reg m])
    ((State.setQueue_regEnt ..).trans hnone) (by simpa using hroom)
  have hlines : (s0.setQueue (s0.homeOf (m.pa / 8 * 8)) [.reg m]).host.hdm = [] := hhost
  refine ⟨_, (exec_homeRegistration_of_current htake hinc).trans (congrArg _ (State.atHome_of_done hidle hserve)), ?_, ?_, ?_, ?_⟩
  · exact State.record_mem hlines hinc
  · rw [State.setQueue_regEnt, State.record_regEnt hlines hinc]
  · rw [State.setQueue_net, State.record_net hlines hinc, State.ackMsgs, State.homeWord_of_no_lines hlines, ← List.append_assoc]; rfl
  · exact fun hnarrow hfails by_ hby => State.record_due hlines hinc hnarrow hfails hby

theorem exec_homeRegistration_asks {e : REnt} (he : s0.regEnt m.pa = some e) (hlost : e.lost = false) (hasked : e.asked = false)
    (howner : e.owner ≠ m.core) : ∃ t, exec .homeRegistration s = .next t ∧ t.mem = s0.mem ∧
      t.net = s0.net ++ [.revoke e.owner (m.pa / 8 * 8)] ∧ (t.slice (s0.homeOf (m.pa / 8 * 8))).queue = [.reg m] := by
  have hserve := State.tryReg_of_owned (s := s0.setQueue (s0.homeOf (m.pa / 8 * 8)) [.reg m])
    ((State.setQueue_regEnt ..).trans he) hlost howner
  refine ⟨_, (exec_homeRegistration_of_current htake hinc).trans (congrArg _ (State.atHome_of_wait hidle hserve)), ?_, ?_, ?_⟩
  · rw [State.setQueue_mem, State.askOwner_mem]; rfl
  · rw [State.setQueue_net, State.askOwner_net hasked, State.word_of_regEnt he]; rfl
  · exact State.setQueue_queue ..

end

section
variable {s s0 : State} {m : AmoMsg} (htake : s.takeMsg = some (.amo m, s0)) (hmem : isHost m.pa = false)
  (hinc : m.inc = (s0.core m.who.core).inc) (hidle : (s0.slice (s0.homeOf (m.pa / 8 * 8))).queue = []) (hnone : s0.regEnt m.pa = none)
include htake hmem hinc hidle hnone

theorem exec_homeAmo_fails (hfails : s0.stackFails m.pa = true) : ∃ t, exec .homeAmo s = .next t ∧ t.mem = s0.mem ∧
    t.net = s0.net ++ [.amoRep m.who (some m.pa) m.seq [0] (.trap .ecc (w64 (m.pa / 8 * 8)))] := by
  have hserve := State.tryAmo_of_failed (s := s0.setQueue (s0.homeOf (m.pa / 8 * 8)) [.amo m]) ((State.setQueue_regEnt ..).trans hnone) hfails
  exact ⟨_, (exec_homeAmo_of_current htake hmem hinc).trans (congrArg _ (State.atHome_of_done hidle hserve)), rfl, rfl⟩

theorem exec_homeAmo_performs (hhost : s0.host.hdm = []) (hholds : s0.stackFails m.pa = false) : ∃ t, exec .homeAmo s = .next t ∧
    t.mem = writeN s0.mem m.pa m.n (m.result (readN s0.mem m.pa m.n)) ∧
    t.net = (s0.noFill m.who.core fun p => p / 8 == m.pa / 8).net ++
      [.amoRep m.who (some m.pa) m.seq [0] (.ok [(0, w64 (readN s0.mem m.pa m.n))])] := by
  have hserve := State.tryAmo_of_unregistered (s := s0.setQueue (s0.homeOf (m.pa / 8 * 8)) [.amo m]) hhost
    ((State.setQueue_regEnt ..).trans hnone) hholds
  exact ⟨_, (exec_homeAmo_of_current htake hmem hinc).trans (congrArg _ (State.atHome_of_done hidle hserve)),
    State.updated_mem .., State.updated_net ..⟩

end

/-- A store of a core in its present incarnation is performed: a tracked one at an idle home without an entry of the word, an untracked one wherever
no earlier store of its core to the word waits. -/
theorem exec_untrackedStoreAtHome_performs {s s0 : State} {m : StoreMsg} (htake : s.takeMsg = some (.ustore m, s0)) (hhost : s0.host.hdm = [])
    (hmem : isHost m.pa = false) (hinc : m.inc = (s0.core m.who.core).inc)
    (hidle : m.tracked = true → (s0.slice (s0.homeOf (m.pa / 8 * 8))).queue = [])
    (hfirst : ∀ x ∈ (s0.slice (s0.homeOf m.pa)).queue, x.storeOf m.who.core m.pa = false)
    (hent : s0.regEnt m.pa = none ∨ (m.tracked = false ∧ ∀ e, s0.regEnt m.pa = some e → e.lost = false)) :
    ∃ t, exec .untrackedStoreAtHome s = .next t ∧ t.mem = writeN s0.mem m.pa m.n m.data.toNat ∧ t.net = s0.net ++ [m.ack] := by
  cases htracked : m.tracked with
  | true =>
    have hnone : s0.regEnt m.pa = none := hent.resolve_right (by simp [htracked])
    have hserve := State.tryStore_of_unregistered (s := s0.setQueue (s0.homeOf (m.pa / 8 * 8)) [.store m]) hhost hinc
      ((State.setQueue_regEnt ..).trans hnone)
    exact ⟨_, (exec_untrackedStoreAtHome_of_tracked htake hmem hinc htracked).trans
      (congrArg _ (State.atHome_of_done (hidle htracked) hserve)), rfl, rfl⟩
  | false =>
    have hserve : s0.tryStore m = .done (s0.stored m) := by
      cases he : s0.regEnt m.pa with
      | none => exact State.tryStore_of_unregistered hhost hinc he
      | some e =>
        obtain ⟨-, hfound⟩ := hent.resolve_left (by simp [he])
        exact State.tryStore_of_untracked hhost hinc he (hfound e he) htracked
    exact ⟨_, exec_untrackedStoreAtHome_of_untracked htake hmem hinc htracked hfirst hserve, rfl, rfl⟩

/-- Settles O43: at an idle home a request is served by its own rule alone, and the host's lines, of which there are none, change nothing. -/
theorem homeRequests : Obligations.HomeRequests := by
  unfold Obligations.HomeRequests
  intro s s0 msg htake hhost home idle outside stale
  refine ⟨?_, ?_, ?_, ?_⟩
  · rintro m rfl hmem
    refine ⟨fun hinc => exec_counts_of_dropStale (exec_homeLoadRequest_of_stale htake hmem hinc), ?_⟩
    intro hinc rep reply
    have hreply : s0.homeReply m = reply := State.homeReply_of_no_lines hhost m
    refine ⟨fun hnone => ?_, fun e he => ?_⟩
    · exact hreply ▸ exec_homeLoadRequest_of_unregistered htake hmem hhost hinc hnone
    · have hexec := exec_homeLoadRequest_of_registered htake hmem hinc he
      refine ⟨fun hlost => ?_, fun hlost huntracked => ?_, fun hlost huntracked => ?_⟩
      · simpa [hlost] using hexec
      · simpa [hlost, huntracked, hreply] using hexec
      · simpa [hlost, huntracked] using hexec
  · rintro r rfl
    refine ⟨fun hinc => exec_counts_of_dropStale (exec_homeRegistration_of_stale htake hinc), fun hinc hidle => ⟨?_, ?_⟩⟩
    · exact exec_homeRegistration_records htake hhost hinc hidle
    · exact fun e he => exec_homeRegistration_asks htake hinc hidle he
  · rintro a rfl hmem
    refine ⟨fun hinc => exec_counts_of_dropStale (exec_homeAmo_of_stale htake hmem hinc), ?_, ?_⟩
    · exact exec_homeAmo_fails htake hmem
    · intro hinc hidle hnone hholds old
      obtain ⟨t, hexec, hwrite, hnet⟩ := exec_homeAmo_performs htake hmem hinc hidle hnone hhost hholds
      exact ⟨t, hexec, hwrite ▸ readN_writeN_same .., fun _ hb => hwrite ▸ byteAt_writeN_outside _ hb, hnet⟩
  · rintro a rfl hmem
    refine ⟨fun hinc => exec_counts_of_dropStale (exec_untrackedStoreAtHome_of_stale htake hinc), ?_⟩
    intro hinc hidle hfirst hent
    obtain ⟨t, hexec, hwrite, hnet⟩ := exec_untrackedStoreAtHome_performs htake hhost hmem hinc hidle hfirst hent
    exact ⟨t, hexec, hwrite ▸ readN_writeN_same .., fun _ hb => hwrite ▸ byteAt_writeN_outside _ hb, hnet⟩

end Sys2Proof.Machine

namespace Sys2Proof.Machine

/-! # A word at its owner, and its data back at the home (09 R166 to R171, R180) -/

/-! ## Bytes of merged words (R167) -/

theorem natOfBytes_byte {bs : List Byte} {k : Nat} (h : k < bs.length) : natOfBytes bs / 256 ^ k % 256 = bs[k].toNat := by
  induction bs generalizing k with
  | nil => cases h
  | cons b rest ih =>
    have hb : b.toNat < 256 := b.isLt
    cases k with
    | zero => simp only [natOfBytes, List.getElem_cons_zero]; omega
    | succ k =>
      have hrest : natOfBytes (b :: rest) / 256 = natOfBytes rest := by rw [natOfBytes]; omega
      rw [Nat.pow_succ', ← Nat.div_div_eq_div_mul, hrest, ih (Nat.lt_of_succ_lt_succ h), List.getElem_cons_succ]

theorem natOfBytes_lt (bs : List Byte) : natOfBytes bs < 256 ^ bs.length := by
  induction bs with
  | nil => exact Nat.one_pos
  | cons b rest ih =>
    have hb : b.toNat < 256 := b.isLt
    rw [natOfBytes, List.length_cons, Nat.pow_succ']
    omega

theorem mergeBytes_byte (old new : W64) (mask : BitVec 8) {k : Nat} (h : k < 8) :
    (mergeBytes old new mask).toNat / 256 ^ k % 256 = (if mask.getLsbD k then new else old).toNat / 256 ^ k % 256 := by
  have hlt (f : Nat → Byte) : natOfBytes ((List.range 8).map f) < 2 ^ 64 := by simpa using natOfBytes_lt ((List.range 8).map f)
  rw [mergeBytes, w64, BitVec.toNat_ofNat, Nat.mod_eq_of_lt (hlt _), natOfBytes_byte (by simpa using h)]
  simp

/-! ## A word that a core holds -/

/-- A word that replaces another is what its line holds in its place. -/
theorem Core.cword_setCword {k : Core} {pa : Nat} {l : CLine} {c : CWord} (h : k.cword pa = some (l, c)) (w : CWord) :
    ∃ l', (k.setCword pa w).cword pa = some (l', w) := by
  cases hline : find k.cache (pa / 64) with
  | none => simp [Core.cword, hline] at h
  | some line => exact ⟨{ line with words := vset line.words (pa / 8 % 8) w }, by simp [Core.cword, Core.setCword, hline, Nat.mod_lt]⟩

/-- The core owns a word that is G, and one that is P with the home's acknowledgement on its way (R166). -/
theorem State.ownsWord_iff (s : State) (core pa : Nat) (c : CWord) :
    s.ownsWord core pa c = true ↔ c.st = .g ∨ c.st = .p ∧ Msg.regAck core (pa / 8 * 8) ∈ s.net := by
  simp only [State.ownsWord, Bool.or_eq_true, Bool.and_eq_true, beq_iff_eq, List.any_eq_true]
  refine or_congr_right (and_congr_right fun _ => ⟨?_, fun hack => ⟨_, hack, by simp⟩⟩)
  rintro ⟨m, hm, hack⟩
  cases m with
  | regAck c p =>
    simp only [Bool.and_eq_true, beq_iff_eq] at hack
    obtain ⟨rfl, rfl⟩ := hack
    exact hm
  | _ => cases hack

theorem State.ownedVal_of_merged {s : State} {core pa : Nat} {c : CWord} (h : c.merge = false ∨ s.mergeOf core pa = none) :
    s.ownedVal core pa c = c.data := by
  rcases h with h | h
  · simp [State.ownedVal, h]
  · simp [State.ownedVal, h]

theorem State.ownedVal_of_merging {s : State} {core pa : Nat} {c : CWord} {v : W64} (hmerge : c.merge = true) (hv : s.mergeOf core pa = some v) :
    s.ownedVal core pa c = mergeBytes v c.data c.mask := by
  simp [State.ownedVal, hmerge, hv]

/-! ## Loads forwarded to the owner (R168) -/

section
variable {s s0 : State} {core : Nat} {m : LoadMsg} {l : CLine} {c : CWord} (htake : s.takeMsg = some (.fwdLoad m core, s0))
  (hword : (s0.core core).cword m.pa = some (l, c))
include htake hword

theorem exec_forwardedLoad_of_owned (howns : s0.ownsWord core m.pa c = true) :
    exec .forwardedLoad s = .next (s0.send (.loadRep m (.ok [(m.k, s0.ownedVal core m.pa c)]))) := by
  change execForwardedLoad s = _
  simp [execForwardedLoad, event, htake, hword, howns]

theorem exec_forwardedLoad_of_not_owned (howns : ¬ s0.ownsWord core m.pa c = true) :
    exec .forwardedLoad s = .next (s0.send (.loadReq m)) := by
  change execForwardedLoad s = _
  simp [execForwardedLoad, event, htake, hword, howns]

end

/-! ## Words that the owner sends home (R166, R170, R171) -/

theorem exec_revoke {s s0 : State} {core pa : Nat} (htake : s.takeMsg = some (.revoke core pa, s0)) :
    exec .revoke s = .next (s0.sendWord core pa fun _ => CWord.empty) := by
  change execRevoke s = _
  simp [execRevoke, event, htake]

theorem exec_forcedWriteBackAtOwner {s s0 : State} {core pa : Nat} (htake : s.takeMsg = some (.forceWb core pa, s0)) :
    exec .forcedWriteBackAtOwner s = .next (s0.sendWord core pa fun c => { c with st := .v }) := by
  change execForcedWriteBackAtOwner s = _
  simp [execForcedWriteBackAtOwner, event, htake]

section
variable {i : Instr} {s s0 : State} {core pa : Nat} {l : CLine} {c : CWord} {after : CWord → CWord}
  (hexec : exec i s = .next (s0.sendWord core pa after)) (hword : (s0.core core).cword pa = some (l, c))
include hexec hword

/-- A G word goes home with its data and is what the request makes of it. -/
theorem exec_sends_of_g (hg : c.st = .g) : ∃ t l' c', exec i s = .next t ∧ t.mem = s0.mem ∧
    t.net = s0.net ++ [.ownerData core (s0.core core).inc (pa / 8 * 8) (some c.data)] ∧ (t.core core).cword pa = some (l', c') ∧
    c'.st = (after c).st := by
  have hsend : s0.sendWord core pa after =
      (s0.setCore core ((s0.core core).setCword pa (after c))).send (.ownerData core (s0.core core).inc (pa / 8 * 8) (some c.data)) := by
    simp [State.sendWord, hword, hg]
  obtain ⟨l', hl'⟩ := Core.cword_setCword hword (after c)
  exact ⟨_, l', after c, hexec.trans (congrArg _ hsend), rfl, rfl, by simpa using hl', rfl⟩

/-- A word that is not G stays as it is, and no data goes home. -/
theorem exec_sends_of_not_g (hg : c.st ≠ .g) : ∃ t l' c', exec i s = .next t ∧ t.mem = s0.mem ∧
    t.net = s0.net ++ [.ownerData core (s0.core core).inc (pa / 8 * 8) none] ∧ (t.core core).cword pa = some (l', c') ∧ c'.st = c.st := by
  have hsend : s0.sendWord core pa after = s0.send (.ownerData core (s0.core core).inc (pa / 8 * 8) none) := by
    simp [State.sendWord, hword, hg]
  exact ⟨_, l, c, hexec.trans (congrArg _ hsend), rfl, rfl, hword, rfl⟩

end

/-! ## The data at the home (R169 to R171, R180) -/

/-- The owner's data is written at the home, the word's entry leaves and the write-back is acknowledged. -/
def State.broughtHome (s : State) (core pa : Nat) (v : W64) : State :=
  { s.setSlice (s.homeOf pa) ((s.slice (s.homeOf pa)).free (pa / 8)) with mem := write64 s.mem (pa / 8 * 8) v }.send (.wbAck core (pa / 8 * 8))

theorem State.broughtHome_regEnt (s : State) (core pa : Nat) (v : W64) : (s.broughtHome core pa v).regEnt pa = none :=
  (s.regEnt_setSlice pa _).trans (Slice.find?_free _ _)

theorem State.broughtHome_queue (s : State) (core pa : Nat) (v : W64) :
    ((s.broughtHome core pa v).slice (s.homeOf pa)).queue = (s.slice (s.homeOf pa)).queue :=
  (congrArg Slice.queue (s.slice_setSlice_same (s.homeOf pa) ((s.slice (s.homeOf pa)).free (pa / 8))) :)

section
variable {s s0 : State} {core pa : Nat} {inc : BitVec 16}

theorem exec_ownerDataArrival_of_owner {v : W64} {e : REnt} (htake : s.takeMsg = some (.ownerData core inc pa (some v), s0))
    (he : s0.regEnt pa = some e) (howner : e.owner = core) (hinc : e.inc = inc) (hlost : e.lost = false)
    (hidle : (s0.slice (s0.homeOf pa)).queue = []) :
    exec .ownerDataArrival s = .next ((s0.broughtHome core pa v).setQueue (s0.homeOf pa) []) := by
  rw [← State.serveHome_of_idle ((s0.broughtHome_queue core pa v).trans hidle)]
  change execOwnerDataArrival s = _
  simp [execOwnerDataArrival, event, htake, he, howner, hinc, hlost, State.broughtHome]

theorem exec_ownerDataArrival_of_no_owner {v : W64} (htake : s.takeMsg = some (.ownerData core inc pa (some v), s0))
    (hent : s0.regEnt pa = none ∨ ∃ e, s0.regEnt pa = some e ∧ (e.owner ≠ core ∨ e.inc ≠ inc ∨ e.lost = true)) :
    exec .ownerDataArrival s = .next (s0.dropStale pa) := by
  change execOwnerDataArrival s = _
  rcases hent with hnone | ⟨e, he, hother⟩
  · simp [execOwnerDataArrival, event, htake, hnone]
  · have hnot : (e.owner == core && e.inc == inc && !e.lost) = false := by
      rcases hother with h | h | h <;> simp [h]
    simp [execOwnerDataArrival, event, htake, he, hnot]

theorem exec_ownerDataArrival_of_stale (htake : s.takeMsg = some (.ownerData core inc pa none, s0)) (hinc : inc ≠ (s0.core core).inc) :
    exec .ownerDataArrival s = .next (s0.dropStale pa) := by
  change execOwnerDataArrival s = _
  simp [execOwnerDataArrival, event, htake, hinc]

end

/-! ## The state without a message -/

theorem State.takeMsg_eq {s s0 : State} {m : Msg} (htake : s.takeMsg = some (m, s0)) : s0 = { s with net := s0.net } := by
  simp only [State.takeMsg] at htake
  split at htake
  · cases htake; rfl
  · cases htake

/-- An event that changes no memory after its message is taken has changed none. -/
theorem MemSame.of_takeMsg {s s0 t : State} {m : Msg} (htake : s.takeMsg = some (m, s0)) (hmem : t.mem = s0.mem)
    (hhost : t.hostMem = s0.hostMem) : MemSame s t := by
  rw [State.takeMsg_eq htake] at hmem hhost
  exact fun a => ⟨by rw [hmem], by rw [hhost]⟩

/-! ## What the home sends to a core that stores (R166, R167) -/

theorem State.ackParts_cword (s : State) (core pa : Nat) (ours : JEnt → Bool) (acked : JPart → Bool) :
    ((s.ackParts core ours acked).core core).cword pa = (s.core core).cword pa := by
  rw [State.ackParts, State.core_setCore_same]; rfl

/-- A word with the home's bytes under those that its core has written. -/
def CWord.merged (c : CWord) (v : W64) : CWord := { c with data := mergeBytes v c.data c.mask, mask := 0, merge := false }

theorem CWord.merged_st (c : CWord) (v : W64) : (c.merged v).st = c.st := by rw [CWord.merged]

/-- Of the pieces that are acknowledged only refused ones stay in the journal. -/
theorem State.bad_of_ackParts {s : State} {core : Nat} {acked : JPart → Bool} {e : JEnt} {p : JPart}
    (he : e ∈ ((s.ackParts core (fun _ => true) acked).core core).jrnl) (hp : p ∈ e.parts) (hacked : acked p = true) : p.bad = true := by
  rw [State.ackParts, State.core_setCore_same] at he
  obtain ⟨x, -, rfl⟩ := List.mem_map.mp (List.mem_filter.mp he).1
  simpa [hacked] using (List.mem_filter.mp hp).2

section
variable {s s0 : State} {core pa : Nat} {l : CLine} {c : CWord} (hword : (s0.core core).cword pa = some (l, c))
include hword

theorem exec_registrationAck_of_p (htake : s.takeMsg = some (.regAck core pa, s0)) (hp : c.st = .p) : exec .registrationAck s =
    .next ((s0.setCore core ((s0.core core).setCword pa { c with st := .g })).ackParts core (fun _ => true) (JPart.isReg pa)) := by
  change execRegistrationAck s = _
  simp [execRegistrationAck, event, htake, State.ackReg, hword, hp]

theorem exec_mergeData_of_merging {v : W64} (htake : s.takeMsg = some (.mergeData core pa v, s0)) (hmerge : c.merge = true) : exec .mergeData s =
    .next (s0.setCore core ((s0.core core).setCword pa (c.merged v))) := by
  change execMergeData s = _
  simp [execMergeData, event, htake, State.mergeIn, hword, hmerge, CWord.merged]

end

/-- Settles O44: what a core holds of a word decides what it answers and sends home, and the word's entry what the home does with the data. -/
theorem ownerEvents : Obligations.OwnerEvents := by
  unfold Obligations.OwnerEvents
  intro s s0 msg core pa l c htake hword sends stale answers
  have hstale (h : exec .ownerDataArrival s = .next (s0.dropStale pa)) : stale := by
    obtain ⟨t, hexec, hnet, hmem, hcount⟩ := exec_counts_of_dropStale h
    exact ⟨t, hexec, hmem, hnet, hcount⟩
  refine ⟨?_, ?_, ?_, ?_, ?_, ?_, ?_⟩
  · rintro m rfl rfl
    refine ⟨fun howns => ?_, fun hg hp => exec_forwardedLoad_of_not_owned htake hword ?_⟩
    · have hexec := exec_forwardedLoad_of_owned htake hword ((s0.ownsWord_iff core m.pa c).mpr howns)
      exact ⟨fun hmerged => State.ownedVal_of_merged hmerged ▸ hexec, fun v hmerge hv => State.ownedVal_of_merging hmerge hv ▸ hexec⟩
    · rw [State.ownsWord_iff, not_or]
      exact ⟨hg, fun ⟨hpending, hack⟩ => hp.elim (fun h => h hpending) fun h => h hack⟩
  · rintro rfl
    exact ⟨exec_sends_of_g (exec_revoke htake) hword, exec_sends_of_not_g (exec_revoke htake) hword⟩
  · rintro rfl
    exact ⟨exec_sends_of_g (exec_forcedWriteBackAtOwner htake) hword, exec_sends_of_not_g (exec_forcedWriteBackAtOwner htake) hword⟩
  · rintro inc v rfl
    refine ⟨fun e he howner hinc hlost hidle => ?_, fun hent => hstale (exec_ownerDataArrival_of_no_owner htake hent)⟩
    refine ⟨_, exec_ownerDataArrival_of_owner htake he howner hinc hlost hidle, ?_, read64_write64_same .., ?_, rfl⟩
    · rw [State.setQueue_regEnt, State.broughtHome_regEnt]
    · exact fun a ha => byteAt_writeN_outside _ ha
  · rintro inc rfl hinc
    exact hstale (exec_ownerDataArrival_of_stale htake hinc)
  · rintro rfl hp
    obtain ⟨l', hl'⟩ := Core.cword_setCword hword { c with st := .g }
    refine ⟨_, l', { c with st := .g }, exec_registrationAck_of_p hword htake hp, .of_takeMsg htake rfl rfl, ?_, rfl, ?_⟩
    · rw [State.ackParts_cword, State.core_setCore_same, hl']
    · exact fun e he p hpart hkind => State.bad_of_ackParts he hpart (by simp [JPart.isReg, hkind])
  · rintro v rfl hmerge
    obtain ⟨l', hl'⟩ := Core.cword_setCword hword (c.merged v)
    refine ⟨_, l', c.merged v, exec_mergeData_of_merging hword htake hmerge, .of_takeMsg htake rfl rfl, ?_, c.merged_st v, rfl, ?_⟩
    · rw [State.core_setCore_same, hl']
    · exact fun k hk => mergeBytes_byte v c.data c.mask hk

end Sys2Proof.Machine

namespace Sys2Proof.Machine

/-! # Tags and action tables (11 R226 to R232)

Every TAG instruction that writes replaces tags or tables of the issuing core's group, may wake waiters at the banks, and retires. What waking and
retiring leave alone is `State.SameGroups`; what the replacement leaves alone is `Group.SameData`; and `retiredWith_of_regrouped` says once what the
whole step comes to. -/

/-! ## Steps that keep every group -/

/-- The issuing agent's name, the memories and every core's group are as before. -/
structure State.SameGroups (s t : State) : Prop where
  cur     : t.cur = s.cur
  mem     : t.mem = s.mem
  hostMem : t.hostMem = s.hostMem
  group   : ∀ c, t.group c = s.group c

namespace State.SameGroups

variable {s t u : State}

theorem refl (s : State) : s.SameGroups s := ⟨rfl, rfl, rfl, fun _ => rfl⟩

theorem trans (h : s.SameGroups t) (k : t.SameGroups u) : s.SameGroups u :=
  ⟨k.cur.trans h.cur, k.mem.trans h.mem, k.hostMem.trans h.hostMem, fun c => (k.group c).trans (h.group c)⟩

theorem agent (h : s.SameGroups t) (w : Who) : t.agent w = s.agent w := by
  unfold State.agent
  rw [h.group]

theorem spByte (h : s.SameGroups t) (c a : Nat) : t.spByte c a = s.spByte c a := by
  unfold State.spByte
  rw [h.group]

/-- Of two replacements of a core's group the later one counts. -/
theorem regroup {c : Nat} {g : Group} (h : (s.setGroup c g).SameGroups t) (k : Group) : (s.setGroup c k).SameGroups (t.setGroup c k) where
  cur := h.cur
  mem := h.mem
  hostMem := h.hostMem
  group j := by
    by_cases hj : j = c
    · subst hj; simp
    · simp only [State.group_setGroup_other _ _ hj, h.group]

theorem wake (s : State) (core word : Nat) : s.SameGroups (s.wake core word) := by
  have hset : ∀ b v, s.SameGroups (s.setCore core ((s.core core).setBank b v)) := fun b v =>
    ⟨rfl, rfl, rfl, fun c => by unfold State.group; rw [State.core_setCore]; split <;> simp [*, Core.setBank]⟩
  unfold State.wake
  dsimp only
  split
  · exact refl s
  · split
    · exact (hset _ _).trans ⟨rfl, rfl, rfl, fun _ => rfl⟩
    · exact hset _ _

theorem wakeAll (s : State) (core : Nat) (words : List Nat) : s.SameGroups (s.wakeAll core words) := by
  unfold State.wakeAll
  induction words generalizing s with
  | nil => exact refl s
  | cons w rest ih => exact (wake s core w).trans (ih _)

theorem logPoint (s : State) (w : Who) : s.SameGroups (s.logPoint w) := by
  unfold State.logPoint
  split
  · exact refl s
  · split
    · split
      · exact ⟨rfl, rfl, rfl, fun _ => rfl⟩
      · exact refl s
    · exact refl s

end State.SameGroups

/-- The group that a core has, in its own place. -/
theorem State.setGroup_resident {s : State} {c : Nat} {g : Group} (hg : s.group c = some g) : (s.setGroup c g).SameGroups s where
  cur := rfl
  mem := rfl
  hostMem := rfl
  group j := by
    by_cases hj : j = c
    · subst hj; simp [hg]
    · rw [State.group_setGroup_other s g hj]

/-! ## Groups that differ in tags and tables alone -/

/-- Two groups agree in the scratchpad's data and in their agents. -/
structure Group.SameData (g h : Group) : Prop where
  data   : h.spData = g.spData
  agents : ∀ i, h.agent i = g.agent i

theorem Group.SameData.trans {g h k : Group} (hg : g.SameData h) (hk : h.SameData k) : g.SameData k :=
  ⟨hk.data.trans hg.data, fun i => (hk.agents i).trans (hg.agents i)⟩

/-- Equal agents and data, whatever the tags, written bits and action tables are. -/
theorem Group.SameData.of_tables (g : Group) (tags : Map (BitVec 4)) (written : List Nat) (act shadow : Map (BitVec 16)) :
    g.SameData { g with spTags := tags, spWritten := written, act := act, shadow := shadow } :=
  ⟨rfl, fun i => by cases i <;> rfl⟩

/-- The group once a TAG instruction has stepped a word: its tag and the written bit of its unit (R229, R210). -/
def Group.retag (g : Group) (word tag : Nat) : Group := (g.setTag word tag).1.touch word

theorem Group.retag_sameData (g : Group) (word tag : Nat) : g.SameData (g.retag word tag) := by
  unfold Group.retag Group.setTag
  split <;> exact .of_tables g _ _ _ _

theorem Group.tagOf_retag (g : Group) (word : Nat) (tag : BitVec 4) (w : Nat) :
    (g.retag word tag.toNat).tagOf w = if w = word then tag.toNat else g.tagOf w := by
  unfold Group.retag Group.setTag
  split
  · next hsame =>
    have htag : g.tagOf word = tag.toNat := beq_iff_eq.mp hsame
    split
    · next hw => rw [hw, ← htag]; rfl
    · rfl
  · have hput : (look 0 (put 0 g.spTags word (BitVec.ofNat 4 tag.toNat)) w).toNat = if w = word then tag.toNat else g.tagOf w := by
      rw [look_put, BitVec.ofNat_toNat, BitVec.setWidth_eq]
      split <;> rfl
    exact hput

/-- The group once `tag.fill` has stepped the first `n` words from `lo` (R230). -/
def Group.fillTags (g : Group) (lo n tag : Nat) : Group := (List.range n).foldl (fun g j => g.retag (lo + j) tag) g

theorem Group.fillTags_succ (g : Group) (lo n tag : Nat) : g.fillTags lo (n + 1) tag = (g.fillTags lo n tag).retag (lo + n) tag := by
  simp [Group.fillTags, List.range_succ]

theorem Group.fillTags_sameData (g : Group) (lo n tag : Nat) : g.SameData (g.fillTags lo n tag) := by
  induction n with
  | zero => exact ⟨rfl, fun _ => rfl⟩
  | succ n ih => exact g.fillTags_succ lo n tag ▸ ih.trans (Group.retag_sameData _ _ _)

theorem Group.tagOf_fillTags (g : Group) (lo n : Nat) (tag : BitVec 4) (w : Nat) :
    (g.fillTags lo n tag.toNat).tagOf w = if lo ≤ w ∧ w < lo + n then tag.toNat else g.tagOf w := by
  induction n with
  | zero => rw [if_neg (by omega)]; rfl
  | succ n ih =>
    rw [g.fillTags_succ, Group.tagOf_retag, ih]
    by_cases hw : w = lo + n
    · rw [if_pos hw, if_pos (by omega)]
    · have hrange : (lo ≤ w ∧ w < lo + n) ↔ (lo ≤ w ∧ w < lo + (n + 1)) := by omega
      rw [if_neg hw]
      simp only [hrange]

/-! ## Writing tags and exchanging tables in the state -/

/-- Setting a word's tag replaces the group, and wakes. -/
theorem State.setWordTag_regroups {s : State} {core : Nat} {g : Group} (hg : s.group core = some g) (word tag : Nat) :
    (s.setGroup core (g.retag word tag)).SameGroups (s.setWordTag core word tag) := by
  unfold State.setWordTag
  rw [hg]
  dsimp only
  split
  · exact .wake _ core word
  · exact .refl _

/-- The words of `tag.fill`, one after the other. -/
theorem State.fillTags_regroups {s : State} {g : Group} (hg : s.group s.cur.core = some g) (lo n tag : Nat) :
    (s.setGroup s.cur.core (g.fillTags lo n tag)).SameGroups
      ((List.range n).foldl (fun (s : State) j => s.setWordTag s.cur.core (lo + j) tag) s) := by
  induction n with
  | zero => exact State.setGroup_resident hg
  | succ n ih =>
    rw [List.range_succ, List.foldl_append, List.foldl_cons, List.foldl_nil, g.fillTags_succ]
    generalize (List.range n).foldl (fun (s : State) j => s.setWordTag s.cur.core (lo + j) tag) s = t at ih
    have hcur : t.cur.core = s.cur.core := congrArg Who.core ih.cur
    have ht : t.group s.cur.core = some (g.fillTags lo n tag) := by rw [ih.group]; simp
    have hword := State.setWordTag_regroups ht (lo + n) tag
    rw [hcur]
    exact (ih.regroup _).trans hword

/-- The exchange of the tables replaces the group, and wakes (R226). -/
theorem State.swapTables_regroups {s : State} {core : Nat} {g : Group} (hg : s.group core = some g) :
    (s.setGroup core { g with act := g.shadow, shadow := g.act }).SameGroups (s.swapTables core) := by
  unfold State.swapTables
  rw [hg]
  exact .wakeAll _ core _

/-! ## Retiring in a state whose group was replaced -/

/-- The group once its agent `i` has retired as `u`. -/
def Group.withRetired (g : Group) (i : Issuer) (u : Thread) (tick : Nat) : Group := { g.setAgent i u with lastRetire := tick }

theorem Group.withRetired_agent {g : Group} {i : Issuer} {th : Thread} (h : g.agent i = some th) (u : Thread) (tick : Nat) :
    (g.withRetired i u tick).agent i = some u := by
  rw [← Group.agent_setAgent_same h u]
  cases i <;> rfl

@[simp] theorem Group.withRetired_spData (g : Group) (i : Issuer) (u : Thread) (tick : Nat) : (g.withRetired i u tick).spData = g.spData := by
  simp [Group.withRetired]
@[simp] theorem Group.withRetired_tagOf (g : Group) (i : Issuer) (u : Thread) (tick w : Nat) : (g.withRetired i u tick).tagOf w = g.tagOf w := by
  simp [Group.withRetired, Group.tagOf]
@[simp] theorem Group.withRetired_act (g : Group) (i : Issuer) (u : Thread) (tick : Nat) : (g.withRetired i u tick).act = g.act := by
  simp [Group.withRetired]
@[simp] theorem Group.withRetired_shadow (g : Group) (i : Issuer) (u : Thread) (tick : Nat) : (g.withRetired i u tick).shadow = g.shadow := by
  simp [Group.withRetired]

/-- A retirement replaces the group by the one whose agent has retired. -/
theorem State.retire_regroups {s : State} {g : Group} (hg : s.group s.cur.core = some g) (u : Thread) :
    (s.setGroup s.cur.core (g.withRetired s.cur.issuer (s.counted s.cur u) s.gtick)).SameGroups (s.retire u) := by
  rw [retire_eq hg]
  exact .logPoint _ _

/-- Counting a retirement changes the counters at most. -/
theorem State.counted_ctrs (s : State) (w : Who) (th : Thread) : s.counted w th = { th with ctrs := (s.counted w th).ctrs } := by
  unfold State.counted
  split
  · rfl
  · split <;> rfl

/-- From `s` to `t` the agent `th` has retired as `u` with no data byte and no scalar register changed, and its core's group `k` has the tags and the
tables of `h`. -/
structure RetiredWith (s t : State) (th u : Thread) (h k : Group) : Prop where
  retired : RetiredAs s t th u 8
  regs    : SameX th u
  only    : OnlyX th u
  mem     : MemSame s t
  sp      : SpSame s t
  group   : t.group s.cur.core = some k
  tags    : ∀ w, k.tagOf w = h.tagOf w
  act     : k.act = h.act
  shadow  : k.shadow = h.shadow

/-- What a step comes to that replaces the issuing core's group by one with the same data and agents, wakes waiters and retires. -/
theorem retiredWith_of_regrouped {s t : State} {th : Thread} {g h : Group} (hme : s.me = some th) (hg : s.group s.cur.core = some g)
    (hdata : g.SameData h) (hst : (s.setGroup s.cur.core h).SameGroups t) : ∃ u k, RetiredWith s (t.retireNext 8) th u h k := by
  have hagent : h.agent s.cur.issuer = some th := by
    rw [hdata.agents]
    simpa [State.me, State.agent, hg] using hme
  have hcur : t.cur = s.cur := hst.cur
  have ht : t.group t.cur.core = some h := by rw [hcur, hst.group]; simp
  have htme : t.me = some th := by rw [State.me, State.agent, ht, hcur]; exact hagent
  have hretired := (hst.regroup _).trans (hcur ▸ State.retire_regroups ht (th.advance 8))
  rw [← retireNext_eq htme] at hretired
  have hctrs := t.counted_ctrs s.cur (th.advance 8)
  generalize t.counted s.cur (th.advance 8) = u at hretired hctrs
  generalize hk : h.withRetired s.cur.issuer u t.gtick = k at hretired
  have hsp : SpKept s (s.setGroup s.cur.core k) := .setGroup fun a => by
    rw [← hk, Group.withRetired_spData, hdata.data, State.spByte_of_group hg]
  refine ⟨u, k, ?_⟩
  constructor
  case retired =>
    refine ⟨hme, ?_, by rw [hctrs]; rfl, by rw [hctrs]; rfl, by rw [hctrs]; rfl⟩
    rw [hretired.agent]
    simpa [State.agent, ← hk] using Group.withRetired_agent hagent u t.gtick
  case regs => rw [hctrs]; exact fun r => ⟨rfl, rfl⟩
  case only => unfold OnlyX; rw [hctrs]; rfl
  case mem => exact fun a => by rw [hretired.mem, hretired.hostMem]; exact ⟨rfl, rfl⟩
  case sp => exact fun c a => (hretired.spByte c a).trans (hsp.sp c a)
  case group => rw [hretired.group]; simp
  case tags => simp [← hk]
  case act => simp [← hk]
  case shadow => simp [← hk]

/-! ## The checks of the tag instructions (R229, R230) -/

theorem checkTag_ok {s : State} {g : Group} {ea : Nat} (hnear : ea < 0x180000) (haligned : ea % 8 = 0) (halloc : ea < g.alloc) :
    checkTag s g ea = .ok () := by
  simp [checkTag, haligned, Nat.not_le.mpr hnear, Nat.not_le.mpr halloc]

theorem checkTag_misaligned {s : State} {g : Group} {ea : Nat} (hnear : ea < 0x180000) (haligned : ea % 8 ≠ 0) :
    checkTag s g ea = raise s .align (w64 ea) := by
  simp [checkTag, haligned, Nat.not_le.mpr hnear]

theorem tagTurn_idle {s : State} (hout : NoneOutstanding s) (hbanks : BanksIdle s s.cur.core) (ea n : Nat) : tagTurn s ea n = .ok () := by
  unfold BanksIdle at hbanks
  rw [tagTurn, waitJournal_none hout, do_ok, hbanks]
  rfl

/-- Without a watchpoint no access is watched. -/
theorem watched_none {s : State} {w : Who} (h : Unwatched s w.core) (load store : Bool) (rs : List Run) : s.watched w load store rs = none := by
  have hhit : ∀ st r, Watch.hit { kind := 0, base := 0, len := 0 } st r = none := fun st r => by cases st <;> rfl
  have hlowest : ∀ st, lowestOf (Watch.hit { kind := 0, base := 0, len := 0 } st) rs = none := fun st => by
    unfold lowestOf
    induction rs with
    | nil => rfl
    | cons r rest ih => rw [List.foldl_cons, hhit]; exact ih
  have hget : ∀ j, vget ({ kind := 0, base := 0, len := 0 } : Watch) (s.core w.core).watch j = { kind := 0, base := 0, len := 0 } := fun j => by
    rw [h]
    unfold vget
    split <;> simp
  unfold State.watched
  split
  · rfl
  · simp only [hget, hlowest]
    cases load <;> cases store <;> rfl

/-! ## The tag instructions -/

section
variable {s : State} {th : Thread} {g : Group} {d a b c : Reg} {imm : BitVec 16} (hg : s.group s.cur.core = some g)
include hg

theorem tagLd_writesX (hready : Ready s th [a] []) (hcheck : checkTag s g (tagEa th a imm) = .ok ()) (hturn : tagTurn s (tagEa th a imm) 8 = .ok ()) :
    WritesX (.tagLd d a imm) s th 8 d (w64 (g.tagOf (tagEa th a imm / 8))) := by
  change execTagLd d a imm s = _
  simp [execTagLd, hready.getMe, getGroup_ok hg, hready.needLive, hcheck, hturn, retireX_eq hready.me]

theorem tagLdw_retires (hready : Ready s th [a] []) (hcheck : checkTag s g (tagEa th a imm) = .ok ()) (hturn : tagTurn s (tagEa th a imm) 8 = .ok ())
    (hwatch : Unwatched s s.cur.core) :
    Retires (.tagLdw d a c imm) s
      (((th.wx d (read64 g.spData (tagEa th a imm))).wx c (w64 (g.tagOf (tagEa th a imm / 8)))).advance 8) := by
  change execTagLdw d a c imm s = _
  simp [execTagLdw, hready.getMe, getGroup_ok hg, hready.needLive, hcheck, hturn, watched_none hwatch]

theorem exec_tagSt (hready : Ready s th [a, b] []) (hcheck : checkTag s g (tagEa th a imm) = .ok ())
    (hturn : tagTurn s (tagEa th a imm) 8 = .ok ()) :
    exec (.tagSt a b imm) s = .next ((s.setWordTag s.cur.core (tagEa th a imm / 8) ((th.rx b).setWidth 4).toNat).retireNext 8) := by
  change execTagSt a b imm s = _
  have hfld : fld (th.rx b) 3 0 = ((th.rx b).setWidth 4).toNat := by simp [fld, bitsOf]
  simp [execTagSt, hready.getMe, getGroup_ok hg, hready.needLive, hcheck, hturn, hfld]

theorem tagLd_traps (hready : Ready s th [a] []) {cause : Cause} {v : W64} (hcheck : checkTag s g (tagEa th a imm) = raise s cause v) :
    Traps (.tagLd d a imm) s cause v := by
  change execTagLd d a imm s = _
  simp [execTagLd, hready.getMe, getGroup_ok hg, hready.needLive, hcheck]

theorem tagSt_traps (hready : Ready s th [a, b] []) {cause : Cause} {v : W64} (hcheck : checkTag s g (tagEa th a imm) = raise s cause v) :
    Traps (.tagSt a b imm) s cause v := by
  change execTagSt a b imm s = _
  simp [execTagSt, hready.getMe, getGroup_ok hg, hready.needLive, hcheck]

/-- A fill of no word has no turn at the banks to wait for, and sets the tags of its no words all the same. -/
theorem exec_tagFill {tag : BitVec 4} (hready : Ready s th [a, b] []) (haligned : (th.rx a).toNat % 8 = 0) (hcount : (th.rx b).toNat ≤ 0x30000)
    (halloc : (th.rx a).toNat + (th.rx b).toNat * 8 ≤ g.alloc) (hturn : tagTurn s (th.rx a).toNat ((th.rx b).toNat * 8) = .ok ()) :
    exec (.tagFill a b tag) s = .next (((List.range (th.rx b).toNat).foldl
      (fun (s : State) j => s.setWordTag s.cur.core ((th.rx a).toNat / 8 + j) tag.toNat) s).retireNext 8) := by
  change execTagFill a b tag s = _
  unfold execTagFill
  by_cases hzero : (th.rx b).toNat = 0
  · simp [hready.getMe, getGroup_ok hg, hready.needLive, haligned, hzero]
  · simp [hready.getMe, getGroup_ok hg, hready.needLive, haligned, hzero, Nat.not_lt.mpr hcount, Nat.not_lt.mpr halloc, hturn]

end

/-! ## The instructions of the action tables -/

/-- An instruction whose every load has been answered loads nothing more. -/
theorem loadEach_of_got {s : State} {got : Map W64} (seq : Nat) (asked : List Nat) (again : Bool) (j : Nat) (rs : List Run)
    (h : ∀ i, j ≤ i → i < j + rs.length → (find got i).isSome) : loadEach s seq asked again got j rs = .ok (s, got) := by
  induction rs generalizing j with
  | nil => rfl
  | cons r rest ih =>
    rw [List.length_cons] at h
    rw [loadEach, if_pos (h j (Nat.le_refl j) (by omega))]
    exact ih (j + 1) fun i hlo hhi => h i (by omega) (by omega)

theorem look_of_find {α : Type} {m : Map α} {k : Nat} {v : α} (dflt : α) (h : find m k = some v) : look dflt m k = v := by
  induction m with
  | nil => cases h
  | cons e rest ih =>
    rw [find] at h
    rw [look]
    split at h
    · next he => rw [if_pos he]; exact Option.some.inj h
    · next he => rw [if_neg he]; exact ih h

/-- The doublewords of an image whose loads have all been answered. -/
theorem loadDoubles_of_got {s : State} {th : Thread} (ea : Nat) {ws : List W64} (hme : s.me = some th) (hseq : th.prog.seq ≠ 0)
    (hreply : th.prog.reply = none) (hgot : ∀ j, j < ws.length → find th.prog.got j = ws[j]?) :
    loadDoubles s ea ws.length = .ok (s, ws) := by
  have hfound : ∀ i, i < ws.length → (find th.prog.got i).isSome := fun i hi => by rw [hgot i hi, List.getElem?_eq_getElem hi]; rfl
  have hwords : (List.range ws.length).map (fun j => look 0 th.prog.got j) = ws := by
    refine List.ext_getElem (by simp) fun j hj hj' => ?_
    rw [List.getElem_map, List.getElem_range]
    exact look_of_find 0 ((hgot j hj').trans (List.getElem?_eq_getElem hj'))
  simp only [loadDoubles, getMe_ok hme, do_ok, hreply, beq_eq_false_iff_ne.mpr hseq, Bool.false_eq_true, if_false]
  rw [loadEach_of_got (h := by simpa using hfound), do_ok, hwords]

theorem findIdx_none {α : Type} {p : α → Bool} {l : List α} (h : ∀ x ∈ l, p x = false) : findIdx p l = none := by
  induction l with
  | nil => rfl
  | cons x rest ih =>
    obtain ⟨hx, hrest⟩ := List.forall_mem_cons.mp h
    rw [findIdx, hx, ih hrest]; rfl

section
variable {s : State} {th : Thread} {g : Group} {d a b : Reg} (hg : s.group s.cur.core = some g)
include hg

theorem exec_actWr (hready : Ready s th [a, b] []) (hfirst : g.tablesHeld s.cur.issuer.setNo th.issued = false) (hi : (th.rx a).toNat < 512)
    (hv : (th.rx b).toNat < 4096) : exec (.actWr a b) s =
      .next ((s.setGroup s.cur.core { g with shadow := put 0 g.shadow (th.rx a).toNat (BitVec.ofNat 16 (th.rx b).toNat) }).retireNext 8) := by
  change execActWr a b s = _
  simp [execActWr, hready.getMe, getGroup_ok hg, hready.needLive, Nat.not_le.mpr hi, Nat.not_le.mpr hv, hfirst]

theorem actWr_traps (hready : Ready s th [a, b] []) (h : 512 ≤ (th.rx a).toNat ∨ 4096 ≤ (th.rx b).toNat) :
    Traps (.actWr a b) s .illField (lowBits (.actWr a b)) := by
  change execActWr a b s = _
  simp [execActWr, hready.getMe, getGroup_ok hg, hready.needLive, h, illField]

theorem exec_actRead (hready : Ready s th [a] []) (hi : (th.rx a).toNat < 512) (i : Instr) (table : Group → Map (BitVec 16)) :
    actRead s i d a table = .next (s.retire ((th.wx d ((look 0 (table g) (th.rx a).toNat).setWidth 64)).advance 8)) := by
  simp [actRead, hready.getMe, getGroup_ok hg, hready.needLive, Nat.not_le.mpr hi, retireX_eq hready.me]

theorem exec_actWrImg (hready : Ready s th [a] []) (hfirst : g.tablesHeld s.cur.issuer.setNo th.issued = false) (hseq : th.prog.seq ≠ 0)
    (hreply : th.prog.reply = none) {ws : List W64} (hlen : ws.length = 128) (hgot : ∀ j, j < 128 → find th.prog.got j = ws[j]?)
    (hentries : ∀ e ∈ imageEntries ws, e < 4096) :
    exec (.actWrImg a) s = .next ((s.setGroup s.cur.core { g with shadow := tableOf 0 (imageEntries ws) }).retireNext 8) := by
  have hload : loadDoubles s (th.rx a).toNat 128 = .ok (s, ws) :=
    hlen ▸ loadDoubles_of_got _ hready.me hseq hreply fun j hj => hgot j (hlen ▸ hj)
  have hnone : findIdx (fun e => decide (2 ^ 12 ≤ e)) (imageEntries ws) = none :=
    findIdx_none fun e he => decide_eq_false (Nat.not_le.mpr (hentries e he))
  change execActWrImg a s = _
  simp only [execActWrImg, hready.getMe, getGroup_ok hg, hready.needLive, hfirst, hload, hnone, do_ok]
  rfl

theorem exec_actSwap (hme : s.me = some th) (hfirst : g.tablesHeld s.cur.issuer.setNo th.issued = false) :
    exec .actSwap s = .next ((s.swapTables s.cur.core).retireNext 8) := by
  change execActSwap s = _
  simp [execActSwap, getMe_ok hme, getGroup_ok hg, hfirst]

end

/-- Settles O22: a write of tags or tables replaces them in the issuing core's group and retires; what waking the waiters and retiring leave is in
`retiredWith_of_regrouped`. -/
theorem tagsAndActions : Obligations.TagsAndActions := by
  unfold Obligations.TagsAndActions
  refine ⟨?_, ?_⟩
  · intro s th g d a b c imm tag hg hready1 hready2 hout hbanks hwatch ea lo n tags
    have hturn := tagTurn_idle hout hbanks
    have htags {i : Instr} {t : State} {h : Group} {set_ : Nat → Option (BitVec 4)} (hexec : exec i s = .next (t.retireNext 8))
        (hdata : g.SameData h) (hst : (s.setGroup s.cur.core h).SameGroups t)
        (hset : ∀ w, h.tagOf w = (set_ w).elim (g.tagOf w) BitVec.toNat) : tags i set_ := by
      obtain ⟨u, k, hk⟩ := retiredWith_of_regrouped hready1.me hg hdata hst
      refine ⟨_, u, k, hexec, hk.retired, hk.regs, hk.only, hk.mem, hk.sp, hk.group, fun w => ?_⟩
      rw [hk.tags, hset]
      cases set_ w <;> rfl
    refine ⟨fun hnear haligned halloc => ?_, fun hnear hmis => ?_, fun haligned hcount halloc => ?_⟩
    · have hcheck : checkTag s g ea = .ok () := checkTag_ok hnear haligned halloc
      refine ⟨tagLd_writesX hg hready1 hcheck (hturn _ _), tagLdw_retires hg hready1 hcheck (hturn _ _) hwatch, ?_⟩
      refine htags (exec_tagSt hg hready2 hcheck (hturn _ _)) (g.retag_sameData _ _) (State.setWordTag_regroups hg _ _) fun w => ?_
      rw [Group.tagOf_retag, show tagEa th a imm = ea from rfl]
      split <;> rfl
    · have hcheck : checkTag s g ea = raise s .align (w64 ea) := checkTag_misaligned hnear hmis
      exact ⟨tagLd_traps hg hready1 hcheck, tagSt_traps hg hready2 hcheck⟩
    · refine htags (exec_tagFill hg hready2 haligned hcount halloc (hturn _ _)) (g.fillTags_sameData _ _ _) (State.fillTags_regroups hg _ _ _)
        fun w => ?_
      rw [Group.tagOf_fillTags]
      split <;> rfl
  · intro s th g d a b hg hready1 hready2 i v first
    refine ⟨exec_actWr hg hready2, actWr_traps hg hready2, fun hi => ?_, ?_, fun hfirst => ?_⟩
    · exact ⟨exec_actRead hg hready1 hi _ _, exec_actRead hg hready1 hi _ _⟩
    · exact fun hfirst hseq hreply ws hlen hgot hentries => exec_actWrImg hg hready1 hfirst hseq hreply hlen hgot hentries
    · obtain ⟨u, k, hk⟩ := retiredWith_of_regrouped hready1.me hg (.of_tables g _ _ _ _) (State.swapTables_regroups hg)
      exact ⟨_, u, k, exec_actSwap hg hready1.me hfirst, hk.retired, hk.regs, hk.group, hk.act, hk.shadow, hk.mem, hk.sp⟩

end Sys2Proof.Machine

namespace Sys2Proof.Machine

/-! # Taking an exception (14 R259 to R262)

A cause first withdraws what the agent's instruction has asked for, which no agent, handler or claim of a debugger sees (`State.agent_withdraw`,
`State.claimed_withdraw`); then the agent enters its handler (`State.takeTrap_enters`) or is held (`State.takeTrap_holds`). -/

/-! ## Replacing an agent -/

/-- Replacing an agent changes the cores alone. -/
theorem State.setAgent_eq (s : State) (w : Who) (th : Thread) : s.setAgent w th = { s with cores := (s.setAgent w th).cores } := by
  unfold State.setAgent
  split <;> rfl

@[simp] theorem State.setAgent_mem (s : State) (w : Who) (th : Thread) : (s.setAgent w th).mem = s.mem := by rw [State.setAgent_eq]
@[simp] theorem State.setAgent_hostMem (s : State) (w : Who) (th : Thread) : (s.setAgent w th).hostMem = s.hostMem := by rw [State.setAgent_eq]
@[simp] theorem State.setAgent_sup (s : State) (w : Who) (th : Thread) : (s.setAgent w th).sup = s.sup := by rw [State.setAgent_eq]
@[simp] theorem State.setAgent_mgmt (s : State) (w : Who) (th : Thread) : (s.setAgent w th).mgmt = s.mgmt := by rw [State.setAgent_eq]

theorem MemSame.of_eq {s t : State} (hmem : t.mem = s.mem) (hhost : t.hostMem = s.hostMem) : MemSame s t :=
  fun a => ⟨by rw [hmem], by rw [hhost]⟩

theorem SpKept.of_cores {s t : State} (h : t.cores = s.cores) : SpKept s t where
  sp c a := by unfold State.spByte State.group State.core; rw [h]
  rising hs := h ▸ hs

theorem State.agent_of_group {s : State} {w : Who} {g : Group} (hg : s.group w.core = some g) : s.agent w = g.agent w.issuer := by
  rw [State.agent, hg]

/-! ## Withdrawing an instruction's requests (07 R120) -/

theorem Group.agent_without (w : Who) (g : Group) (i : Issuer) : (g.without w).agent i = g.agent i := by cases i <;> rfl

theorem Group.handler_without (w : Who) (g : Group) : (g.without w).handler = g.handler := rfl

theorem State.group_withdraw {s : State} {c : Nat} {g : Group} (hg : s.group c = some g) (w : Who) :
    (s.withdraw w).group c = some (g.without w) := by
  rw [State.withdraw, State.group_withdrawFrom, hg]; rfl

theorem State.agent_withdraw (s : State) (w v : Who) : (s.withdraw w).agent v = s.agent v := by
  unfold State.agent State.withdraw
  rw [State.group_withdrawFrom]
  cases s.group v.core with
  | none => rfl
  | some g => exact Group.agent_without w g v.issuer

/-- A gang at whose row latch the agent waits no more (16 R284). -/
def Gang.unlatch (w : Who) (k : Gang) : Gang := { k with latch := k.latch.filter fun l => !(l.core == w.core && w.issuer == .thread l.t) }

theorem State.find_gangs_withdraw (s : State) (w : Who) (j : Nat) : find (s.withdraw w).gangs j = (find s.gangs j).map (Gang.unlatch w) :=
  find_map_keyed (fun _ => Gang.unlatch w) s.gangs j

theorem State.claimed_of_group {s : State} {c : Nat} {g : Group} (hg : s.group c = some g) :
    s.claimed c = (find s.gangs g.gang).any fun k => (find (s.hub k.home).slots k.slot).any Launch.claimed := by
  simp only [State.claimed, hg]
  cases find s.gangs g.gang with
  | none => rfl
  | some k =>
    dsimp only [Option.any_some]
    cases find (s.hub k.home).slots k.slot <;> rfl

theorem State.claimed_withdraw {s : State} {c : Nat} {g : Group} (hg : s.group c = some g) (w : Who) :
    (s.withdraw w).claimed c = s.claimed c := by
  rw [State.claimed_of_group (State.group_withdraw hg w), State.claimed_of_group hg, State.find_gangs_withdraw, Option.any_map]
  rfl

/-! ## What a cause comes to on a thread -/

theorem Group.handler_ne_zero {g : Group} (h : fld g.tvec 54 2 ≠ 0) : g.handler ≠ 0 := by
  have hlt : fld g.tvec 54 2 < 2 ^ 53 := Nat.mod_lt _ (by decide)
  intro heq
  have hnat : fld g.tvec 54 2 * 4 % 2 ^ 64 = 0 := congrArg BitVec.toNat heq
  omega

theorem Group.handler_eq_zero {g : Group} (h : fld g.tvec 54 2 = 0) : g.handler = 0 := by rw [Group.handler, h]; rfl

section
variable {s : State} {w : Who} {k : Nat} {g : Group} {th : Thread} {c : Cause} {tval : W64} {tepc : Option W64} {async : Bool} {srce fpc : Nat}
  (hw : w.issuer = .thread k) (hg : s.group w.core = some g) (hth : s.agent w = some th)
include hw hg hth

/-- A thread's cause that no debugger takes holds the thread or enters its handler. -/
theorem State.takeTrap_of_thread (hbrk : c = .brk → s.claimed w.core = false) :
    s.takeTrap w { cause := c, tval := tval, tepc := tepc } async srce fpc =
      if c.machine || th.inh || g.handler == 0 then (s.withdraw w).hold w th c.code (tepc.getD th.pc) tval
      else (s.withdraw w).setAgent w (th.enter g.handler c (tepc.getD th.pc) tval async srce fpc) := by
  have hthread : w.issuer.isFeed = false := by rw [hw]; rfl
  have hagent : (s.withdraw w).agent w = some th := by rw [State.agent_withdraw, hth]
  have hnone : (c == .brk && (s.withdraw w).claimed w.core) = false := by
    rw [State.claimed_withdraw hg]
    by_cases hc : c = .brk
    · rw [hbrk hc, Bool.and_false]
    · rw [beq_eq_false_iff_ne.mpr hc, Bool.false_and]
  simp only [State.takeTrap, hthread, State.group_withdraw hg, hagent, hnone, Group.handler_without, Bool.false_eq_true, if_false] <;> rfl

theorem State.takeTrap_enters (hbrk : c = .brk → s.claimed w.core = false) (hinh : th.inh = false) (htvec : fld g.tvec 54 2 ≠ 0)
    (hmachine : c.machine = false) : s.takeTrap w { cause := c, tval := tval, tepc := tepc } async srce fpc =
      (s.withdraw w).setAgent w (th.enter g.handler c (tepc.getD th.pc) tval async srce fpc) := by
  have hzero : (g.handler == 0) = false := beq_eq_false_iff_ne.mpr (Group.handler_ne_zero htvec)
  rw [State.takeTrap_of_thread hw hg hth hbrk, hmachine, hinh, hzero]
  rfl

theorem State.takeTrap_holds (hbrk : c = .brk → s.claimed w.core = false) (hstop : th.inh = true ∨ fld g.tvec 54 2 = 0 ∨ c.machine = true) :
    s.takeTrap w { cause := c, tval := tval, tepc := tepc } async srce fpc =
      (s.withdraw w).hold w th c.code (tepc.getD th.pc) tval := by
  rw [State.takeTrap_of_thread hw hg hth hbrk, if_pos]
  rcases hstop with h | h | h
  · simp [h]
  · simp [Group.handler_eq_zero h]
  · simp [h]

end

/-! ## What the two outcomes leave -/

section
variable {s : State} {w : Who} {old : Thread} (hold : s.agent w = some old)
include hold

theorem State.agent_withdraw_setAgent (th : Thread) : ((s.withdraw w).setAgent w th).agent w = some th :=
  State.agent_setAgent_same ((s.agent_withdraw w w).trans hold) th

theorem State.agent_withdraw_hold (th : Thread) (code : Nat) (tepc tval : W64) :
    ((s.withdraw w).hold w th code tepc tval).agent w = some { th with status := .held, wait := .none, prog := Prog.idle } :=
  State.agent_withdraw_setAgent hold _

end

theorem State.hold_sup (s : State) (w : Who) (th : Thread) (code : Nat) (tepc tval : W64) : (s.hold w th code tepc tval).sup =
    s.sup ++ [{ core := w.core, t := w.issuer.setNo, wid := th.wid, code := code, tepc := tepc, tval := tval }] := by
  simp [State.hold, State.supervise, State.logFailure, State.report]

theorem State.hold_mem (s : State) (w : Who) (th : Thread) (code : Nat) (tepc tval : W64) : (s.hold w th code tepc tval).mem = s.mem := by
  simp [State.hold, State.supervise, State.logFailure, State.report]

theorem State.hold_hostMem (s : State) (w : Who) (th : Thread) (code : Nat) (tepc tval : W64) :
    (s.hold w th code tepc tval).hostMem = s.hostMem := by
  simp [State.hold, State.supervise, State.logFailure, State.report]

theorem SpKept.hold (s : State) (w : Who) (th : Thread) (code : Nat) (tepc tval : W64) : SpKept s (s.hold w th code tepc tval) :=
  (SpKept.setAgent s w { th with status := .held, wait := .none, prog := Prog.idle }).trans (.of_cores rfl)

theorem SpKept.withdraw (s : State) (w : Who) : SpKept s (s.withdraw w) := .withdrawFrom s false w

/-- Settles O16: the requests of the thread's instruction are withdrawn, which changes no agent, and the thread enters its handler. -/
theorem handlerEntry : Obligations.HandlerEntry := by
  unfold Obligations.HandlerEntry
  intro s w k g th c tval tepc async srce fpc hw hg hth hinh htvec hmachine hbrk hsrce hfpc t
  have ht : t = (s.withdraw w).setAgent w (th.enter g.handler c (tepc.getD th.pc) tval async srce fpc) :=
    State.takeTrap_enters hw hg hth hbrk hinh htvec hmachine
  rw [ht]
  refine ⟨_, State.agent_withdraw_setAgent hth _, rfl, rfl, ?_, rfl, rfl, rfl, ?_, ?_, ?_⟩
  · simp only [Thread.enter, Nat.mod_eq_of_lt hsrce, Nat.mod_eq_of_lt hfpc]
  · exact .of_eq (State.setAgent_mem ..) (State.setAgent_hostMem ..)
  · exact ((SpKept.withdraw s w).trans (.setAgent _ w _)).sp
  · exact fun v hv => (State.agent_setAgent_other _ _ hv).trans (s.agent_withdraw w v)

/-- Settles O17: nothing but the withdrawal of the instruction's requests and the hold with its record comes of the cause. -/
theorem escalation : Obligations.Escalation := by
  unfold Obligations.Escalation
  intro s w k g th c tval tepc hw hg hth hstop hbrk t
  have ht : t = (s.withdraw w).hold w th c.code (tepc.getD th.pc) tval := State.takeTrap_holds hw hg hth hbrk hstop
  rw [ht]
  refine ⟨State.agent_withdraw_hold hth .., ?_, ?_, ?_⟩
  · rw [State.hold_sup, hw]; rfl
  · exact .of_eq (State.hold_mem ..) (State.hold_hostMem ..)
  · exact ((SpKept.withdraw s w).trans (.hold _ w th _ _ _)).sp

end Sys2Proof.Machine

namespace Sys2Proof.Machine

/-! # The SYS instructions (14 R265, R268, 25 R419, R420, 07 R131) -/

/-! ## Fields of a register -/

theorem fld_eq_extract (v : W64) (hi lo : Nat) : fld v hi lo = (v.extractLsb' lo (hi + 1 - lo)).toNat := by
  rw [BitVec.extractLsb'_toNat, Nat.shiftRight_eq_div_pow]; rfl

/-- A field whose every bit a mask clears reads as zero. -/
theorem fld_and_not {m : W64} {hi lo : Nat} (h : (~~~m).extractLsb' lo (hi + 1 - lo) = 0) (v : W64) : fld (v &&& ~~~m) hi lo = 0 := by
  rw [fld_eq_extract, BitVec.extractLsb'_and, h]; simp

theorem getLsbD_w64 (n : Nat) {k : Nat} (h : k < 64) : (w64 n).getLsbD k = decide (n / 2 ^ k % 2 = 1) := by
  rw [w64, BitVec.getLsbD_ofNat, Nat.testBit_eq_decide_div_mod_eq, decide_eq_true h, Bool.true_and]

theorem natOf_le_one (p : Bool) : natOf p ≤ 1 := by cases p <;> decide

theorem decide_natOf (p : Bool) : decide (natOf p = 1) = p := by cases p <;> rfl

theorem fld_low_two (v : W64) : fld v 1 0 = v.toNat % 4 := by simp [fld, bitsOf]

/-! ## The trap state of a handler (14 R259, Table 3) -/

theorem Cause.code_lt (c : Cause) : c.code < 2 ^ 8 := by cases c <;> decide

section
variable (th : Thread) (handler : W64) (c : Cause) (tepc tval : W64) (async : Bool) (srce fpc : Nat)

theorem Thread.enter_causeCode : (th.enter handler c tepc tval async srce fpc).causeCode = c.code := by
  have hc := c.code_lt
  simp only [Thread.causeCode, Thread.enter, fld, bitsOf, w64, BitVec.toNat_ofNat]
  omega

theorem Thread.enter_inh : (th.enter handler c tepc tval async srce fpc).inh = true := by
  have hc := c.code_lt
  have hasync := natOf_le_one async
  have hmode := natOf_le_one th.kernel
  simp only [Thread.inh, Thread.enter, bitOf, getLsbD_w64 _ (show 11 < 64 by decide), decide_eq_true_eq]
  omega

/-- `A` is set on an asynchronous cause. -/
theorem Thread.enter_async : (th.enter handler c tepc tval async srce fpc).tcause.getLsbD 9 = async := by
  have hc := c.code_lt
  have hasync := natOf_le_one async
  have hmode := natOf_le_one th.kernel
  rw [Thread.enter, getLsbD_w64 _ (by decide)]
  refine .trans (congrArg (fun n => decide (n = 1)) ?_) (decide_natOf async)
  omega

/-- `PM` is the mode that the cause interrupts. -/
theorem Thread.enter_mode : (th.enter handler c tepc tval async srce fpc).tcause.getLsbD 10 = th.kernel := by
  have hc := c.code_lt
  have hasync := natOf_le_one async
  have hmode := natOf_le_one th.kernel
  rw [Thread.enter, getLsbD_w64 _ (by decide)]
  refine .trans (congrArg (fun n => decide (n = 1)) ?_) (decide_natOf th.kernel)
  omega

end

/-! ## The trap state after `eret` (14 R268) -/

theorem Thread.eret_causeCode (th : Thread) : th.eret.causeCode = 0 := by
  refine fld_and_not (m := th.eretMask) ?_ th.tcause
  unfold Thread.eretMask
  split <;> decide

theorem Thread.eret_inh (th : Thread) : th.eret.inh = false := by
  have hmask : th.eretMask.getLsbD 11 = true := by
    unfold Thread.eretMask
    split <;> decide
  simp [Thread.inh, Thread.eret, bitOf, hmask]

theorem Thread.eretMask_of_thread {th : Thread} (h : th.srce = 0) : th.eretMask = 0x8FF := by simp [Thread.eretMask, h, w64]

theorem Thread.eretMask_of_feed {th : Thread} (h : th.srce ≠ 0) : th.eretMask = w64 (0x8FF + 3 * 2 ^ 12 + (2 ^ 14 - 1) * 2 ^ 32) := by
  simp [Thread.eretMask, h]

theorem Thread.eret_srce {th : Thread} (h : th.srce ≠ 0) : th.eret.srce = 0 := by
  refine fld_and_not (m := th.eretMask) ?_ th.tcause
  rw [Thread.eretMask_of_feed h]
  decide

theorem Thread.eret_fpc {th : Thread} (h : th.srce ≠ 0) : th.eret.fpc = 0 := by
  refine fld_and_not (m := th.eretMask) ?_ th.tcause
  rw [Thread.eretMask_of_feed h]
  decide

/-! ## Retiring -/

@[simp] theorem State.jrnl_setGroup (s : State) (c : Nat) (g : Group) (j : Nat) : ((s.setGroup c g).core j).jrnl = (s.core j).jrnl := by
  rw [State.setGroup, State.core_setCore]
  split
  · next h => rw [h]
  · rfl

@[simp] theorem State.logPoint_cores (s : State) (w : Who) : (s.logPoint w).cores = s.cores := by
  unfold State.logPoint
  split
  · rfl
  · split
    · split <;> rfl
    · rfl

theorem State.jrnl_retire (s : State) (u : Thread) (j : Nat) : ((s.retire u).core j).jrnl = (s.core j).jrnl := by
  unfold State.retire State.retireOf State.retireAs
  split
  · rw [← State.jrnl_setGroup s s.cur.core _ j, State.core, State.logPoint_cores]; rfl
  · rfl

/-- The retiring agent is the one that it retires as, its counters apart. -/
theorem State.agent_retire {s : State} {th : Thread} (hme : s.me = some th) (u : Thread) :
    ∃ ctrs, (s.retire u).agent s.cur = some { u with ctrs := ctrs } := by
  obtain ⟨g, hg, hth⟩ := group_of_me hme
  refine ⟨(s.counted s.cur u).ctrs, ?_⟩
  rw [(State.retire_regroups hg u).agent, ← State.counted_ctrs]
  simpa [State.agent] using Group.withRetired_agent hth (s.counted s.cur u) s.gtick

theorem State.group_retire {s : State} {g : Group} (hg : s.group s.cur.core = some g) (u : Thread) :
    (s.retire u).group s.cur.core = some (g.withRetired s.cur.issuer (s.counted s.cur u) s.gtick) := by
  rw [(State.retire_regroups hg u).group]; simp

/-! ## Restarting a feed core (02 R30) -/

/-- The group once the feed core that `SRCE` names has restarted. -/
def Group.restartFeed (g : Group) (srce fpc : Nat) : Group :=
  match srce with
  | 1 => { g with loader := g.loader.restart fpc }
  | 2 => { g with storer := g.storer.restart fpc }
  | _ => g

theorem Group.restartFeed_thread (g : Group) (srce fpc k : Nat) : (g.restartFeed srce fpc).agent (.thread k) = g.agent (.thread k) := by
  unfold Group.restartFeed
  split <;> rfl

theorem State.restartFeed_eq {s : State} {c : Nat} {g : Group} (hg : s.group c = some g) (srce fpc : Nat) :
    s.restartFeed c srce fpc = if srce = 1 ∨ srce = 2 then s.setGroup c (g.restartFeed srce fpc) else s := by
  unfold State.restartFeed Group.restartFeed
  rw [hg]
  split <;> simp_all

theorem State.group_restartFeed {s : State} {c : Nat} {g : Group} (hg : s.group c = some g) (srce fpc : Nat) :
    (s.restartFeed c srce fpc).group c = some (g.restartFeed srce fpc) := by
  rw [State.restartFeed_eq hg]
  split
  · exact State.group_setGroup_same ..
  · next h =>
    obtain ⟨h1, h2⟩ := not_or.mp h
    rw [hg]
    unfold Group.restartFeed
    split <;> simp_all

theorem State.restartFeed_cur (s : State) (c srce fpc : Nat) : (s.restartFeed c srce fpc).cur = s.cur := by
  unfold State.restartFeed
  split <;> rfl

theorem State.jrnl_restartFeed (s : State) (c srce fpc j : Nat) : ((s.restartFeed c srce fpc).core j).jrnl = (s.core j).jrnl := by
  unfold State.restartFeed
  split <;> simp

/-- A feed core that does not run restarts at the word that holds `FPC`. -/
theorem Feed.restart_of_stopped {f : Feed} (h : f.run = false) (pc : Nat) :
    f.restart pc = { f with run := true, flt := false, th := { f.th with pc := w64 (pc / 4 * 4) } } := by simp [Feed.restart, h]

/-! ## `eret` -/

theorem needTarget_ok (s : State) {t : W64} (h : t.toNat % 4 = 0) : needTarget s t = .ok () := by simp [needTarget, fld_low_two, h]

theorem needTarget_misaligned (s : State) {t : W64} (h : t.toNat % 4 ≠ 0) : needTarget s t = raise s .align t := by
  simp [needTarget, fld_low_two, h]

section
variable {s t : State} {th : Thread} (hme : s.me = some th) (hkernel : th.kernel = true) (htarget : th.tepc.toNat % 4 = 0)
include hme hkernel htarget

theorem exec_eret (hentry : eretEntry s th = .ok t) :
    exec .eret s = .next ((t.restartFeed t.cur.core th.srce th.fpc).retire th.eret) := by
  change execEret s = _
  simp [execEret, getMe_ok hme, needKernel_ok hkernel, needTarget_ok s htarget, hentry]

end

theorem eretEntry_of_other (s : State) {th : Thread} (h : th.causeCode ≠ 0x0D) : eretEntry s th = .ok s := by
  have hcause : (th.causeCode != Cause.storeRefused.code) = true := bne_iff_ne.mpr h
  simp [eretEntry, hcause]

theorem eretEntry_clears {s : State} {th : Thread} {e : JEnt} {r c : Nat} (hcause : th.causeCode = 0x0D) (hretry : th.retry = false)
    (hstate : e.state = .reported r c) (he : (s.core s.cur.core).jent (fld th.tval 4 0) = some e) :
    eretEntry s th = .ok (s.setCore s.cur.core ((s.core s.cur.core).clearJent e.idx)) := by
  have hreported : e.isReported = true := by rw [JEnt.isReported, hstate]
  simp [eretEntry, hcause, Cause.code, he, hreported, hretry]

theorem Core.jent_eq_none {k : Core} {idx : Nat} (h : ∀ x ∈ k.jrnl, x.idx ≠ idx) : k.jent idx = none :=
  List.find?_eq_none.mpr fun x hx => by simpa using h x hx

theorem Core.idx_of_jent {k : Core} {idx : Nat} {e : JEnt} (h : k.jent idx = some e) : e.idx = idx := by simpa using List.find?_some h

/-- A refused entry that nothing is outstanding of leaves the journal once its refusal has been dealt with. -/
theorem Core.jent_clearJent {k : Core} {e : JEnt} (hbad : ∀ p ∈ e.parts, p.bad = true) (honly : ∀ x ∈ k.jrnl, x.idx = e.idx → x = e) :
    (k.clearJent e.idx).jent e.idx = none := by
  refine Core.jent_eq_none fun x hx hidx => ?_
  obtain ⟨hmem, hparts⟩ := List.mem_filter.mp hx
  obtain ⟨y, hy, rfl⟩ := List.mem_map.mp hmem
  by_cases hyidx : y.idx = e.idx
  · have hcleared : y.cleared.parts = [] := by
      rw [honly y hy hyidx]
      exact List.filter_eq_nil_iff.mpr fun p hp => by simp [hbad p hp]
    simp [hyidx, hcleared] at hparts
  · simp only [beq_iff_eq, hyidx, if_false] at hidx

theorem State.group_setCore {s : State} {c : Nat} {k : Core} (h : k.group = (s.core c).group) (j : Nat) : (s.setCore c k).group j = s.group j := by
  rw [State.group, State.core_setCore]
  split
  · next hj => rw [hj]; exact h
  · rfl

theorem State.agent_setCore {s : State} {c : Nat} {k : Core} (h : k.group = (s.core c).group) (w : Who) : (s.setCore c k).agent w = s.agent w := by
  unfold State.agent
  rw [State.group_setCore h]

/-- From `s` to `t` thread `th` has returned from its handler, its counters apart: the feed core that its cause came from has restarted, and no
journal has changed. -/
structure Returned (s t : State) (th u : Thread) (g h : Group) : Prop where
  agent  : t.agent s.cur = some u
  eret   : u = { th.eret with ctrs := u.ctrs }
  group  : t.group s.cur.core = some h
  loader : h.loader = (g.restartFeed th.srce th.fpc).loader
  storer : h.storer = (g.restartFeed th.srce th.fpc).storer
  jrnl   : ∀ c, (t.core c).jrnl = (s.core c).jrnl

theorem returned_of_thread {s : State} {th : Thread} {g : Group} {k : Nat} (hme : s.me = some th) (hg : s.group s.cur.core = some g)
    (hthread : s.cur.issuer = .thread k) :
    ∃ u h, Returned s ((s.restartFeed s.cur.core th.srce th.fpc).retire th.eret) th u g h := by
  have hcur := s.restartFeed_cur s.cur.core th.srce th.fpc
  have hgroup := State.group_restartFeed hg th.srce th.fpc
  have hjrnl := s.jrnl_restartFeed s.cur.core th.srce th.fpc
  have hth : g.agent (.thread k) = some th := by rw [← hthread, ← State.agent_of_group hg]; exact hme
  generalize s.restartFeed s.cur.core th.srce th.fpc = t at hcur hgroup hjrnl
  rw [← hcur] at hgroup
  have htme : t.me = some th := by
    rw [State.me, State.agent_of_group hgroup, hcur, hthread, Group.restartFeed_thread]
    exact hth
  obtain ⟨ctrs, hagent⟩ := State.agent_retire htme th.eret
  have hretired := State.group_retire hgroup th.eret
  rw [hcur] at hagent hretired
  rw [hthread] at hretired
  exact ⟨_, _, hagent, rfl, hretired, rfl, rfl, fun c => (t.jrnl_retire th.eret c).trans (hjrnl c)⟩

section
variable {s : State} {th : Thread} {g : Group} {k : Nat} (hme : s.me = some th) (hg : s.group s.cur.core = some g) (hkernel : th.kernel = true)
  (htarget : th.tepc.toNat % 4 = 0) (hthread : s.cur.issuer = .thread k)
include hme hg hkernel htarget hthread

/-- The `eret` of a refused store frees the entry (14 R265). -/
theorem exec_eret_frees {e : JEnt} {r c : Nat} (hcause : th.causeCode = 0x0D) (hretry : th.retry = false) (hstate : e.state = .reported r c)
    (hbad : ∀ p ∈ e.parts, p.bad = true) (he : (s.core s.cur.core).jent (fld th.tval 4 0) = some e)
    (honly : ∀ x ∈ (s.core s.cur.core).jrnl, x.idx = fld th.tval 4 0 → x = e) :
    ∃ t u, exec .eret s = .next t ∧ t.agent s.cur = some u ∧ u.pc = th.tepc ∧ u.causeCode = 0 ∧ u.inh = false ∧
      (t.core s.cur.core).jent (fld th.tval 4 0) = none := by
  have hidx : e.idx = fld th.tval 4 0 := Core.idx_of_jent he
  have hclear := Core.jent_clearJent hbad (hidx ▸ honly)
  have hexec := exec_eret hme hkernel htarget (eretEntry_clears hcause hretry hstate he)
  have hsame : ((s.core s.cur.core).clearJent e.idx).group = (s.core s.cur.core).group := rfl
  obtain ⟨u, h, hret⟩ := returned_of_thread (s := s.setCore s.cur.core ((s.core s.cur.core).clearJent e.idx))
    ((State.agent_setCore hsame s.cur).trans hme) ((State.group_setCore hsame s.cur.core).trans hg) hthread
  refine ⟨_, u, hexec, hret.agent, by rw [hret.eret]; rfl, by rw [hret.eret]; exact th.eret_causeCode, by rw [hret.eret]; exact th.eret_inh, ?_⟩
  rw [Core.jent, hret.jrnl, State.core_setCore_same, ← hidx]
  exact hclear

/-- The `eret` of another cause returns and restarts the feed core that the cause came from (R268). -/
theorem exec_eret_returns (hcause : th.causeCode ≠ 0x0D) : ∃ t u h, exec .eret s = .next t ∧ Returned s t th u g h := by
  obtain ⟨u, h, hret⟩ := returned_of_thread hme hg hthread
  exact ⟨_, u, h, exec_eret hme hkernel htarget (eretEntry_of_other s hcause), hret⟩

end

/-! ## `icinv` (25 R420) -/

theorem blockMeets_eq_false {block lo n : Nat} (h : blockMeets block lo n = false) : block * 32 + 32 ≤ lo ∨ lo + n ≤ block * 32 ∨ n = 0 := by
  simp only [blockMeets, meets, Bool.and_eq_false_iff, decide_eq_false_iff_not] at h
  omega

theorem State.not_meets_of_mem_dropBlocks {s : State} {c lo n : Nat} {e : Nat × List Byte} (he : e ∈ ((s.dropBlocks c lo n).core c).fetch) :
    blockMeets (e.1 % 2 ^ 60) lo n = false := by
  rw [State.dropBlocks, State.core_setCore_same] at he
  simpa using (List.mem_filter.mp he).2

theorem State.agent_dropBlocks {s : State} {c k : Nat} {u : Thread} (h : s.agent { core := c, issuer := .thread k } = some u) (lo n : Nat) :
    (s.dropBlocks c lo n).agent { core := c, issuer := .thread k } = some { u with loopTgt := none } := by
  unfold State.agent State.group at h
  unfold State.agent State.group State.dropBlocks
  rw [State.core_setCore_same]
  dsimp only at h ⊢
  cases hg : (s.core c).group with
  | none => rw [hg] at h; cases h
  | some g =>
    rw [hg] at h
    have hk : g.threads[k]? = some u := h
    simp [Group.agent, hk]

section
variable {s : State} {th : Thread} {g : Group} {a b c : Reg}

theorem exec_icinv (hready : Ready s th [a, b] []) : exec (.icinv a b) s =
    .next ((if th.rx b == 0 then s else s.dropBlocks s.cur.core (th.rx a).toNat (th.rx b).toNat).retireNext 8) := by
  change execIcinv a b s = _
  simp [execIcinv, hready.getMe, hready.needLive]

theorem exec_icinvFeed (hready : Ready s th [a, b, c] []) (hg : s.group s.cur.core = some g) (storer : Bool) {bytes : List Byte}
    (hva : (th.rx a).toNat % 4 = 0) (hn : (th.rx b).toNat % 4 = 0) (hoff : (th.rx c).toNat % 4 = 0)
    (hfits : (th.rx b).toNat + (th.rx c).toNat ≤ 16384) (hsome : (th.rx b).toNat ≠ 0) (hglobal : regionOf (th.rx a).toNat = .global)
    (hcheck : checkRuns s s.cur g th .read [{ ea := (th.rx a).toNat, n := (th.rx b).toNat, align := 4, data := 0 }] = .ok ())
    (hout : NoneOutstanding s) (hcopy : s.copyBytes s.cur g th (th.rx a).toNat (th.rx b).toNat = .ok bytes) :
    exec (.icinvFeed a b c storer) s = .next ((s.setGroup s.cur.core (if storer
      then { g with storer := { g.storer with istore := putBytes g.storer.istore (th.rx c).toNat bytes } }
      else { g with loader := { g.loader with istore := putBytes g.loader.istore (th.rx c).toNat bytes } })).retireNext 8) := by
  change execIcinvFeed a b c storer s = _
  simp [execIcinvFeed, hready.getMe, getGroup_ok hg, hready.needLive, hva, hn, hoff, Nat.not_lt.mpr hfits, hsome, hglobal, hcheck,
    overlapWait_none hout, hcopy]

end

/-! ## Instructions that raise (14 R268, 25 R419) -/

section
variable {s : State} {th : Thread} (hme : s.me = some th)
include hme

theorem exec_trap (imm : BitVec 16) : exec (.trap imm) s =
    .next (s.takeTrap s.cur { cause := .sysTrap, tval := imm.setWidth 64, tepc := some (th.pc + 8) } false 0 0) := by
  change execTrap imm s = _
  rw [execTrap, getMe_ok hme]; rfl

/-- A privileged instruction of a user thread raises PRIV. -/
theorem traps_user (hkernel : th.kernel = false) (scope : Scope) (a b : Reg) : Traps .eret s .priv (lowBits .eret) ∧
    Traps .halt s .priv (lowBits .halt) ∧ Traps (.tlbInv scope a b) s .priv (lowBits (.tlbInv scope a b)) := by
  refine ⟨?_, ?_, ?_⟩
  · change execEret s = _
    simp [execEret, getMe_ok hme, needKernel_user hkernel]
  · change execHalt s = _
    simp [execHalt, getMe_ok hme, needKernel_user hkernel]
  · change execTlbInv scope a b s = _
    simp [execTlbInv, getMe_ok hme, needKernel_user hkernel]

theorem eret_traps_misaligned (hkernel : th.kernel = true) (htarget : th.tepc.toNat % 4 ≠ 0) : Traps .eret s .align th.tepc := by
  change execEret s = _
  simp [execEret, getMe_ok hme, needKernel_ok hkernel, needTarget_misaligned s htarget]

theorem exec_halt (hkernel : th.kernel = true) (hout : NoneOutstanding s) : exec .halt s = .next (s.hold s.cur th 0 th.pc 0) := by
  change execHalt s = _
  simp [execHalt, getMe_ok hme, needKernel_ok hkernel, releaseWait_none hout]

theorem eret_retires (hkernel : th.kernel = true) (htarget : th.tepc.toNat % 4 = 0) (hcause : th.causeCode ≠ 0x0D) (hsrce : th.srce = 0) :
    Retires .eret s { th.jumpTo th.tepc with kernel := th.tcause.getLsbD 10, tcause := th.tcause &&& ~~~(0x8FF : W64) } := by
  obtain ⟨g, hg, -⟩ := group_of_me hme
  have hnone : s.restartFeed s.cur.core th.srce th.fpc = s := by rw [State.restartFeed_eq hg, hsrce]; rfl
  rw [Retires, exec_eret hme hkernel htarget (eretEntry_of_other s hcause), hnone, Thread.eret, Thread.eretMask_of_thread hsrce]
  rfl

/-- A cause that enters the handler leaves the thread there, in kernel mode. -/
theorem enters_handler {g : Group} {k : Nat} (hg : s.group s.cur.core = some g) (hthread : s.cur.issuer = .thread k) (hinh : th.inh = false)
    (htvec : fld g.tvec 54 2 ≠ 0) {c : Cause} (hmachine : c.machine = false) (hbrk : c = .brk → s.claimed s.cur.core = false) (tval : W64)
    (tepc : Option W64) {i : Instr} (hexec : exec i s = .next (s.takeTrap s.cur { cause := c, tval := tval, tepc := tepc } false 0 0)) :
    ∃ t u, exec i s = .next t ∧ t.agent s.cur = some u ∧ u.causeCode = c.code ∧ u.tval = tval ∧ u.tepc = tepc.getD th.pc ∧
      u.kernel = true ∧ u.inh = true ∧ u.pc = g.handler := by
  rw [State.takeTrap_enters hthread hg hme hbrk hinh htvec hmachine] at hexec
  exact ⟨_, _, hexec, State.agent_withdraw_setAgent hme _, Thread.enter_causeCode .., rfl, rfl, rfl, Thread.enter_inh .., rfl⟩

end

/-- Settles O18: each instruction's own check or effect, and what a cause and a return come to on a thread. -/
theorem systemClass : Obligations.SystemClass := by
  unfold Obligations.SystemClass
  refine ⟨?_, ?_, ?_, ?_⟩
  · intro s th g k imm scope a b hme hg
    refine ⟨exec_trap hme imm, rfl, fun hthread hinh htvec => ⟨?_, fun hclaimed => ?_⟩, fun hkernel => traps_user hme hkernel scope a b,
      eret_traps_misaligned hme, eret_retires hme, fun hkernel hout => ⟨_, _, exec_halt hme hkernel hout⟩⟩
    · exact enters_handler hme hg hthread hinh htvec rfl (by simp) _ _ (exec_trap hme imm)
    · exact enters_handler hme hg hthread hinh htvec (c := .brk) rfl (fun _ => hclaimed) _ none rfl
  · intro s th g e r c k hme hg hkernel htarget hthread
    refine ⟨exec_eret_frees hme hg hkernel htarget hthread, fun hcause hsrce => ?_⟩
    have hfeed : th.srce ≠ 0 := by omega
    obtain ⟨t, u, h, hexec, hret⟩ := exec_eret_returns hme hg hkernel htarget hthread hcause
    refine ⟨t, u, h, hexec, hret.agent, ?_, ?_, ?_, ?_, ?_, ?_, hret.group, fun hone hrun => ?_, fun htwo hrun => ?_⟩
    · rw [hret.eret]; rfl
    · rw [hret.eret]; rfl
    · rw [hret.eret]; exact th.eret_causeCode
    · rw [hret.eret]; exact th.eret_inh
    · rw [hret.eret]; exact Thread.eret_srce hfeed
    · rw [hret.eret]; exact Thread.eret_fpc hfeed
    · rw [hret.loader, hret.storer, hone, Group.restartFeed, Feed.restart_of_stopped hrun]
      exact ⟨rfl, rfl, rfl, rfl⟩
    · rw [hret.loader, hret.storer, htwo, Group.restartFeed, Feed.restart_of_stopped hrun]
      exact ⟨rfl, rfl, rfl, rfl⟩
  · intro s th g a b c storer bytes hready2 hready3 hg va n off run
    refine ⟨fun hb => ?_, fun e he => blockMeets_eq_false (State.not_meets_of_mem_dropBlocks he), fun k u hu => State.agent_dropBlocks hu va n,
      fun hb => ?_, exec_icinvFeed hready3 hg storer⟩
    · rw [exec_icinv hready2, if_neg (by simpa using hb)]
    · rw [Retires, exec_icinv hready2, if_pos (by simpa using hb), retireNext_eq hready2.me]
  · intro s th hme
    change execYield s = _
    simp [execYield, getMe_ok hme]

end Sys2Proof.Machine

namespace Sys2Proof.Machine

/-! # Asynchronous causes, held threads and waiters (14 R254, R259, R261; 11 R222 to R227; 17 R319; 18 R336) -/

/-! ## Selecting an event's units -/

theorem State.canRun_select (s : State) (a b : Nat) (w : Who) : (s.select a b).canRun w = s.canRun w := rfl

theorem State.SameGroups.select (s : State) (a b : Nat) : s.SameGroups (s.select a b) := ⟨rfl, rfl, rfl, fun _ => rfl⟩

theorem State.running_of_canRun {s : State} {core k : Nat} {th : Thread} (hth : s.agent ⟨core, .thread k⟩ = some th)
    (h : s.canRun ⟨core, .thread k⟩ = true) : th.status = .running := by
  unfold State.agent State.group at hth
  unfold State.canRun at h
  dsimp only at hth h
  cases hg : (s.core core).group with
  | none => rw [hg] at hth; cases hth
  | some g =>
    rw [hg] at hth h
    have hk : g.threads[k]? = some th := hth
    simp only [hk, Bool.and_eq_true, beq_iff_eq] at h
    exact h.2.2

/-! ## Causes that a thread takes between two instructions (14 R254) -/

theorem State.dueCause_of_head {th : Thread} {a : Async} {rest : List Async} (hinh : th.inh = false) (hpend : th.pend = a :: rest)
    (hjidx : a.jidx = none) (s : State) (core : Nat) : s.dueCause core th (fun _ => false) = some a := by
  simp [State.dueCause, Thread.pendingCause, hinh, hpend, hjidx]

theorem State.dueCause_eq_none {th : Thread} (h : th.pend = [] ∨ th.inh = true) (s : State) (core : Nat) (own : Nat → Bool) :
    s.dueCause core th own = none := by
  have hnone : th.pendingCause = none := by
    rcases h with h | h <;> simp [Thread.pendingCause, h]
  rw [State.dueCause, hnone]

section
variable {s : State} {core k : Nat} {g : Group} {th : Thread} {a : Async} {rest : List Async} (hg : s.group core = some g)
  (hth : s.agent ⟨core, .thread k⟩ = some th) (hpend : th.pend = a :: rest) (hjidx : a.jidx = none)
include hg hth hpend hjidx

/-- The oldest cause leaves the queue, and holds the thread or enters its handler. -/
theorem State.takeCause_of_head : s.takeCause core k a =
    if (a.cause.machine && a.srce == 0) || g.handler == 0 then
      (s.withdraw ⟨core, .thread k⟩).hold ⟨core, .thread k⟩ { th with pend := rest } a.cause.code th.pc a.tval
    else (s.withdraw ⟨core, .thread k⟩).setAgent ⟨core, .thread k⟩
      (({ th with pend := rest } : Thread).enter g.handler a.cause th.pc a.tval true a.srce a.fpc) := by
  have herase : th.pend.erase a = rest := by rw [hpend, List.erase_cons_head]
  simp only [State.takeCause, hg, hth, hjidx, herase, Option.bind_none]

omit hg in
theorem exec_asyncTrapEntry (hrun : s.canRun ⟨core, .thread k⟩ = true) (hinh : th.inh = false) :
    exec .asyncTrapEntry (s.select core k) = .next ((s.select core k).takeCause core k a) := by
  have hdue := State.dueCause_of_head hinh hpend hjidx (s.select core k) core
  have hagent : (s.select core k).agent ⟨core, .thread k⟩ = some th := hth
  change execAsyncTrapEntry _ = _
  simp [execAsyncTrapEntry, event, hagent, hdue, State.canRun_select, hrun]

theorem exec_asyncTrapEntry_enters (hrun : s.canRun ⟨core, .thread k⟩ = true) (hinh : th.inh = false) (hmachine : a.cause.machine = false)
    (htvec : fld g.tvec 54 2 ≠ 0) :
    ∃ t u, exec .asyncTrapEntry (s.select core k) = .next t ∧ t.agent ⟨core, .thread k⟩ = some u ∧ MemSame s t ∧ SpSame s t ∧
      u = ({ th with pend := rest } : Thread).enter g.handler a.cause th.pc a.tval true a.srce a.fpc := by
  have hzero : (g.handler == 0) = false := beq_eq_false_iff_ne.mpr (Group.handler_ne_zero htvec)
  have hexec := exec_asyncTrapEntry hth hpend hjidx hrun hinh
  rw [State.takeCause_of_head (s := s.select core k) hg hth hpend hjidx, hmachine, hzero] at hexec
  exact ⟨_, _, hexec, State.agent_withdraw_setAgent (s := s.select core k) hth _, .of_eq (State.setAgent_mem ..) (State.setAgent_hostMem ..),
    ((SpKept.withdraw (s.select core k) _).trans (.setAgent _ _ _)).sp, rfl⟩

theorem exec_asyncTrapEntry_holds (hrun : s.canRun ⟨core, .thread k⟩ = true) (hinh : th.inh = false)
    (hstop : (a.cause.machine = true ∧ a.srce = 0) ∨ fld g.tvec 54 2 = 0) :
    ∃ t u, exec .asyncTrapEntry (s.select core k) = .next t ∧ t.agent ⟨core, .thread k⟩ = some u ∧
      u = { th with status := .held, wait := .none, prog := Prog.idle, pend := rest } ∧
      t.sup = s.sup ++ [{ core := core, t := k, wid := th.wid, code := a.cause.code, tepc := th.pc, tval := a.tval }] := by
  have hexec := exec_asyncTrapEntry hth hpend hjidx hrun hinh
  rw [State.takeCause_of_head (s := s.select core k) hg hth hpend hjidx, if_pos] at hexec
  · exact ⟨_, _, hexec, State.agent_withdraw_hold (s := s.select core k) hth .., rfl, State.hold_sup ..⟩
  · rcases hstop with ⟨hmachine, hsrce⟩ | htvec
    · simp [hmachine, hsrce]
    · simp [Group.handler_eq_zero htvec]

end

theorem exec_asyncTrapEntry_idle {s : State} {core k : Nat} {th : Thread} (hth : s.agent ⟨core, .thread k⟩ = some th)
    (h : th.pend = [] ∨ th.inh = true ∨ th.status ≠ .running ∨ s.canRun ⟨core, .thread k⟩ = false) :
    exec .asyncTrapEntry (s.select core k) = .next (s.select core k) := by
  have hagent : (s.select core k).agent ⟨core, .thread k⟩ = some th := hth
  change execAsyncTrapEntry _ = _
  by_cases hnone : th.pend = [] ∨ th.inh = true
  · simp [execAsyncTrapEntry, event, hagent, State.dueCause_eq_none hnone]
  · have hstill : s.canRun ⟨core, .thread k⟩ = false := by
      obtain ⟨hpend, hinh⟩ := not_or.mp hnone
      rcases h with h | h | h | h
      · exact absurd h hpend
      · exact absurd h hinh
      · exact Bool.eq_false_iff.mpr fun hrun => h (State.running_of_canRun hth hrun)
      · exact h
    simp only [execAsyncTrapEntry, event, State.select_selA, State.select_selB, hagent, State.canRun_select, hstill]
    split <;> rfl

/-- Firmware's release finds the record that the hold has sent last (14 R261). -/
theorem exec_releaseHeldThread {s : State} {core k : Nat} {th : Thread} {r : SupRec} {old : List SupRec}
    (hth : s.agent ⟨core, .thread k⟩ = some th) (hheld : th.status = .held) (hsup : s.sup = old ++ [r]) (hcore : r.core = core) (ht : r.t = k)
    (hwid : r.wid = th.wid) : exec .releaseHeldThread (s.select core k) =
      .next ((s.select core k).setAgent ⟨core, .thread k⟩ { th with status := .running, pc := r.tepc }) := by
  have hagent : (s.select core k).agent ⟨core, .thread k⟩ = some th := hth
  have hlast : (s.select core k).sup = old ++ [r] := hsup
  change execReleaseHeldThread _ = _
  simp [execReleaseHeldThread, event, hagent, hheld, hsup, hcore, ht, hwid]

/-! ## Waiters due at a bank (11 R222, R224) -/

@[simp] theorem State.banks_setGroup (s : State) (c : Nat) (g : Group) (j : Nat) : ((s.setGroup c g).core j).banks = (s.core j).banks := by
  rw [State.setGroup, State.core_setCore]
  split
  · next h => rw [h]
  · rfl

@[simp] theorem State.banks_setAgent (s : State) (w : Who) (th : Thread) (j : Nat) : ((s.setAgent w th).core j).banks = (s.core j).banks := by
  unfold State.setAgent
  split
  · exact State.banks_setGroup ..
  · rfl

/-- Replacing a bank of a core keeps every group. -/
theorem State.SameGroups.setBank (s : State) (core b : Nat) (v : Bank) : s.SameGroups (s.setCore core ((s.core core).setBank b v)) :=
  ⟨rfl, rfl, rfl, State.group_setCore rfl⟩

theorem Core.bank_setBank (k : Core) {b : Nat} (hb : b < 3) (v : Bank) : (k.setBank b v).bank b = v := vget_vset_same _ _ _ hb

/-- The selected bank's first waiter is due no more, unless its own agent steps it; the next one's re-evaluation follows. -/
def State.popWaiter (s : State) (q : Waiter) (rest : List Waiter) : State :=
  let t := if s.stepsItself s.selA q then s
    else s.setCore s.selA ((s.core s.selA).setBank (s.selB % 3) { (s.core s.selA).bank (s.selB % 3) with due := rest })
  if rest.isEmpty then t else t.now (.event .waiterReevaluation s.selA (t.selB % 3))

/-- Before what follows is asked for. -/
theorem State.popWaiter_cores (s : State) (q : Waiter) (rest : List Waiter) : (s.popWaiter q rest).cores =
    (if s.stepsItself s.selA q then s
      else s.setCore s.selA ((s.core s.selA).setBank (s.selB % 3) { (s.core s.selA).bank (s.selB % 3) with due := rest })).cores := by
  unfold State.popWaiter
  dsimp only
  split
  · rfl
  · rfl

theorem State.popWaiter_sameGroups (s : State) (q : Waiter) (rest : List Waiter) : s.SameGroups (s.popWaiter q rest) := by
  have hnow : ∀ (t : State) (x : Turn), t.SameGroups (t.now x) := fun _ _ => ⟨rfl, rfl, rfl, fun _ => rfl⟩
  unfold State.popWaiter
  dsimp only
  split <;> split
  · exact .refl s
  · exact .setBank s _ _ _
  · exact hnow s _
  · exact (State.SameGroups.setBank s _ _ _).trans (hnow _ _)

section
variable {s : State} {q : Waiter} {rest : List Waiter} (hdue : ((s.core s.selA).bank (s.selB % 3)).due = q :: rest)
include hdue

theorem State.popWaiter_due : (((s.popWaiter q rest).core s.selA).bank (s.selB % 3)).due = if s.stepsItself s.selA q then q :: rest else rest := by
  rw [State.core, State.popWaiter_cores]
  split
  · exact hdue
  · exact congrArg Bank.due ((congrArg (fun k : Core => k.bank (s.selB % 3)) (State.core_setCore_same s _ _)).trans
      (Core.bank_setBank _ (Nat.mod_lt _ (by decide)) _))

theorem exec_waiterReevaluation : exec .waiterReevaluation s = .next ((s.popWaiter q rest).restep s.selA q true) := by
  change execWaiterReevaluation s = _
  simp only [execWaiterReevaluation, event, hdue]
  rfl

end

/-- An agent's own access that is due is noted to be so, and its agent's turn is next (R224). -/
theorem exec_waiterReevaluation_own {s : State} {core k b word : Nat} {th : Thread} {parts : List SpPart} {rest : List Waiter} (hb : b < 3)
    (hth : s.agent (whoAt core k) = some th) (hdue : ((s.core core).bank b).due = .own (whoAt core k).issuer word parts :: rest) :
    ∃ t, exec .waiterReevaluation (s.select core b) = .next t ∧
      ((t.core core).bank b).due = (if s.canRun (whoAt core k) then ((s.core core).bank b).due else rest) ∧
      t.agent (whoAt core k) = some { th with prog := { th.prog with note := 1 } } ∧ t.due.head? = some (.agent (whoAt core k)) ∧
      MemSame s t ∧ SpSame s t := by
  have hmod : b % 3 = b := Nat.mod_eq_of_lt hb
  have hselected : (((s.select core b).core core).bank (b % 3)).due = .own (whoAt core k).issuer word parts :: rest := by
    rw [hmod]; exact hdue
  have hleft := State.popWaiter_due (s := s.select core b) hselected
  have hsame := (State.SameGroups.select s core b).trans
    ((s.select core b).popWaiter_sameGroups (.own (whoAt core k).issuer word parts) rest)
  have hexec := exec_waiterReevaluation (s := s.select core b) hselected
  generalize (s.select core b).popWaiter _ rest = u at hleft hsame hexec
  have hagent : u.agent (whoAt core k) = some th := (hsame.agent _).trans hth
  have hstep : u.restep core (.own (whoAt core k).issuer word parts) true =
      (u.setAgent (whoAt core k) { th with prog := { th.prog with note := 1 } }).now (.agent (whoAt core k)) := by
    change (match u.agent (whoAt core k) with | some th => _ | none => u) = _
    rw [hagent]; rfl
  rw [State.select_selA, hstep] at hexec
  rw [State.select_selA, State.select_selB, hmod] at hleft
  refine ⟨_, hexec, ?_, State.agent_setAgent_same hagent _, rfl, ?_, ?_⟩
  · rw [hdue]
    refine .trans ?_ hleft
    rw [Core.bank, Core.bank, State.now_core_of, State.banks_setAgent]
  · exact .of_eq ((State.setAgent_mem ..).trans hsame.mem) ((State.setAgent_hostMem ..).trans hsame.hostMem)
  · exact fun c a => ((SpKept.setAgent u _ _).sp c a).trans (hsame.spByte c a)

theorem exec_waiterReevaluation_idle {s : State} {core b : Nat} (hb : b < 3) (hdue : ((s.core core).bank b).due = []) :
    exec .waiterReevaluation (s.select core b) = .next (s.select core b) := by
  have hselected : (((s.select core b).core core).bank (b % 3)).due = [] := by rw [Nat.mod_eq_of_lt hb]; exact hdue
  change execWaiterReevaluation (s.select core b) = _
  simp only [execWaiterReevaluation, event, State.select_selA, State.select_selB, hselected]

/-- An agent whose access waits for room presents itself in its own turn, which is next (R222). -/
theorem exec_waitQueueRetry_own {s : State} {core k b x word : Nat} {th : Thread} {parts : List SpPart} (hb : b < 3)
    (hth : s.agent (whoAt core k) = some th) (hretry : ((s.core core).bank b).retry[x]? = some (.own (whoAt core k).issuer word parts)) :
    exec .waitQueueRetry (s.select core (b + 3 * x)) = .next ((s.select core (b + 3 * x)).now (.agent (whoAt core k))) := by
  have hbank : (b + 3 * x) % 3 = b := by omega
  have hplace : (b + 3 * x) / 3 = x := by omega
  have hselected : (((s.select core (b + 3 * x)).core core).bank b).retry[x]? = some (.own (whoAt core k).issuer word parts) := hretry
  have hagent : (s.select core (b + 3 * x)).agent { core := core, issuer := (whoAt core k).issuer } = some th := hth
  change execWaitQueueRetry _ = _
  simp only [execWaitQueueRetry, event, State.select_selA, State.select_selB, hbank, hplace, hselected, State.restep, hagent]
  rfl

/-! ## The boundary of `act.swap` (11 R226) -/

theorem zip_range_getElem? {α : Type} {l : List α} {j : Nat} {x : α} (h : l[j]? = some x) :
    (l.zip (List.range l.length))[j]? = some (x, j) := by
  obtain ⟨hj, rfl⟩ := List.getElem?_eq_some_iff.mp h
  rw [List.getElem?_eq_getElem (by simpa using hj)]
  simp

/-- The first element that passes a test of it and its place. -/
theorem find?_zip_range {α : Type} {l : List α} {j : Nat} {x : α} {p : α × Nat → Bool} (hx : l[j]? = some x) (hp : p (x, j) = true)
    (hfirst : ∀ i y, i < j → l[i]? = some y → p (y, i) = false) : (l.zip (List.range l.length)).find? p = some (x, j) := by
  obtain ⟨hj, hget⟩ := List.getElem?_eq_some_iff.mp (zip_range_getElem? hx)
  refine List.find?_eq_some_iff_getElem.mpr ⟨hp, j, hj, hget, fun i hi => ?_⟩
  have hlen : i < l.length := by
    obtain ⟨hj', -⟩ := List.getElem?_eq_some_iff.mp hx
    omega
  have hne := hfirst i l[i] hi (List.getElem?_eq_getElem hlen)
  simpa using hne

theorem State.retireOf_regroups {s : State} {w : Who} {g : Group} (hg : s.group w.core = some g) (u : Thread) :
    (s.setGroup w.core (g.withRetired w.issuer (s.counted w u) s.gtick)).SameGroups (s.retireOf w u) := by
  unfold State.retireOf State.retireAs
  rw [hg]
  exact .logPoint _ _

/-- The waiting `act.swap` that comes first exchanges the tables and retires. -/
theorem exec_actSwapBoundary {s : State} {core j : Nat} {g : Group} {th : Thread} (hg : s.group core = some g) (hj : g.threads[j]? = some th)
    (hinst : th.prog.inst = some .actSwap) (hstage : th.prog.stage = 16) (hfree : g.tablesHeld j th.issued = false)
    (hfirst : ∀ i u, i < j → g.threads[i]? = some u → u.prog.inst ≠ some .actSwap) :
    exec .actSwapBoundary (s.select core 0) =
      .next (((s.select core 0).swapTables core).retireOf { core := core, issuer := .thread j } (th.advance 8)) := by
  have hgroup : (s.select core 0).group core = some g := hg
  have hfind := find?_zip_range (p := fun e : Thread × Nat => e.1.prog.inst == some .actSwap && e.1.prog.stage == 16 &&
    !g.tablesHeld e.2 e.1.issued) hj (by simp [hinst, hstage, hfree]) fun i y hi hy => by simp [hfirst i y hi hy]
  change execActSwapBoundary _ = _
  simp only [execActSwapBoundary, event, State.select_selA, hgroup, hfind]

theorem exec_actSwapBoundary_retires {s : State} {core j : Nat} {g : Group} {th : Thread} (hg : s.group core = some g)
    (hj : g.threads[j]? = some th) (hinst : th.prog.inst = some .actSwap) (hstage : th.prog.stage = 16)
    (hfree : g.tablesHeld j th.issued = false) (hfirst : ∀ i u, i < j → g.threads[i]? = some u → u.prog.inst ≠ some .actSwap) :
    ∃ t u h, exec .actSwapBoundary (s.select core 0) = .next t ∧ t.agent { core := core, issuer := .thread j } = some u ∧ u.pc = th.pc + 8 ∧
      u.retired = th.retired + 1 ∧ u.x = th.x ∧ t.group core = some h ∧ h.act = g.shadow ∧ h.shadow = g.act ∧ MemSame s t ∧ SpSame s t := by
  have hgroup : (s.select core 0).group core = some g := hg
  have hexec := exec_actSwapBoundary hg hj hinst hstage hfree hfirst
  have hswap := State.swapTables_regroups hgroup
  generalize (s.select core 0).swapTables core = t at hexec hswap
  generalize hh : ({ g with act := g.shadow, shadow := g.act } : Group) = h at hswap
  have ht : t.group core = some h := by rw [hswap.group]; simp
  have hagent : h.agent (.thread j) = some th := by rw [← hh]; exact hj
  have hretired := (hswap.regroup _).trans (State.retireOf_regroups (w := { core := core, issuer := .thread j }) ht (th.advance 8))
  have hctrs := t.counted_ctrs { core := core, issuer := .thread j } (th.advance 8)
  generalize t.counted _ (th.advance 8) = u at hretired hctrs
  have hsp : SpKept (s.select core 0) ((s.select core 0).setGroup core (h.withRetired (.thread j) u t.gtick)) := .setGroup fun a => by
    rw [Group.withRetired_spData, ← hh, State.spByte_of_group hgroup]
  refine ⟨_, u, h.withRetired (.thread j) u t.gtick, hexec, ?_, ?_, ?_, ?_, ?_, ?_, ?_, ?_, ?_⟩
  · rw [hretired.agent]
    simpa [State.agent] using Group.withRetired_agent hagent u t.gtick
  · rw [hctrs]; rfl
  · rw [hctrs]; rfl
  · rw [hctrs]; rfl
  · rw [hretired.group]; simp
  · rw [Group.withRetired_act, ← hh]
  · rw [Group.withRetired_shadow, ← hh]
  · exact .of_eq hretired.mem hretired.hostMem
  · exact fun c a => (hretired.spByte c a).trans (hsp.sp c a)

/-! ## Accesses to the agent's own scratchpad (10 R184 to R186) -/

theorem regionOf_near {a : Nat} (h : a < 0x180000) : regionOf a = .near := by simp [regionOf, h]

/-- The checks of one run of allocated bytes of the near window, aligned as it must be. -/
theorem checkPlace_near {g : Group} {r : Run} (hsome : r.n ≠ 0) (halloc : r.ea + r.n ≤ g.alloc) (hnear : r.ea + r.n ≤ 0x180000)
    (haligned : r.ea % r.align = 0) (s : State) (w : Who) (th : Thread) (a : Acc) : checkPlace s w g th a [r] = .ok () := by
  have hlast : r.last = r.ea + r.n - 1 := Nat.mod_eq_of_lt (by omega)
  have hea : regionOf r.ea = .near := regionOf_near (by omega)
  have hend : regionOf r.last = .near := regionOf_near (by omega)
  have hcross : r.crossing = none := by simp [Run.crossing, hea, hend]
  have hregion : r.noRegion = none := by simp [Run.noRegion, hea, hend]
  have hbeyond : r.beyond g.alloc = none := by simp [Run.beyond, Nat.not_lt.mpr halloc]
  have hfault : s.runFault w.core g.dom th.kernel a r = none := by simp [State.runFault, hea]
  simp [checkPlace, lowestOf, lower, lowestFault, hcross, hregion, hbeyond, hfault, haligned]

/-! ## Barrier objects observed again (18 R336) -/

theorem State.bankBusy_of_idle {s : State} {core : Nat} (h : BanksIdle s core) (word : Nat) : s.bankBusy core word = false := by
  unfold BanksIdle at h
  have hbank : (s.core core).bank (bankOf word) = Bank.init := by
    rw [Core.bank, h]
    unfold vget
    split <;> simp
  rw [State.bankBusy, hbank]; rfl

section
variable {s : State} {th : Thread} {g : Group} (hme : s.me = some th) (hg : s.group s.cur.core = some g) (hout : NoneOutstanding s)
include hme hg hout

/-- A barrier object in the agent's own scratchpad, with nothing in the way of it, is read at once. -/
theorem barOpen_near {ea : Nat} (hwatch : Unwatched s s.cur.core) (hbanks : BanksIdle s s.cur.core) (haligned : ea % 16 = 0)
    (halloc : ea + 16 ≤ g.alloc) (hnear : ea + 16 ≤ 0x180000) (a : Acc) (o : MemOrd) (sc : Scope) :
    barOpen s a o sc ea = .ok (s, .sp s.cur.core ea, read64 g.spData ea, read64 g.spData (ea + 8)) := by
  have hcheck : checkPlace s s.cur g th .both [barRun ea] = .ok () :=
    checkPlace_near (r := barRun ea) (by simp [barRun]) halloc hnear haligned s s.cur th .both
  have hwatched : watchRuns s s.cur a [barRun ea] = .ok () := by rw [watchRuns, watched_none hwatch]
  have hplace : barPlace s s.cur g th ea = .ok (.sp s.cur.core ea) := by
    simp [barPlace, State.tgtOf, regionOf_near (show ea < 0x180000 by omega)]
  have hbusy : s.barBusy (.sp s.cur.core ea) = false := by simp [State.barBusy, State.bankBusy_of_idle hbanks]
  have hread : s.barRead (.sp s.cur.core ea) = .ok (s, read64 g.spData ea, read64 g.spData (ea + 8)) := by simp [State.barRead, hg]
  simp [barOpen, getMe_ok hme, getGroup_ok hg, hcheck, hwatched, releaseWait_none hout, overlapWait_none hout, hplace, hbusy, hread]

/-- A `bar.wait` whose object's phase has changed acquires and retires with word 1. -/
theorem barWait_retires {o : MemOrd} {sc : Scope} {d a r : Reg} (hready : Ready s th [a, r] []) (hwatch : Unwatched s s.cur.core)
    (hbanks : BanksIdle s s.cur.core) (haligned : (th.rx a).toNat % 16 = 0) (halloc : (th.rx a).toNat + 16 ≤ g.alloc)
    (hnear : (th.rx a).toNat + 16 ≤ 0x180000)
    (hphase : (read64 g.spData ((th.rx a).toNat + 8)).extractLsb' 32 31 ≠ (th.rx r).extractLsb' 0 31) :
    barWait o sc d a r s = .next ((s.acquire s.cur.core o sc).retireX d (read64 g.spData ((th.rx a).toNat + 8)) 8) := by
  have hopen := barOpen_near hme hg hout hwatch hbanks haligned halloc hnear .read o sc
  have hchanged : barPhase (read64 g.spData ((th.rx a).toNat + 8)) ≠ fld (th.rx r) 30 0 := by
    rw [barPhase, fld_eq_extract, fld_eq_extract]
    exact fun h => hphase (BitVec.eq_of_toNat_eq h)
  simp [barWait, getMe_ok hme, hready.needLive, hopen, hchanged]

/-! ## Event waits presented again (17 R318 to R320) -/

/-- The cluster that an event instruction names (R318). -/
def evCluster (s : State) (th : Thread) (rc : Bool) (r : Reg) : Nat := if rc then (th.rx r).toNat % 64 else s.cur.core / 32

theorem evOpen_ok {a r : Reg} {q : BitVec 2} {rc : Bool} (hready : Ready s th (if rc then [a, r] else [a]) [])
    (hfenced : (s.cluster (evCluster s th rc r)).fenced = false)
    (howner : vget none (s.cluster (evCluster s th rc r)).owner q.toNat = some g.dom) (o : MemOrd) (sc : Scope) :
    evOpen s o sc a q rc r = .ok (s, th, evCluster s th rc r) := by
  have hcl : (if rc then fld (th.rx r) 5 0 else clusterOf s.cur.core) = evCluster s th rc r := by
    simp [evCluster, fld, bitsOf, clusterOf]
  have htarget : evTarget s g th q rc r = .ok (evCluster s th rc r) := by
    simp [evTarget, hcl, hfenced, State.owns, howner]
  simp [evOpen, getMe_ok hme, getGroup_ok hg, hready.needLive, htarget, releaseWait_none hout]

section
variable {o : MemOrd} {sc : Scope} {d a r : Reg} {q : BitVec 2} {rc : Bool} (hready : Ready s th (if rc then [a, r] else [a]) [])
  (hfenced : (s.cluster (evCluster s th rc r)).fenced = false)
  (howner : vget none (s.cluster (evCluster s th rc r)).owner q.toNat = some g.dom)
include hready hfenced howner

/-- An `ev.wait` that was satisfied while it waited retires with the quarter as of then. -/
theorem evWait_answered {v : W64} (hgot : find th.prog.got 0 = some v) :
    evWait o sc d a q rc r s = .next ((s.acquire s.cur.core o sc).retireX d v 8) := by
  simp [evWait, evOpen_ok hme hg hout hready hfenced howner, hgot]

variable (hgot : find th.prog.got 0 = none) (hparked : ∀ x ∈ (s.cluster (evCluster s th rc r)).waits, x.1 ≠ s.cur)
include hgot hparked

/-- One that holds no wait entry retires with the quarter once its bits are set. -/
theorem evWait_satisfied (hset : (s.cluster (evCluster s th rc r)).quarter q.toNat &&& th.rx a = th.rx a) :
    evWait o sc d a q rc r s =
      .next ((s.acquire s.cur.core o sc).retireX d ((s.cluster (evCluster s th rc r)).quarter q.toNat) 8) := by
  have hnone : ((s.cluster (evCluster s th rc r)).waits.any fun x => x.1 == s.cur) = false := by simpa using hparked
  simp [evWait, evOpen_ok hme hg hout hready hfenced howner, hgot, hnone, hset]

/-- One whose bits are not all set takes a free wait entry. -/
theorem evWait_parks (hinst : th.prog.inst = some (.evWait o sc d a q rc r))
    (hunset : (s.cluster (evCluster s th rc r)).quarter q.toNat &&& th.rx a ≠ th.rx a)
    (hroom : (s.cluster (evCluster s th rc r)).waits.length < 64) :
    ∃ t, evWait o sc d a q rc r s = .next t ∧ (t.cluster (evCluster s th rc r)).waits = (s.cluster (evCluster s th rc r)).waits ++ [(s.cur, q.toNat)] ∧
      t.agent s.cur = some { th with wait := .sync, prog := { th.prog with stage := 16, note := 0 } } ∧ MemSame s t ∧ SpSame s t := by
  have hnone : ((s.cluster (evCluster s th rc r)).waits.any fun x => x.1 == s.cur) = false := by simpa using hparked
  have hexec : evWait o sc d a q rc r s = .next ((s.setCluster (evCluster s th rc r) { s.cluster (evCluster s th rc r) with
      waits := (s.cluster (evCluster s th rc r)).waits ++ [(s.cur, q.toNat)] }).setMe
        { th with wait := .sync, prog := { th.prog with stage := 16, note := 0 } }) := by
    simp [evWait, evOpen_ok hme hg hout hready hfenced howner, hgot, hnone, hunset, hroom, ← hinst]
  have hcluster : ∀ (t : State) (w : Who) (u : Thread) (cl : Nat), (t.setAgent w u).cluster cl = t.cluster cl := fun t w u cl => by
    rw [State.setAgent_eq]; rfl
  refine ⟨_, hexec, ?_, State.agent_setAgent_same (s := s.setCluster _ _) hme _, ?_, ?_⟩
  · rw [State.setMe, hcluster, State.cluster_setCluster_same]
  · exact .of_eq (State.setAgent_mem ..) (State.setAgent_hostMem ..)
  · exact (SpKept.setAgent (s.setCluster _ _) _ _).sp

end

end

/-! ## An agent that executes its waiting instruction again -/

section
variable {s : State} {core k : Nat} {th : Thread} (hth : s.agent (whoAt core k) = some th)
include hth

theorem exec_barWaitPoll (hrun : s.canRun (whoAt core k) = true) {o : MemOrd} {sc : Scope} {d a r : Reg}
    (hinst : th.prog.inst = some (.barWait o sc d a r)) :
    exec .barWaitPoll (s.select core k) = barWait o sc d a r { s.select core k with cur := whoAt core k } := by
  have hagent : (s.select core k).agent (whoAt core k) = some th := hth
  change execBarWaitPoll _ = _
  simp only [execBarWaitPoll, State.select_selA, State.select_selB, hagent, hinst, State.canRun_select, hrun]

theorem exec_evWaitRepresent (hrun : s.canRun (whoAt core k) = true) {o : MemOrd} {sc : Scope} {d a r : Reg} {q : BitVec 2} {rc : Bool}
    (hinst : th.prog.inst = some (.evWait o sc d a q rc r)) :
    exec .evWaitRepresent (s.select core k) = evWait o sc d a q rc r { s.select core k with cur := whoAt core k } := by
  have hagent : (s.select core k).agent (whoAt core k) = some th := hth
  change execEvWaitRepresent _ = _
  simp only [execEvWaitRepresent, State.select_selA, State.select_selB, hagent, hinst, State.canRun_select, hrun]

theorem exec_polls_idle (hinst : th.prog.inst = none) : exec .barWaitPoll (s.select core k) = .next (s.select core k) ∧
    exec .evWaitRepresent (s.select core k) = .next (s.select core k) := by
  have hagent : (s.select core k).agent (whoAt core k) = some th := hth
  refine ⟨?_, ?_⟩
  · change execBarWaitPoll _ = _
    simp only [execBarWaitPoll, State.select_selA, State.select_selB, hagent, hinst, event]
  · change execEvWaitRepresent _ = _
    simp only [execEvWaitRepresent, State.select_selA, State.select_selB, hagent, hinst, event]

end

/-- Settles O47: a pending cause and a release act on the thread alone; a waiter's turn, the exchange of the tables and an instruction that waits are
the agent's own steps. -/
theorem threadsAndWaiters : Obligations.ThreadsAndWaiters := by
  unfold Obligations.ThreadsAndWaiters
  refine ⟨?_, ?_⟩
  · intro s core k g th hg hth w
    refine ⟨fun hrun a rest _ hinh hpend hjidx hmachine htvec => ?_, fun hrun a rest _ hinh hpend hjidx hstop => ?_,
      exec_asyncTrapEntry_idle hth, fun r old hheld hsup hcore ht hwid => exec_releaseHeldThread hth hheld hsup hcore ht hwid⟩
    · obtain ⟨t, u, hexec, hagent, hmem, hsp, rfl⟩ := exec_asyncTrapEntry_enters hg hth hpend hjidx hrun hinh hmachine htvec
      exact ⟨t, _, hexec, hagent, rfl, rfl, Thread.enter_causeCode .., Thread.enter_async .., Thread.enter_mode .., Thread.enter_inh .., rfl, rfl,
        rfl, rfl, rfl, rfl, hmem, hsp⟩
    · exact exec_asyncTrapEntry_holds hg hth hpend hjidx hrun hinh hstop
  · intro s core k b th g hg hb w bank s0
    refine ⟨fun word parts rest hth hdue => exec_waiterReevaluation_own hb hth hdue, exec_waiterReevaluation_idle hb,
      fun x word parts hth hretry => exec_waitQueueRetry_own hb hth hretry,
      fun j hj hinst hstage hfree hfirst => exec_actSwapBoundary_retires hg hj hinst hstage hfree hfirst,
      fun hth hrun hout => ⟨fun o sc d a r hinst => ?_, fun o sc d a q rc r hinst => ?_⟩, exec_polls_idle⟩
    · have hpoll := exec_barWaitPoll hth hrun hinst
      refine ⟨hpoll, fun hready hwatch hbanks haligned halloc hnear hphase => ?_⟩
      rw [hpoll]
      exact barWait_retires (s := s0) hready.me hg hout hready hwatch hbanks haligned halloc hnear hphase
    · have hpoll := exec_evWaitRepresent hth hrun hinst
      refine ⟨hpoll, fun hready hfenced howner => ⟨fun v hgot => ?_, fun hgot hparked => ⟨fun hset => ?_, fun hunset hroom => ?_⟩⟩⟩
      · exact hpoll.trans (evWait_answered (s := s0) hready.me hg hout hready hfenced howner hgot)
      · exact hpoll.trans (evWait_satisfied (s := s0) hready.me hg hout hready hfenced howner hgot hparked hset)
      · rw [hpoll]
        exact evWait_parks (s := s0) hready.me hg hout hready hfenced howner hgot hparked hinst hunset hroom

end Sys2Proof.Machine

namespace Sys2Proof.Machine

/-! # Errors, power and time (14 R252, 25 R415 to R417, R424, R425, 26 R433, R436) -/

/-! ## Memory errors (R252, R425) -/

theorem exec_eccError_corrected {array : Nat} (h : arrayOk array = true) (pa : Nat) (by_ : Consumer) (s : State) :
    ∃ t, exec (.eccError pa (some array) by_) s = .next t ∧ MemSame s t ∧ t.cores = s.cores ∧
      look 0 t.mgmt.softErrs array = look 0 s.mgmt.softErrs array + 1 := by
  refine ⟨{ s with mgmt := { s.mgmt with softErrs := put 0 s.mgmt.softErrs array (look 0 s.mgmt.softErrs array + 1) } }, ?_,
    .of_eq rfl rfl, rfl, by simp [look_put]⟩
  change execEccError pa (some array) by_ s = _
  simp [execEccError, event, h]

theorem State.eccAt_running {s : State} {core k : Nat} {g : Group} {th : Thread} (hg : s.group core = some g)
    (hth : s.agent ⟨core, .thread k⟩ = some th) (hrun : th.status = .running) (pa : Nat) :
    s.eccAt ⟨core, .thread k⟩ pa = (s.withdraw ⟨core, .thread k⟩).hold ⟨core, .thread k⟩ th Cause.ecc.code th.pc (w64 pa) := by
  have htrap := State.takeTrap_holds (s := s) (c := .ecc) (tval := w64 pa) (tepc := none) (async := false) (srce := 0) (fpc := 0)
    (w := ⟨core, .thread k⟩) rfl hg hth (fun h => by cases h) (.inr (.inr rfl))
  simp [State.eccAt, hg, hth, hrun, htrap]

theorem exec_eccError_thread {s : State} {core k : Nat} {g : Group} {th : Thread} (hg : s.group core = some g)
    (hth : s.agent ⟨core, .thread k⟩ = some th) (hrun : th.status = .running) (pa : Nat) :
    ∃ t, exec (.eccError pa none (.thread core k)) s = .next t ∧
      t.agent ⟨core, .thread k⟩ = some { th with status := .held, wait := .none, prog := Prog.idle } ∧
      t.sup = s.sup ++ [{ core := core, t := k, wid := th.wid, code := Cause.ecc.code, tepc := th.pc, tval := w64 pa }] := by
  refine ⟨s.eccAt ⟨core, .thread k⟩ pa, rfl, ?_, ?_⟩
  · rw [State.eccAt_running hg hth hrun, State.agent_withdraw_hold hth]
  · rw [State.eccAt_running hg hth hrun, State.hold_sup]
    rfl

/-- A cause that names no entry joins the end of the queue. -/
theorem State.agent_pend {s : State} {core k : Nat} {th : Thread} {a : Async} (hth : s.agent ⟨core, .thread k⟩ = some th)
    (hjidx : a.jidx = none) : (s.pend core k a).agent ⟨core, .thread k⟩ = some { th with pend := th.pend ++ [a] } := by
  simp [State.pend, hth, hjidx, State.agent_setAgent_same hth]

theorem exec_eccError_later {s : State} {core k : Nat} {th : Thread} (hth : s.agent ⟨core, .thread k⟩ = some th)
    (hended : th.status ≠ .ended) (hidle : th.status ≠ .idle) (pa : Nat) :
    ∃ t, exec (.eccError pa none (.later core k)) s = .next t ∧ t.agent ⟨core, .thread k⟩ =
      some { th with pend := th.pend ++ [{ cause := .ecc, tval := w64 pa, srce := 0, fpc := 0, jidx := none }] } := by
  refine ⟨s.pend core k { cause := .ecc, tval := w64 pa, srce := 0, fpc := 0, jidx := none }, ?_, State.agent_pend hth rfl⟩
  change execEccError pa none (.later core k) s = _
  simp [execEccError, event, hth, hended, hidle]

theorem exec_eccError_engine {s : State} {id : Nat} {j : Job} {done : Nat} {buf : List Byte} (hj : find s.jobs id = some j)
    (hrun : j.st = .running done buf) (pa : Nat) :
    ∃ t, exec (.eccError pa none (.engine id)) s = .next t ∧ find t.jobs id = some { j with st := .ended 6 done true } := by
  refine ⟨s.jobEnd id j 6 done, ?_, find_set_same _ _ _⟩
  change execEccError pa none (.engine id) s = _
  simp [execEccError, event, hj, hrun]

/-! ## What a reply and a flit leave of the links (22 R386) -/

/-- Equal memories, management records, rings and ports. -/
structure State.SameLinks (s t : State) : Prop where
  mem     : t.mem = s.mem
  hostMem : t.hostMem = s.hostMem
  mgmt    : t.mgmt = s.mgmt
  rings   : t.rings = s.rings
  ports   : t.ports = s.ports

/-- Equal memories and management records, and the same ports up. -/
structure State.LinksKept (s t : State) : Prop where
  mem     : t.mem = s.mem
  hostMem : t.hostMem = s.hostMem
  mgmt    : t.mgmt = s.mgmt
  up      : ∀ p, (t.port p).up = (s.port p).up

namespace State.SameLinks

variable {s t u : State}

theorem refl (s : State) : s.SameLinks s := ⟨rfl, rfl, rfl, rfl, rfl⟩

theorem trans (h : s.SameLinks t) (k : t.SameLinks u) : s.SameLinks u :=
  ⟨k.mem.trans h.mem, k.hostMem.trans h.hostMem, k.mgmt.trans h.mgmt, k.rings.trans h.rings, k.ports.trans h.ports⟩

theorem setAgent (s : State) (w : Who) (th : Thread) : s.SameLinks (s.setAgent w th) := by
  rw [State.setAgent_eq]
  exact ⟨rfl, rfl, rfl, rfl, rfl⟩

theorem now (h : s.SameLinks t) (turn : Turn) : s.SameLinks (t.now turn) := ⟨h.mem, h.hostMem, h.mgmt, h.rings, h.ports⟩

theorem foldl {α : Type} {f : State → α → State} (h : ∀ (s : State) x, s.SameLinks (f s x)) (l : List α) (s : State) : s.SameLinks (l.foldl f s) :=
  List.foldlRecOn l f (refl s) fun b hb a _ => hb.trans (h b a)

theorem deliver (s : State) (w : Who) (seq k : Nat) (v : W64) : s.SameLinks (s.deliver w seq k v) := by
  unfold State.deliver
  split
  · split
    · exact refl s
    · exact (setAgent s w _).now _
  · exact refl s

theorem deliverTrap (s : State) (w : Who) (seq : Nat) (ks : List Nat) (c : Cause) (v : W64) : s.SameLinks (s.deliverTrap w seq ks c v) := by
  unfold State.deliverTrap
  split
  · split
    · exact refl s
    · exact (setAgent s w _).now _
  · exact refl s

theorem reply (s : State) (w : Who) (seq : Nat) (ks : List Nat) (r : Reply) : s.SameLinks (s.reply w seq ks r) := by
  cases r with
  | trap c v => exact deliverTrap s w seq ks c v
  | ok vals => exact foldl (fun s k => deliver s w seq k _) ks s

end State.SameLinks

namespace State.LinksKept

variable {s t u : State}

theorem refl (s : State) : s.LinksKept s := ⟨rfl, rfl, rfl, fun _ => rfl⟩

theorem trans (h : s.LinksKept t) (k : t.LinksKept u) : s.LinksKept u :=
  ⟨k.mem.trans h.mem, k.hostMem.trans h.hostMem, k.mgmt.trans h.mgmt, fun p => (k.up p).trans (h.up p)⟩

theorem of_sameLinks (h : s.SameLinks t) : s.LinksKept t := ⟨h.mem, h.hostMem, h.mgmt, fun p => by rw [State.port, h.ports]; rfl⟩

theorem foldl {α : Type} {f : State → α → State} (h : ∀ (s : State) x, s.LinksKept (f s x)) (l : List α) (s : State) : s.LinksKept (l.foldl f s) :=
  List.foldlRecOn l f (refl s) fun b hb a _ => hb.trans (h b a)

theorem setPort {port : Nat} {p : Port} (h : p.up = (s.port port).up) : s.LinksKept (s.setPort port p) where
  mem := rfl
  hostMem := rfl
  mgmt := rfl
  up j := by
    rw [State.port_setPort]
    split
    · next hj => rw [hj.1, h]
    · rfl

theorem setSess (s : State) (r : Nat) (se : Session) : s.LinksKept (s.setSess r se) := ⟨rfl, rfl, rfl, fun _ => rfl⟩

theorem unparkJob (s : State) (id : Nat) : s.LinksKept (s.unparkJob id) := ⟨rfl, rfl, rfl, fun _ => rfl⟩

end State.LinksKept

theorem Port.up_emit (p : Port) (f : Flit) : (p.emit f).up = p.up := by
  unfold Port.emit
  split <;> rfl

theorem State.LinksKept.sendFlit (s : State) (port : Nat) (f : Flit) : s.LinksKept (s.sendFlit port f) := by
  unfold State.sendFlit
  dsimp only
  split
  · exact .setPort (Port.up_emit _ f)
  · exact .refl s

theorem State.rings_sendFlit (s : State) (port : Nat) (f : Flit) : (s.sendFlit port f).rings = s.rings := by
  unfold State.sendFlit
  dsimp only
  split <;> rfl

/-! ## A ring's session breaks (22 R386) -/

/-- The session of a ring is broken for a reason. -/
def State.BrokenAt (s : State) (r reason : Nat) : Prop := ∃ se, (s.ring r).sess = some se ∧ se.broken = some reason

theorem State.BrokenAt.of_rings {s t : State} {r reason : Nat} (h : s.BrokenAt r reason) (hrings : t.rings = s.rings) : t.BrokenAt r reason := by
  unfold State.BrokenAt State.ring
  rw [hrings]
  exact h

theorem State.brokenAt_setSess (s : State) {r reason : Nat} {se : Session} (hr : r < 12) (h : se.broken = some reason) :
    (s.setSess r se).BrokenAt r reason :=
  ⟨se, by simp [State.setSess, State.ring_setRing, hr], h⟩

theorem State.LinksKept.serveTakes (s : State) (r : Nat) : s.LinksKept (s.serveTakes r) := by
  unfold State.serveTakes
  split
  · exact .refl s
  · dsimp only
    split
    · exact .refl s
    · exact (LinksKept.setSess s r _).trans (.of_sameLinks (.foldl (fun s (e : Who × Nat) => .reply s e.1 e.2 _ _) _ _))

theorem State.BrokenAt.serveTakes {s : State} {r reason : Nat} (hr : r < 12) (h : s.BrokenAt r reason) : (s.serveTakes r).BrokenAt r reason := by
  obtain ⟨se, hse, hbroken⟩ := h
  simp only [State.serveTakes, hse, hbroken]
  refine State.BrokenAt.of_rings (State.brokenAt_setSess s (se := { se with broken := some reason, takes := [] }) hr rfl) ?_
  exact (SameLinks.foldl (fun s (e : Who × Nat) => .reply s e.1 e.2 _ _) _ _).rings

theorem State.LinksKept.dropBlockFlits (s : State) (r : Nat) : s.LinksKept (s.dropBlockFlits r) := .setPort rfl

theorem State.LinksKept.ringSend (s : State) (r : Nat) (up : Bool) (typ slot off : Nat) (payload : List W64) :
    s.LinksKept (s.ringSend r up typ slot off payload) := .sendFlit s _ _

theorem State.rings_ringSend (s : State) (r : Nat) (up : Bool) (typ slot off : Nat) (payload : List W64) :
    (s.ringSend r up typ slot off payload).rings = s.rings := State.rings_sendFlit s _ _

theorem State.LinksKept.breakRing (s : State) (r reason : Nat) : s.LinksKept (s.breakRing r reason) := by
  unfold State.breakRing
  split
  · exact .refl s
  · split
    · exact .refl s
    · dsimp only
      refine .trans ?_ (.ringSend _ r false 6 0 0 [])
      refine .trans ?_ (.ringSend _ r true 6 0 0 [])
      refine .trans ?_ (.serveTakes _ r)
      refine .trans ?_ (.dropBlockFlits _ r)
      exact .trans (.unparkJob s _) (.setSess _ r _)

theorem State.brokenAt_breakRing {s : State} {r : Nat} {se : Session} (hse : (s.ring r).sess = some se) (hnone : se.broken = none) (hr : r < 12)
    (reason : Nat) : (s.breakRing r reason).BrokenAt r reason := by
  simp only [State.breakRing, hse, hnone, Option.isSome_none, Bool.false_eq_true, if_false]
  refine State.BrokenAt.of_rings ?_ ((State.rings_ringSend _ r false 6 0 0 []).trans (State.rings_ringSend _ r true 6 0 0 []))
  refine State.BrokenAt.serveTakes hr ?_
  exact (State.brokenAt_setSess (s.unparkJob (2 ^ 32 + r)) (se := { se with broken := some reason, sending := none, put := none }) hr rfl).of_rings rfl

/-! ## Power (26 R433) -/

theorem exec_powerGating_off {s : State} {core : Nat} (hcore : core < 2048) (hon : (s.core core).gated = false) :
    ∃ t, exec (.powerGating core false) s = .next t ∧ t.core core = { s.core core with gated := true, dead := true } ∧
      Turn.event .coreDeathDeclaration core 0 ∈ t.due := by
  refine ⟨(s.setCore core { s.core core with gated := true, dead := true }).now (.event .coreDeathDeclaration core 0), ?_,
    State.core_setCore_same s core _, List.mem_cons_self⟩
  change execPowerGating core false s = _
  simp [execPowerGating, event, hcore, State.gateCore, hon]

theorem exec_powerGating_on {s : State} {core : Nat} (hcore : core < 2048) :
    ∃ t, exec (.powerGating core true) s = .next t ∧ t.core core = { s.core core with gated := false } := by
  refine ⟨s.setCore core { s.core core with gated := false }, ?_, State.core_setCore_same s core _⟩
  change execPowerGating core true s = _
  simp [execPowerGating, event, hcore, State.gateCore]

/-! ## The module stops (25 R424, 26 R436) -/

/-- Ports below a number go down. -/
def State.portsDown (s : State) (n : Nat) : State :=
  (List.range n).foldl (fun (s : State) p => s.setPort p { s.port p with up := false }) s

theorem State.portsDown_succ (s : State) (n : Nat) :
    s.portsDown (n + 1) = (s.portsDown n).setPort n { (s.portsDown n).port n with up := false } := by
  simp [State.portsDown, List.range_succ]

theorem State.up_portsDown (s : State) {n : Nat} (hn : n ≤ 24) {p : Nat} (hp : p < n) : ((s.portsDown n).port p).up = false := by
  induction n with
  | zero => cases hp
  | succ n ih =>
    rw [State.portsDown_succ, State.port_setPort]
    split
    · rfl
    · next hne => exact ih (by omega) (by omega)

theorem State.portsDown_eq (s : State) (n : Nat) : s.portsDown n = { s with ports := (s.portsDown n).ports } := by
  induction n with
  | zero => rfl
  | succ n ih => rw [State.portsDown_succ, ih]; rfl

/-- Rings below a number break as their links stop. -/
def State.ringsStop (s : State) (n : Nat) : State := (List.range n).foldl (fun (s : State) r => s.breakRing r 1) s

theorem State.LinksKept.ringsStop (s : State) (n : Nat) : s.LinksKept (s.ringsStop n) := foldl (fun s r => .breakRing s r 1) _ s

theorem State.halt_eq (s : State) : s.halt = { (s.portsDown 24).ringsStop 12 with stopped := true } := rfl

theorem State.LinksKept.stop {s t : State} (h : s.LinksKept t) : s.LinksKept { t with stopped := true } := ⟨h.mem, h.hostMem, h.mgmt, h.up⟩

theorem State.LinksKept.halt (s : State) : (s.portsDown 24).LinksKept s.halt := by
  rw [State.halt_eq]
  exact (LinksKept.ringsStop (s.portsDown 24) 12).stop

theorem State.halt_stopped (s : State) : s.halt.stopped = true := rfl

theorem State.up_halt (s : State) {p : Nat} (hp : p < 24) : (s.halt.port p).up = false :=
  ((LinksKept.halt s).up p).trans (s.up_portsDown (Nat.le_refl _) hp)

theorem State.mgmt_halt (s : State) : s.halt.mgmt = s.mgmt := by
  rw [(LinksKept.halt s).mgmt, State.portsDown_eq]

theorem MemSame.halt (s : State) : MemSame s s.halt := by
  have hkept := State.LinksKept.halt s
  refine .of_eq ?_ ?_
  · rw [hkept.mem, State.portsDown_eq]
  · rw [hkept.hostMem, State.portsDown_eq]

theorem State.mem_log_logFailure (s : State) (r : Rec4) : r ∈ (s.logFailure r).mgmt.log := by
  simp only [State.logFailure]
  split
  · next h =>
    rw [List.drop_append_of_le_length (by simp at h; omega)]
    simp
  · simp

theorem exec_stopAtTick {s : State} {n : Nat} (hstop : s.stopAt = some n) (hn : n ≤ s.gtick) (hrun : s.stopped = false) :
    exec .stopAtTick s = .next s.halt := by
  change execStopAtTick _ = _
  simp [execStopAtTick, event, hstop, hn, hrun]

theorem exec_stopAtTick_none {s : State} (hstop : s.stopAt = none) : exec .stopAtTick s = .next s := by
  change execStopAtTick _ = _
  simp [execStopAtTick, event, hstop]

/-- The failure log's record of a thermal trip (26 Table 10, kind 4). -/
def State.tripRec (s : State) : Rec4 := { w0 := s.gtick64, w1 := w64 (4 + 6 * 2 ^ 16 + s.selA * 2 ^ 24), w2 := w64 s.selA, w3 := 0 }

theorem State.tripRec_fields {s : State} (h : s.selA < 8) :
    fld s.tripRec.w1 7 0 = 4 ∧ fld s.tripRec.w1 23 16 = 6 ∧ fld s.tripRec.w1 39 24 = s.selA := by
  have hnat : s.tripRec.w1.toNat = 4 + 6 * 2 ^ 16 + s.selA * 2 ^ 24 := by
    rw [State.tripRec, w64, BitVec.toNat_ofNat]
    omega
  simp only [fld, bitsOf, hnat]
  omega

theorem exec_thermalTrip {s : State} (h : s.selA < 8) : exec .thermalTrip s = .next (s.logFailure s.tripRec).halt := by
  change execThermalTrip s = _
  simp only [execThermalTrip, h, if_true, event, State.tripRec]

theorem State.tripRec_mem_halt (s : State) : s.tripRec ∈ (s.logFailure s.tripRec).halt.mgmt.log := by
  rw [State.mgmt_halt]
  exact s.mem_log_logFailure _

theorem exec_thermalTrip_absent {s : State} (h : 8 ≤ s.selA) : exec .thermalTrip s = .next s := by
  change execThermalTrip s = _
  rw [execThermalTrip, if_neg (Nat.not_lt.mpr h), event]

/-! ## Records enter the trace buffer (25 R416 to R418) -/

theorem byteAt_putBytes_inside {m : Memory} {pa k : Nat} {bs : List Byte} {b : Byte} (h : bs[k]? = some b) :
    byteAt (putBytes m pa bs) (pa + k) = b := by
  rw [byteAt_putBytes, if_pos (Nat.le_add_right pa k), Nat.add_sub_cancel_left, h, Option.getD_some]

theorem byteAt_putBytes_outside {m : Memory} {pa a : Nat} {bs : List Byte} (h : a < pa ∨ pa + bs.length ≤ a) :
    byteAt (putBytes m pa bs) a = byteAt m a := by
  rw [byteAt_putBytes]
  split
  · rw [List.getElem?_eq_none (by omega), Option.getD_none]
  · rfl

theorem putBytes_append (m : Memory) (pa : Nat) (bs cs : List Byte) :
    putBytes m pa (bs ++ cs) = putBytes (putBytes m pa bs) (pa + bs.length) cs := by
  induction bs generalizing m pa with
  | nil => rfl
  | cons b rest ih => rw [List.cons_append, putBytes, ih, putBytes, List.length_cons, Nat.add_comm rest.length, ← Nat.add_assoc]

theorem writeN_natOfBytes (m : Memory) (pa : Nat) (bs : List Byte) : writeN m pa bs.length (natOfBytes bs) = putBytes m pa bs := by
  induction bs generalizing m pa with
  | nil => rfl
  | cons b rest ih =>
    have hb : b.toNat < 256 := b.isLt
    have hlow : BitVec.ofNat 8 (b.toNat + 256 * natOfBytes rest) = b := by
      apply BitVec.eq_of_toNat_eq
      rw [BitVec.toNat_ofNat]
      omega
    have hhigh : (b.toNat + 256 * natOfBytes rest) / 256 = natOfBytes rest := by omega
    rw [List.length_cons, natOfBytes, writeN, hlow, hhigh, ih, putBytes]

theorem isHost_of_isHbm {s : State} {pa : Nat} (h : s.isHbm pa = true) : isHost pa = false := by
  rw [State.isHbm, Bool.and_eq_true, decide_eq_true_eq, hbmEnd] at h
  rw [isHost, hostBase, decide_eq_false (by omega), Bool.false_and]

/-- A doubleword in HBM is written at its home. -/
theorem State.tracePoke_of_hbm {s : State} (hhdm : s.host.hdm = []) {pa : Nat} (hpa : s.isHbm pa = true) (v : Nat) :
    ∃ slices, s.tracePoke pa v = { s with slices := slices, mem := writeN s.mem pa 8 v } := by
  rw [State.tracePoke, isHost_of_isHbm hpa, hpa]
  simp only [Bool.false_eq_true, if_false, if_true]
  split
  · rw [State.poke_of_no_lines (s := s.setSlice _ _) hhdm]
    exact ⟨_, rfl⟩
  · rw [State.poke_of_no_lines hhdm]
    exact ⟨s.slices, rfl⟩

/-- A record of whole doublewords in HBM is written from its address upward. -/
theorem State.tracePut_of_hbm {s : State} (hhdm : s.host.hdm = []) {pa k : Nat} {bs : List Byte} (hlen : bs.length = 8 * k)
    (hpa : ∀ j, j < bs.length → s.isHbm (pa + j) = true) :
    ∃ slices, s.tracePut pa bs k = { s with slices := slices, mem := putBytes s.mem pa bs } := by
  induction k generalizing s pa bs with
  | zero =>
    rw [List.length_eq_zero_iff.mp hlen]
    exact ⟨s.slices, rfl⟩
  | succ k ih =>
    obtain ⟨slices, hpoke⟩ := State.tracePoke_of_hbm hhdm (hpa 0 (by omega)) (natOfBytes (bs.take 8))
    have htake : (bs.take 8).length = 8 := by rw [List.length_take]; omega
    have hword := writeN_natOfBytes s.mem pa (bs.take 8)
    rw [htake] at hword
    have hrest : (bs.drop 8).length = 8 * k := by rw [List.length_drop]; omega
    rw [Nat.add_zero, hword] at hpoke
    rw [State.tracePut, hpoke]
    obtain ⟨slices', hput⟩ := ih (s := { s with slices := slices, mem := putBytes s.mem pa (bs.take 8) }) (pa := pa + 8) (bs := bs.drop 8) hhdm
      hrest fun j hj => by
        rw [Nat.add_assoc]
        exact hpa (8 + j) (by omega)
    have hsplit := putBytes_append s.mem pa (bs.take 8) (bs.drop 8)
    rw [List.take_append_drop, htake] at hsplit
    exact ⟨slices', by rw [hput, hsplit]⟩

theorem State.traceWrite_at_head {s : State} {bs : List Byte} (hfull : s.trace.full = false)
    (hfit : s.trace.head.toNat + bs.length ≤ s.trace.units.toNat * 4096) : s.traceWrite bs =
      { s.tracePut (s.trace.base.toNat + s.trace.head.toNat) bs (bs.length / 8) with
        trace := { s.trace with head := w64 (s.trace.head.toNat + bs.length) } } := by
  simp only [State.traceWrite, hfull, hfit, Bool.not_false, decide_true, Bool.and_self, if_true]

/-! ## Marks that wait for a pulse (25 R417) -/

theorem State.recs_traceWrite (s : State) (bs : List Byte) : (s.traceWrite bs).trace.recs = s.trace.recs := by
  unfold State.traceWrite
  dsimp only
  split
  · rfl
  · split <;> rfl

theorem State.recs_foldl_traceWrite (rs : List TraceRec) (s : State) :
    (rs.foldl (fun (s : State) r => s.traceWrite r.bytes) s).trace.recs = s.trace.recs :=
  List.foldlRecOn (motive := fun (t : State) => t.trace.recs = s.trace.recs) rs _ rfl fun t ht r _ => (t.recs_traceWrite r.bytes).trans ht

theorem State.recs_flushTrace (s : State) (tick : Nat) :
    (s.flushTrace tick).trace.recs = s.trace.recs.filter fun r => !decide (r.tick < tick) := by
  unfold State.flushTrace
  dsimp only
  split
  · next hnone =>
    rw [List.isEmpty_iff, List.filter_eq_nil_iff] at hnone
    refine (List.filter_eq_self.mpr fun r hr => ?_).symm
    simpa using hnone r hr
  · exact State.recs_foldl_traceWrite _ _

/-! ## Friezes read the state (25 R415) -/

theorem State.trace_runState (s : State) (w : Who) (g : Group) (th : Thread) : (s.runState w g th).2.trace = s.trace := rfl

theorem Frieze.trace_set (f : Frieze) (core : Nat) (g : Group) (t : Nat) : (f.set core g t).s.trace = f.s.trace := by
  unfold Frieze.set
  split
  · rfl
  · dsimp only
    split <;> rfl

theorem Frieze.trace_core (f : Frieze) (c : Nat) : (f.core c).s.trace = f.s.trace := by
  unfold Frieze.core
  dsimp only
  split
  · split
    · rfl
    · exact List.foldlRecOn (motive := fun (x : Frieze) => x.s.trace = f.s.trace) _ _ rfl fun x hx t _ => (x.trace_set c _ t).trans hx
  · rfl

theorem State.recs_frieze (s : State) (tick : Nat) : (s.frieze tick).trace.recs = s.trace.recs := by
  have hcores (cores : List Nat) (f : Frieze) : (cores.foldl (fun (f : Frieze) c => f.core c) f).s.trace = f.s.trace :=
    List.foldlRecOn (motive := fun (x : Frieze) => x.s.trace = f.s.trace) _ _ rfl fun x hx c _ => (x.trace_core c).trans hx
  unfold State.frieze
  dsimp only
  split <;> exact (State.recs_traceWrite _ _).trans (congrArg Trace.recs (hcores _ _))

/-! ## The pulse (25 R414, R417) -/

theorem exec_samplingPulse_off {s : State} (h : s.trace.en = false ∨ s.trace.period = 0) : exec .samplingPulse s = .next s := by
  change execSamplingPulse s = _
  rcases h with h | h <;> simp [execSamplingPulse, event, h]

/-- The records of earlier ticks have entered the buffer, and whether a frieze follows has been chosen. -/
def State.pulsedAt (s : State) (tick : Nat) : State := { s.flushTrace tick with freeCtr := (s.flushTrace tick).freeCtr + 1 }

theorem exec_samplingPulse {s : State} (hen : s.trace.en = true) (hperiod : s.trace.period ≠ 0) (htick : s.selA % s.trace.period.toNat = 0) :
    exec .samplingPulse s = .next (s.pulsedAt s.selA) ∨ exec .samplingPulse s = .next ((s.pulsedAt s.selA).frieze s.selA) := by
  change execSamplingPulse s = _ ∨ execSamplingPulse s = _
  have hon : (!s.trace.en || s.trace.period == 0 || s.selA % s.trace.period.toNat != 0) = false := by
    rw [hen, htick, beq_eq_false_iff_ne.mpr hperiod]
    rfl
  rw [execSamplingPulse, hon]
  cases hlate : Config.freeBool (s.flushTrace s.selA).freeCtr with
  | true => exact .inl (by simp [event, hlate, State.pulsedAt])
  | false => exact .inr (by simp [event, hlate, State.pulsedAt])

theorem State.flushTrace_of_one {s : State} {r : TraceRec} (hrecs : s.trace.recs = [r]) {tick : Nat} (htick : r.tick < tick) :
    s.flushTrace tick = { s with trace := { s.trace with recs := [] } }.traceWrite r.bytes := by
  simp [State.flushTrace, hrecs, htick]

/-- The one record that waits enters the buffer at its head. -/
theorem State.pulsedAt_of_one {s : State} {r : TraceRec} (hrecs : s.trace.recs = [r]) {tick : Nat} (htick : r.tick < tick)
    (hwords : r.bytes.length % 8 = 0) (hfull : s.trace.full = false) (hhdm : s.host.hdm = [])
    (hfit : s.trace.head.toNat + r.bytes.length ≤ s.trace.units.toNat * 4096)
    (hpa : ∀ k, k < r.bytes.length → s.isHbm (s.trace.base.toNat + s.trace.head.toNat + k) = true) :
    (s.pulsedAt tick).trace.recs = [] ∧ (s.pulsedAt tick).trace.head = w64 (s.trace.head.toNat + r.bytes.length) ∧
      (s.pulsedAt tick).mem = putBytes s.mem (s.trace.base.toNat + s.trace.head.toNat) r.bytes := by
  obtain ⟨slices, hput⟩ := State.tracePut_of_hbm (s := { s with trace := { s.trace with recs := [] } }) hhdm
    (pa := s.trace.base.toNat + s.trace.head.toNat) (k := r.bytes.length / 8) (bs := r.bytes) (by omega) hpa
  have hwrite := State.traceWrite_at_head (s := { s with trace := { s.trace with recs := [] } }) (bs := r.bytes) hfull hfit
  rw [State.pulsedAt, State.flushTrace_of_one hrecs htick, hwrite]
  exact ⟨rfl, rfl, by rw [hput]⟩

/-! ## The obligation -/

/-- Settles O57: each kind of event has its lemma above; a stop takes the links down by `State.up_halt`, and a pulse writes the records that wait
by `State.pulsedAt_of_one`. -/
theorem moduleEvents : Obligations.ModuleEvents := by
  unfold Obligations.ModuleEvents
  intro s pa core k tick array w by_
  refine ⟨fun h => exec_eccError_corrected h pa by_ s, fun g th hg hth hrun => exec_eccError_thread hg hth hrun pa,
    fun th hth hended hidle => exec_eccError_later hth hended hidle pa, fun id j done buf hj hrun => exec_eccError_engine hj hrun pa, ?forward,
    exec_powerGating_off, exec_powerGating_on, ?refresh, ?other, exec_samplingPulse_off (s := s.select tick 0), ?pulse, ?stop,
    exec_stopAtTick_none, ?trip, exec_thermalTrip_absent (s := s.select k 0), rfl⟩
  case forward =>
    intro r se hse hnone hr
    obtain ⟨se', hse', hbroken⟩ := State.brokenAt_breakRing hse hnone hr 4
    exact ⟨s.breakRing r 4, se', rfl, hse', hbroken⟩
  case refresh =>
    intro h
    change execPresentDrawRefresh w s = _
    simp [execPresentDrawRefresh, event, h, State.capChange]
  case other =>
    intro h
    change execPresentDrawRefresh w s = _
    simp [execPresentDrawRefresh, event, h]
  case pulse =>
    intro hen hperiod htick
    have hpulse := exec_samplingPulse (s := s.select tick 0) hen hperiod htick
    have hrecs : ((s.select tick 0).pulsedAt tick).trace.recs = s.trace.recs.filter fun r => !decide (r.tick < tick) :=
      State.recs_flushTrace (s.select tick 0) tick
    constructor
    · rcases hpulse with h | h
      · exact ⟨_, h, hrecs⟩
      · exact ⟨_, h, (State.recs_frieze _ _).trans hrecs⟩
    · intro r hone hbefore hwords hfull hhdm at_ n pa hfit hpa
      obtain ⟨hempty, hhead, hmem⟩ := State.pulsedAt_of_one (s := s.select tick 0) hone hbefore hwords hfull hhdm hfit hpa
      refine ⟨(s.select tick 0).pulsedAt tick, hpulse, hempty, hhead, fun k b hb => ?_, fun a ha => ?_⟩
      · rw [hmem]
        exact byteAt_putBytes_inside hb
      · rw [hmem]
        exact byteAt_putBytes_outside ha
  case stop =>
    exact fun n hstop hn hrun => ⟨s.halt, exec_stopAtTick hstop hn hrun, s.halt_stopped, .halt s, fun p => s.up_halt⟩
  case trip =>
    intro hk
    have hsel : (s.select k 0).selA < 8 := hk
    refine ⟨((s.select k 0).logFailure (s.select k 0).tripRec).halt, exec_thermalTrip hsel, State.halt_stopped _, ?_, fun p => State.up_halt _,
      _, State.tripRec_mem_halt _, State.tripRec_fields hsel⟩
    exact MemSame.halt ((s.select k 0).logFailure (s.select k 0).tripRec)

end Sys2Proof.Machine
